-- ==== Sys2Proof/Word.lean ====
section
/-! DEFINITION. Word types, and the type of a sparse table keyed by a number. -/

namespace Sys2Proof

/-- A byte (R5). -/
abbrev Byte := BitVec 8

/-- A scalar register, an instruction word, a mask register (R43, R86). -/
abbrev Word := BitVec 64

/-- A vector register or a tile row: 2,048 bits (R43, R60). -/
abbrev VWord := BitVec 2048

/-- An origin code of poison (R394). -/
abbrev Code := BitVec 32

/-- A sparse table: keys strictly rising. Keys that are not listed hold the reader's default. -/
abbrev SMap (α : Type) := List (Nat × α)

end Sys2Proof
end

