-- ==== Sys2Proof/Syntax.lean ====
section
/-! DEFINITION. The syntax: the fields of the seven instruction formats (R86 to R96), and one constructor
for each row of the opcode table: instructions carry their format's fields, the steps of the device's other
agents carry what identifies the step. -/

namespace Sys2Proof

/-- TY codes (R99). -/
inductive Ty where
  | none | i8 | i16 | i32 | i64 | n8 | n16 | n32 | n64 | f16 | bf16 | f32 | e4m3 | e5m2 | mx4 | mx8
  deriving DecidableEq, Repr

/-- Rounding modes (R74). -/
inductive Rnd where
  | rne | rz | rp | rm | rna | rs
  deriving DecidableEq, Repr

/-- The guard (R88): predicate number and inversion. -/
structure Guard where
  inv : Bool
  p : BitVec 3
  deriving DecidableEq, Repr

/-- Format R (R90), with the last-use flags of R87. -/
structure RF where
  grd : Guard
  luA : Bool
  luB : Bool
  luC : Bool
  dst : BitVec 6
  sa : BitVec 6
  sb : BitVec 6
  sc : BitVec 6
  sub : BitVec 8
  ty : Ty
  rnd : Rnd
  sat : Bool
  ru : Bool
  deriving DecidableEq, Repr

/-- Format I (R91). -/
structure IF where
  grd : Guard
  dst : BitVec 6
  sa : BitVec 6
  sub : BitVec 5
  imm : BitVec 32
  deriving DecidableEq, Repr

/-- Format M (R92). `scope` is MSK in the vector memory instructions (R98). -/
structure MF where
  grd : Guard
  luA : Bool
  luB : Bool
  dst : BitVec 6
  base : BitVec 6
  idx : BitVec 6
  scl : BitVec 2
  off : BitVec 16
  ty : Ty
  scope : BitVec 3
  ord : BitVec 2
  cache : BitVec 2
  deriving DecidableEq, Repr

/-- Format A (R93). -/
structure AF where
  grd : Guard
  dst : BitVec 6
  addr : BitVec 6
  sb : BitVec 6
  sc : BitVec 6
  addr2 : BitVec 6
  ty : Ty
  scope : BitVec 3
  ord : BitVec 2
  deriving DecidableEq, Repr

/-- Format B (R94). -/
structure BF where
  grd : Guard
  off : BitVec 32
  sub : BitVec 5
  deriving DecidableEq, Repr

/-- Format E (R95). -/
structure EF where
  grd : Guard
  tok : BitVec 6
  sa : BitVec 6
  sb : BitVec 6
  sc : BitVec 6
  sd : BitVec 6
  cmd : BitVec 11
  ty : Ty
  deriving DecidableEq, Repr

/-- Format S (R96). -/
structure SF where
  grd : Guard
  dst : BitVec 6
  sa : BitVec 6
  csr : BitVec 12
  sub : BitVec 5
  deriving DecidableEq, Repr

/-! What identifies a step of another agent. -/

/-- A strand slot: reel number 121 · field + block, and slot 0 to 7. -/
structure StrandRef where
  reel : Nat
  slot : Nat
  deriving DecidableEq, Repr

/-- A bank with a supply of its own (R53). -/
inductive BankRef where
  | vec (reel slot bank : Nat)
  | ls (reel bank : Nat)
  deriving DecidableEq, Repr

/-- Engine codes (R309, R434). -/
inductive Eng where
  | feed | kv | drain | copy | age | walk | config
  deriving DecidableEq, Repr

/-- A unit that scan-out moves (R407). -/
inductive UnitRef where
  | reel (n : Nat)
  | block (n : Nat)
  deriving DecidableEq, Repr

/-- A link (R398): a hop or seam between fields, a vertical bus, a host or a peer port. -/
inductive LinkRef where
  | hop (field block dir : Nat)
  | channel (stack n : Nat)
  | seam (field edge lane : Nat)
  | vbus (field bus conn : Nat)
  | host (port : Nat)
  | peer (port : Nat)
  deriving DecidableEq, Repr

/-- Where an uncorrectable error is found (R394, R395). -/
inductive PoisonUnit where
  | mem (pa : Nat)
  | l1 (reel pa : Nat)
  | far (field pa : Nat)
  | ls (reel off : Nat)
  | scalar (r : StrandRef) (n : Nat)
  | pred (r : StrandRef) (n : Nat)
  | mask (r : StrandRef) (n : Nat)
  | vector (r : StrandRef) (n granule : Nat)
  | tile (reel row lane : Nat)
  | flit (line index : Nat)
  | plane (kite cell : Nat) (shadow : Bool)
  | ctxWord (kite cell tag : Nat)
  | none
  deriving DecidableEq, Repr

/-- A detection (R394, R466): KIND, field, severity, the units of the word that its code protects, physical address,
location. -/
structure Detection where
  kind : Nat
  field : Nat
  severity : Nat
  units : List PoisonUnit
  pa : Word
  loc : Word
  deriving DecidableEq, Repr

/-- What the physical part shows a warm or cold start (R411): the banks of either firmware that verify, bit by bank; whether
the core rail rises; whether the keys and signatures of both maps in flash verify (R417); the defects that phase 4 finds (map
entries of R418); the stacks that fail to train; bus connections that are open, shorted or stuck at 1, by field, bus and
connection (R429, R431); and the ports that train. -/
structure StartReport where
  quedonOk : BitVec 2
  railOk : Bool
  controlOk : BitVec 2
  mapsOk : Bool
  found : List Word
  deadStacks : List Nat
  busOpen : List (Nat × Nat × Nat)
  busShort : List (Nat × Nat × Nat × Nat)
  busStuck : List (Nat × Nat × Nat)
  portsUp : BitVec 4
  peersUp : BitVec 16
  deriving DecidableEq, Repr

/-- A fetch of a queue's next packet; `failed` where bytes of it come from host memory with a completion error (R358). -/
structure PacketRead where
  queue : Nat
  failed : Bool
  deriving DecidableEq, Repr

/-- Bytes that the host sends, and whether they come marked poisoned (R154, R375, R394). -/
structure HostBytes where
  bytes : List Byte
  poisoned : Bool
  deriving DecidableEq, Repr

/-- Where the answer to a reduction comes: the peer port, and the command (R378). -/
structure ReductionOf where
  port : Nat
  cmd : Nat
  deriving DecidableEq, Repr

/-- Bytes that a peer sends (R378). -/
structure PeerTransfer where
  port : Nat
  sender : BitVec 16
  tag : BitVec 16
  window : Nat
  offset : Nat
  bytes : List Byte
  reduction : Bool
  poisoned : Bool
  deriving DecidableEq, Repr

/-- What the power manager measures (R445, R448): power of the device and of each field in W, hottest sensor
of each field in °C, rail voltage in mV and current in A. -/
structure Measurement where
  power : Nat
  /-- Average power of each of the 10 µs of the interval that ends; where one is missing, `power`. -/
  trace : List Nat
  fieldPower : List Nat
  temps : List Int
  railmV : Nat
  railA : Nat
  deriving DecidableEq, Repr

/-- Firmware components (R437). -/
inductive Component where
  | quedon | control
  deriving DecidableEq, Repr

/-- A firmware image (R437) with the outcome of its signature check. -/
structure Image where
  component : Component
  version : BitVec 32
  svn : BitVec 32
  lengthOk : Bool
  signatureOk : Bool
  healthy : Bool
  deriving DecidableEq, Repr

/-- A defect map (R416) with the outcome of its digest and signature checks. -/
structure MapImage where
  kind : Nat
  magic : BitVec 32
  version : BitVec 16
  serial : BitVec 128
  seq : Word
  reservedZero : Bool
  keyOk : Bool
  signatureOk : Bool
  entries : List Word
  deriving DecidableEq, Repr

/-- One constructor for each row of the opcode table. -/
inductive Instr where
  /-- NOP (R110). -/
  | nop (g : Guard)
  /-- ADD (R198). -/
  | add (f : RF)
  /-- SUB (R198). -/
  | sub (f : RF)
  /-- MUL (R198). -/
  | mul (f : RF)
  /-- MULH (R198). -/
  | mulh (f : RF)
  /-- MADD (R198). -/
  | madd (f : RF)
  /-- DIV (R199). -/
  | div (f : RF)
  /-- REM (R199). -/
  | rem (f : RF)
  /-- ABSD (R198). -/
  | absd (f : RF)
  /-- MIN (R198). -/
  | min (f : RF)
  /-- MAX (R198). -/
  | max (f : RF)
  /-- AND (R198). -/
  | and_ (f : RF)
  /-- OR (R198). -/
  | or_ (f : RF)
  /-- XOR (R198). -/
  | xor_ (f : RF)
  /-- ANDN (R198). -/
  | andn (f : RF)
  /-- SHL (R198). -/
  | shl (f : RF)
  /-- SHR (R198). -/
  | shr (f : RF)
  /-- SAR (R198). -/
  | sar (f : RF)
  /-- ROL (R198). -/
  | rol (f : RF)
  /-- CLZ (R198). -/
  | clz (f : RF)
  /-- POPC (R198). -/
  | popc (f : RF)
  /-- BREV (R198). -/
  | brev (f : RF)
  /-- BFX (R200). -/
  | bfx (f : RF)
  /-- BFI (R200). -/
  | bfi (f : RF)
  /-- EXT (R201). -/
  | ext (f : RF)
  /-- MOV (R202). -/
  | mov (f : RF)
  /-- SEL (R202). -/
  | sel (f : RF)
  /-- LEA (R202). -/
  | lea (f : RF)
  /-- CMP (R204). -/
  | cmp (f : RF)
  /-- PLOG (R205). -/
  | plog (f : RF)
  /-- PMOV (R206). -/
  | pmov (f : RF)
  /-- ADDI (R207). -/
  | addi (f : IF)
  /-- MULI (R207). -/
  | muli (f : IF)
  /-- LOGI (R207). -/
  | logi (f : IF)
  /-- SHI (R207). -/
  | shi (f : IF)
  /-- CMPI (R208). -/
  | cmpi (f : IF)
  /-- MOVI (R207). -/
  | movi (f : IF)
  /-- MOVHI (R207). -/
  | movhi (f : IF)
  /-- BR (R209). -/
  | br (f : BF)
  /-- BRR (R209). -/
  | brr (f : RF)
  /-- CALL (R209). -/
  | call (f : BF)
  /-- CALLR (R209). -/
  | callr (f : RF)
  /-- RET (R209). -/
  | ret (f : RF)
  /-- LOOP (R210). -/
  | loop (f : IF)
  /-- DBNZ (R210). -/
  | dbnz (f : IF)
  /-- EXIT (R30). -/
  | exit (f : RF)
  /-- YIELD (R31). -/
  | yield (f : RF)
  /-- WAITT (R215). -/
  | waitt (f : RF)
  /-- WAITQ (R217). -/
  | waitq (f : RF)
  /-- SPAWN (R219). -/
  | spawn (f : RF)
  /-- PRIO (R220). -/
  | prio (f : IF)
  /-- TIME (R221). -/
  | time (f : RF)
  /-- STRID (R222). -/
  | strid (f : RF)
  /-- BKPT (R223). -/
  | bkpt (f : IF)
  /-- LD (R240). -/
  | ld (f : MF)
  /-- ST (R240). -/
  | st (f : MF)
  /-- LDL (R244). -/
  | ldl (f : MF)
  /-- STL (R244). -/
  | stl (f : MF)
  /-- LDACQ (R243). -/
  | ldacq (f : MF)
  /-- STREL (R243). -/
  | strel (f : MF)
  /-- PREF (R245). -/
  | pref (f : MF)
  /-- CLINE (R246). -/
  | cline (f : MF)
  /-- FENCE (R247). -/
  | fence (f : MF)
  /-- SPKILL (R248). -/
  | spkill (f : MF)
  /-- AADD (R250). -/
  | aadd (f : AF)
  /-- AFADD (R251). -/
  | afadd (f : AF)
  /-- AMIN (R250). -/
  | amin (f : AF)
  /-- AMAX (R250). -/
  | amax (f : AF)
  /-- AAND (R250). -/
  | aand (f : AF)
  /-- AOR (R250). -/
  | aor (f : AF)
  /-- AXOR (R250). -/
  | axor (f : AF)
  /-- AXCHG (R250). -/
  | axchg (f : AF)
  /-- ACAS (R250). -/
  | acas (f : AF)
  /-- ADCAS (R252). -/
  | adcas (f : AF)
  /-- AMOVE (R253). -/
  | amove (f : AF)
  /-- AADD2 (R253). -/
  | aadd2 (f : AF)
  /-- WAITA (R255). -/
  | waita (f : AF)
  /-- BARA (R258). -/
  | bara (f : AF)
  /-- BARW (R259). -/
  | barw (f : AF)
  /-- COLL (R261). -/
  | coll (f : AF)
  /-- VADD (R268). -/
  | vadd (f : RF)
  /-- VSUB (R268). -/
  | vsub (f : RF)
  /-- VMUL (R268). -/
  | vmul (f : RF)
  /-- VFMA (R268). -/
  | vfma (f : RF)
  /-- VMIN (R268). -/
  | vmin (f : RF)
  /-- VMAX (R268). -/
  | vmax (f : RF)
  /-- VABS (R268). -/
  | vabs (f : RF)
  /-- VNEG (R268). -/
  | vneg (f : RF)
  /-- VDIV (R268). -/
  | vdiv (f : RF)
  /-- VSQRT (R268). -/
  | vsqrt (f : RF)
  /-- VRCP (R82). -/
  | vrcp (f : RF)
  /-- VRSQ (R82). -/
  | vrsq (f : RF)
  /-- VEXP2 (R82). -/
  | vexp2 (f : RF)
  /-- VLOG2 (R82). -/
  | vlog2 (f : RF)
  /-- VROUND (R269). -/
  | vround (f : RF)
  /-- VCLAMP (R268). -/
  | vclamp (f : RF)
  /-- VAND (R270). -/
  | vand (f : RF)
  /-- VOR (R270). -/
  | vor (f : RF)
  /-- VXOR (R270). -/
  | vxor (f : RF)
  /-- VNOT (R270). -/
  | vnot (f : RF)
  /-- VSHL (R270). -/
  | vshl (f : RF)
  /-- VSHR (R270). -/
  | vshr (f : RF)
  /-- VSAR (R270). -/
  | vsar (f : RF)
  /-- VMULH (R270). -/
  | vmulh (f : RF)
  /-- VCLZ (R270). -/
  | vclz (f : RF)
  /-- VPOPC (R270). -/
  | vpopc (f : RF)
  /-- VACS (R271). -/
  | vacs (f : RF)
  /-- VCMP (R272). -/
  | vcmp (f : RF)
  /-- VSEL (R273). -/
  | vsel (f : RF)
  /-- VMOV (R273). -/
  | vmov (f : RF)
  /-- VBCAST (R273). -/
  | vbcast (f : RF)
  /-- VIOTA (R273). -/
  | viota (f : RF)
  /-- VINS (R273). -/
  | vins (f : RF)
  /-- VEXT (R274). -/
  | vext (f : RF)
  /-- VPERM (R275). -/
  | vperm (f : RF)
  /-- VSHUF (R276). -/
  | vshuf (f : RF)
  /-- VRED (R277). -/
  | vred (f : RF)
  /-- VSCAN (R278). -/
  | vscan (f : RF)
  /-- VCOMP (R279). -/
  | vcomp (f : RF)
  /-- VEXPD (R279). -/
  | vexpd (f : RF)
  /-- VCVT (R280). -/
  | vcvt (f : RF)
  /-- VQNT (R281). -/
  | vqnt (f : RF)
  /-- VDQNT (R282). -/
  | vdqnt (f : RF)
  /-- MLOG (R283). -/
  | mlog (f : RF)
  /-- MPOPC (R283). -/
  | mpopc (f : RF)
  /-- MFIRST (R283). -/
  | mfirst (f : RF)
  /-- MMOV (R284). -/
  | mmov (f : RF)
  /-- VLD (R285). -/
  | vld (f : MF)
  /-- VST (R285). -/
  | vst (f : MF)
  /-- VLDS (R285). -/
  | vlds (f : MF)
  /-- VSTS (R285). -/
  | vsts (f : MF)
  /-- VGATH (R285). -/
  | vgath (f : MF)
  /-- VSCAT (R285). -/
  | vscat (f : MF)
  /-- SFEED (R298). -/
  | sfeed (f : EF)
  /-- SDRAIN (R300). -/
  | sdrain (f : EF)
  /-- SBND (R301). -/
  | sbnd (f : EF)
  /-- PMARK (R302). -/
  | pmark (f : EF)
  /-- COPY (R304). -/
  | copy (f : EF)
  /-- COPY2D (R304). -/
  | copy2d (f : EF)
  /-- FILL (R304). -/
  | fill (f : EF)
  /-- GATHR (R304). -/
  | gathr (f : EF)
  /-- SCATR (R304). -/
  | scatr (f : EF)
  /-- KVLD (R308). -/
  | kvld (f : EF)
  /-- KVAPP_ROWS (R306). -/
  | kvappRows (f : EF)
  /-- KVAPP_INIT (R306). -/
  | kvappInit (f : EF)
  /-- KVSEAL (R307). -/
  | kvseal (f : EF)
  /-- RETRY (R311). -/
  | retry (f : EF)
  /-- ECANCEL (R312). -/
  | ecancel (f : EF)
  /-- ESTAT (R313). -/
  | estat (f : EF)
  /-- KFUSE (R163). -/
  | kfuse (f : EF)
  /-- KFREE (R191). -/
  | kfree (f : EF)
  /-- KCTX (R316). -/
  | kctx (f : EF)
  /-- KLDW (R317). -/
  | kldw (f : EF)
  /-- KSWAP (R318). -/
  | kswap (f : EF)
  /-- KMMA (R319). -/
  | kmma (f : EF)
  /-- KROUTE (R320). -/
  | kroute (f : EF)
  /-- KUNROUTE (R191). -/
  | kunroute (f : EF)
  /-- KQRY (R321). -/
  | kqry (f : EF)
  /-- KCLK (R322). -/
  | kclk (f : EF)
  /-- ATLD (R324). -/
  | atld (f : RF)
  /-- ATST (R324). -/
  | atst (f : RF)
  /-- ATADD (R325). -/
  | atadd (f : RF)
  /-- ATMAX (R325). -/
  | atmax (f : RF)
  /-- ATCLR (R328). -/
  | atclr (f : RF)
  /-- VDROP (R329). -/
  | vdrop (f : RF)
  /-- BKQ (R330). -/
  | bkq (f : RF)
  /-- BOOST_REQ (R331). -/
  | boostReq (f : IF)
  /-- BOOST_REL (R331). -/
  | boostRel (f : IF)
  /-- BOOST_QRY (R331). -/
  | boostQry (f : IF)
  /-- PWRHINT_IDLE (R332). -/
  | pwrhintIdle (f : IF)
  /-- PWRHINT_RAMP (R332). -/
  | pwrhintRamp (f : IF)
  /-- TRAP (R227). -/
  | trap (f : SF)
  /-- ERET (R227). -/
  | eret (f : SF)
  /-- CSRR (R228). -/
  | csrr (f : SF)
  /-- CSRW (R228). -/
  | csrw (f : SF)
  /-- CSRX (R228). -/
  | csrx (f : SF)
  /-- TLBINV (R230). -/
  | tlbinv (f : SF)
  /-- CTXSV (R231). -/
  | ctxsv (f : SF)
  /-- CTXLD (R232). -/
  | ctxld (f : SF)
  /-- IDLE (R233). -/
  | idle (f : SF)
  /-- EVPOST (R234). -/
  | evpost (f : SF)
  /-- ALLOCQ_GRANT (R235). -/
  | allocqGrant (f : SF)
  /-- ALLOCQ_FREE (R235). -/
  | allocqFree (f : SF)
  /-- SPAWN_ANSWER (R28). -/
  | spawnAnswer (id : Nat)
  /-- LOAD_DATA_ARRIVAL (R48). -/
  | loadDataArrival (id : Nat)
  /-- BANK_WAKE_DONE (R55). -/
  | bankWakeDone (b : BankRef)
  /-- BANK_RETAIN (R54). -/
  | bankRetain (b : BankRef)
  /-- BANK_OFF (R54). -/
  | bankOff (b : BankRef)
  /-- WAITA_WAKE (R255). -/
  | waitaWake (r : StrandRef)
  /-- WATCH_REREAD (R256). -/
  | watchReread (r : StrandRef)
  /-- WAITQ_WAKE (R217). -/
  | waitqWake (r : StrandRef)
  /-- WAIT_DEADLINE (R217). -/
  | waitDeadline (r : StrandRef)
  /-- BARRIER_RELEASE (R259). -/
  | barrierRelease (part b : Nat)
  /-- COLL_RESULT (R262). -/
  | collResult (part id : Nat)
  /-- WATCHDOG (R389). -/
  | watchdog (r : StrandRef)
  /-- ENGINE_COMMAND_START (R291). -/
  | engineCommandStart (reel : Nat) (e : Eng)
  /-- ENGINE_UNIT_DONE (R293). -/
  | engineUnitDone (id n : Nat)
  /-- CONFIG_UNIT_PERFORM (R190). -/
  | configUnitPerform (part : Nat)
  /-- LINE_FLIT_DELIVERY (R177). -/
  | lineFlitDelivery (line : Nat)
  /-- KITE_TOKEN_PASS (R165). -/
  | kiteTokenPass (kite : Nat)
  /-- HOME_REQUEST (R140). -/
  | homeRequest (id : Nat)
  /-- L1_WRITEBACK (R136). -/
  | l1Writeback (reel sector : Nat)
  /-- FAR_CACHE_DROP (R137). -/
  | farCacheDrop (field line : Nat)
  /-- INVALIDATION_ACK (R153). -/
  | invalidationAck (line field : Nat)
  /-- DIRECTORY_EVICT (R153). -/
  | directoryEvict (line : Nat)
  /-- PAGE_WALK (R401). -/
  | pageWalk (id : Nat)
  /-- TLBINV_ACK (R404). -/
  | tlbinvAck (id field : Nat)
  /-- REQUEST_RESEND (R400). -/
  | requestResend (id : Nat)
  /-- REPLY_ACK (R400). -/
  | replyAck (id : Nat)
  /-- KV_CONVERSION_START (R159). -/
  | kvConversionStart (stack page : Nat)
  /-- KV_CLOSING (R159). -/
  | kvClosing (stack : Nat)
  /-- KV_CONVERTING (R159). -/
  | kvConverting (stack : Nat)
  /-- KV_FLIP (R159). -/
  | kvFlip (stack : Nat)
  /-- PACKET_FETCH (R358). -/
  | packetFetch (q : PacketRead)
  /-- SEQ_RECHECK (R358). -/
  | seqRecheck (q : PacketRead)
  /-- LAUNCH (R365). -/
  | launchPacket (q : Nat)
  /-- BARRIER_AND (R362). -/
  | barrierAndPacket (q : Nat)
  /-- SIGNAL (R363). -/
  | signalPacket (q : Nat)
  /-- NOP_PACKET (R360). -/
  | nopPacket (q : Nat)
  /-- DEP_WATCH_WAKE (R362). -/
  | depWatchWake (q entry : Nat)
  /-- TASK_COMPLETE (R22). -/
  | taskComplete (task : Nat)
  /-- FAULT_RECORD_APPEND (R385). -/
  | faultRecordAppend (ctx : Nat)
  /-- SCAN_OUT_DONE (R407). -/
  | scanOutDone (u : UnitRef)
  /-- PMT_COMMAND_DONE (R406). -/
  | pmtCommandDone
  /-- HOST_SNOOP_RESPONSE (R374). -/
  | hostSnoopResponse (line : Nat)
  /-- UNASSIGNED_OPCODE (R108). -/
  | unassignedOpcode (w : Word)
  /-- FETCH_FAULT (R386). -/
  | fetchFault (r : StrandRef)
  /-- LINK_REPLAY (R398). -/
  | linkReplay (l : LinkRef)
  /-- LINK_DOWN (R399). -/
  | linkDown (l : LinkRef)
  /-- LINK_RETRAINED (R371). -/
  | linkRetrained (l : LinkRef)
  /-- DOORBELL (R357). -/
  | doorbell (q : Nat) (v : Word)
  /-- CONTEXT_CREATE (R353). -/
  | contextCreate (port ctx : Nat)
  /-- CONTEXT_DESTROY (R353). -/
  | contextDestroy (port ctx : Nat)
  /-- GRANT (R353). -/
  | grantPartition (port ctx : Nat)
  /-- FREE (R353). -/
  | freePartition (port : Nat)
  /-- QUEUE_CREATE (R355). -/
  | queueCreate (port q : Nat)
  /-- QUEUE_DESTROY (R370). -/
  | queueDestroy (port q : Nat)
  /-- DESTROY_WITH_KILL (R370). -/
  | destroyWithKill (port q : Nat)
  /-- PAUSE (R356). -/
  | pauseQueue (port q : Nat)
  /-- RESUME (R356). -/
  | resumeQueue (port q : Nat)
  /-- SUSPEND (R415). -/
  | suspendCtx
  /-- EVICT (R415). -/
  | evictCtx
  /-- RESTORE (R415). -/
  | restoreCtx
  /-- WITHHOLD (R421). -/
  | withholdSuspect
  /-- OFFER (R415). -/
  | offerSuspect
  /-- RESET_STRAND (R433). -/
  | resetStrand (target : Word)
  /-- RESET_ENGINE (R434). -/
  | resetEngine (target : Word)
  /-- RESET_REEL (R433). -/
  | resetReel (target : Word)
  /-- RESET_KITE_RELEASE (R433). -/
  | resetKiteRelease (target : Word)
  /-- RESET_FIELD (R433). -/
  | resetField (target : Word)
  /-- RESET_PARTITION (R433). -/
  | resetPartition (target : Word)
  /-- PCIE_FUNCTION_RESET (R433). -/
  | pcieFunctionReset (port : Nat)
  /-- WARM_DEVICE_RESET (R433). -/
  | warmDeviceReset (r : StartReport)
  /-- COLD_DEVICE_RESET (R411). -/
  | coldDeviceReset (r : StartReport)
  /-- MANAGEMENT_RESET (R433). -/
  | managementReset
  /-- FIELD_SELF_TEST_DONE (R412). -/
  | fieldSelfTestDone (field : Nat) (pass : Bool)
  /-- ERROR_DETECTION (R394). -/
  | errorDetection (d : Detection)
  /-- HARD_FAULT (R420). -/
  | hardFault (loc : Word)
  /-- HOST_MEM_WRITE (R374). -/
  | hostMemWrite (port pa : Nat) (bytes : HostBytes) (relaxed : Bool)
  /-- HOST_MEM_READ (R374). -/
  | hostMemRead (port pa n : Nat)
  /-- HOST_SNOOP (R375). -/
  | hostSnoop (pa : Nat) (bytes : HostBytes)
  /-- PEER_TRANSFER_ARRIVAL (R378). -/
  | peerTransferArrival (t : PeerTransfer)
  /-- PEER_ACKNOWLEDGE (R378). -/
  | peerAcknowledge (port tag : Nat) (refused : Bool)
  /-- REDUCTION_ANSWER (R379). -/
  | reductionAnswer (id : ReductionOf) (performed : Bool)
  /-- PEER_TIMEOUT (R379). -/
  | peerTimeout (id : Nat)
  /-- CURRENT_FLOOR (R443). -/
  | currentFloor (field demand : Nat)
  /-- CONTROL_INTERVAL (R445). -/
  | controlInterval (m : Measurement)
  /-- ENERGY_WINDOW (R446). -/
  | energyWindow (window : Nat)
  /-- HOT_CLEAR (R448). -/
  | hotClear (field : Nat)
  /-- STRETCH_WARNING (R451). -/
  | stretchWarning (rd : Nat)
  /-- STRETCH_RELAX (R451). -/
  | stretchRelax (rd : Nat)
  /-- DIVIDER_HOLD_END (R451). -/
  | dividerHoldEnd (rd : Nat)
  /-- FIELD_GATE (R450). -/
  | fieldGate (field : Nat)
  /-- FIELD_UNGATE (R450). -/
  | fieldUngate (field : Nat)
  /-- LEASE_EXPIRY (R454). -/
  | leaseExpiry (ctx : Nat)
  /-- TELEMETRY_SNAPSHOT (R459). -/
  | telemetrySnapshot
  /-- GET_RECORD (R456). -/
  | getRecord (tag schema : Byte) (inst : BitVec 16)
  /-- READ_REG (R456). -/
  | readReg (tag index : Byte)
  /-- WRITE_REG (R456). -/
  | writeReg (tag index : Byte) (v : Word)
  /-- RAS_READ (R456). -/
  | rasRead (tag : Byte) (serial : BitVec 32)
  /-- REQUEST_UPDATE (R438). -/
  | requestUpdate (c : Component)
  /-- FIRMWARE_TRANSFER (R438). -/
  | firmwareTransfer (c : Component) (img : Image)
  /-- VERIFY_COMPLETE (R438). -/
  | verifyComplete (c : Component)
  /-- ACTIVATE_FIRMWARE (R439). -/
  | activateFirmware (c : Component)
  /-- QUIESCENT_POINT (R439). -/
  | quiescentPoint
  /-- HEALTH_CHECK_PASS (R440). -/
  | healthCheckPass
  /-- HEALTH_CHECK_FAIL (R440). -/
  | healthCheckFail
  /-- SVN_RAISE (R440). -/
  | svnRaise (v : BitVec 32)
  /-- MAP_PROVISION (R423). -/
  | mapProvision (factory delta : Option MapImage)
  /-- REGISTER_WRITE (R351). -/
  | registerWrite (port off : Nat) (v : Word)
  /-- FIELD_SELF_TEST_START (R412). -/
  | fieldSelfTestStart (field : Nat)
  /-- SPDM_SESSION (R438). -/
  | spdmSession (est : Bool)
  /-- PCIE_CONFIG_WRITE (R468). -/
  | pcieConfigWrite (port : Nat) (msixOn : Bool)
  /-- UNASSIGNED_COMMAND (R456). -/
  | unassignedCommand (tag command : Byte)
  deriving DecidableEq, Repr

end Sys2Proof
end

