-- ==== Sys2Proof/WellFormed.lean ====
section
/-! DEFINITION. Well-formed instructions: the encodings that R89, R97, R98, R103 and the entries allow, one line
for each constructor. What is not well-formed raises ILLEGAL (R111). -/

namespace Sys2Proof

/-- What a register field names (R97): nothing (reserved, zero), a scalar, predicate or mask register, a group
of `n` vector registers that is read or written, or a vector register named but not read (VDROP). -/
inductive Role where
  | z | s | p | m | v (n : Nat) | vn
  deriving DecidableEq, Repr

structure RDesc where
  dst : Role
  sa : Role
  sb : Role
  sc : Role
  sub : Bool
  ty : Bool
  sat : Bool
  rnd : Bool := true
  ru : Bool := true
  deriving DecidableEq, Repr

structure IDesc where
  dst : Role
  sa : Role
  ok : Bool
  deriving DecidableEq, Repr

/-- `load` tells whether DST is a destination; otherwise it holds data or an operation. -/
structure MDesc where
  load : Bool
  dst : Role
  base : Role
  idx : Role
  ok : Bool
  deriving DecidableEq, Repr

structure ADesc where
  dst : Role
  addr : Role
  sb : Role
  sc : Role
  addr2 : Role
  ok : Bool
  deriving DecidableEq, Repr

/-- `sdOut` tells whether SD names a destination. -/
structure EDesc where
  sa : Role
  sb : Role
  sc : Role
  sd : Role
  sdOut : Bool
  ok : Bool
  deriving DecidableEq, Repr

structure SDesc where
  dst : Role
  sa : Role
  ok : Bool
  deriving DecidableEq, Repr

/-- An instruction's opcode, format fields and what its entry makes of them. -/
inductive Shape where
  | nop (g : Guard)
  | r (opc : BitVec 8) (f : RF) (d : RDesc)
  | i (opc : BitVec 8) (f : IF) (d : IDesc)
  | m (opc : BitVec 8) (f : MF) (d : MDesc)
  | a (opc : BitVec 8) (f : AF) (d : ADesc)
  | b (opc : BitVec 8) (f : BF)
  | e (opc : BitVec 8) (f : EF) (d : EDesc)
  | s (opc : BitVec 8) (f : SF) (d : SDesc)
  | word (w : Word)
  | event
  deriving DecidableEq, Repr

/-! Classes of types (R99, R239, R263). -/

def Ty.code : Ty → BitVec 5
  | .none => 0 | .i8 => 1 | .i16 => 2 | .i32 => 3 | .i64 => 4 | .n8 => 5 | .n16 => 6 | .n32 => 7
  | .n64 => 8 | .f16 => 9 | .bf16 => 10 | .f32 => 11 | .e4m3 => 12 | .e5m2 => 13 | .mx4 => 14 | .mx8 => 15

def Ty.ofCode (c : BitVec 5) : Option Ty :=
  match c.toNat with
  | 0 => some .none | 1 => some .i8 | 2 => some .i16 | 3 => some .i32 | 4 => some .i64 | 5 => some .n8
  | 6 => some .n16 | 7 => some .n32 | 8 => some .n64 | 9 => some .f16 | 10 => some .bf16 | 11 => some .f32
  | 12 => some .e4m3 | 13 => some .e5m2 | 14 => some .mx4 | 15 => some .mx8 | _ => Option.none

/-- Width in bits of the type (R99); TY 0 is a 32-bit lane in vector instructions (R263). -/
def Ty.lane : Ty → Nat
  | .i8 | .n8 | .e4m3 | .e5m2 | .mx8 => 8
  | .i16 | .n16 | .f16 | .bf16 => 16
  | .none | .i32 | .n32 | .f32 => 32
  | .i64 | .n64 => 64
  | .mx4 => 4

/-- Width in bits of a scalar integer type, where TY 0 stands for 64 bits (R103). -/
def Ty.bits : Ty → Nat
  | .none => 64
  | t => t.lane

def Ty.isInt : Ty → Bool
  | .none | .i8 | .i16 | .i32 | .i64 | .n8 | .n16 | .n32 | .n64 => true
  | _ => false

/-- Class F of R263. -/
def Ty.isF : Ty → Bool
  | .f16 | .bf16 | .f32 => true
  | _ => false

/-- Class I of R263. -/
def Ty.isI : Ty → Bool
  | .i8 | .i16 | .i32 | .n8 | .n16 | .n32 => true
  | _ => false

/-- Class B8 of R263. -/
def Ty.isB8 : Ty → Bool
  | .e4m3 | .e5m2 => true
  | _ => false

/-- Class 0 of R263. -/
def Ty.is0 : Ty → Bool
  | .none => true
  | _ => false

def Ty.isFI (t : Ty) : Bool := t.isF || t.isI
def Ty.isAny (t : Ty) : Bool := t.is0 || t.isI || t.isF || t.isB8
def Ty.isSigned : Ty → Bool
  | .i8 | .i16 | .i32 | .i64 => true
  | _ => false

/-- The types of AADD (R249). -/
def Ty.isAtom : Ty → Bool
  | .none | .i32 | .n32 | .i64 | .n64 => true
  | _ => false

/-- 32-bit lane types of R279 and R285. -/
def Ty.is32 : Ty → Bool
  | .none | .i32 | .n32 | .f32 => true
  | _ => false

/-- SUB[4:0] of the vector instructions (R98). -/
def RF.low (f : RF) : Nat := (f.sub.extractLsb' 0 5).toNat
/-- MSK in format R (R98). -/
def RF.msk (f : RF) : Nat := (f.sub.extractLsb' 5 3).toNat
/-- The source type of VCVT, VQNT and VDQNT (R98). -/
def RF.src (f : RF) : Option Ty := Ty.ofCode (f.sub.extractLsb' 0 5)
/-- MSK in format M (R98). -/
def MF.msk (f : MF) : Nat := f.scope.toNat
/-- Bits hi..lo of CMD. -/
def EF.bits (f : EF) (lo n : Nat) : Nat := (f.cmd.extractLsb' lo n).toNat

/-- The CSR numbers that some rule assigns (R63, R376, R452, R392, R429). -/
def csrAssigned (n : Nat) : Bool :=
  n ≤ 0x00A || n == 0x010 || n == 0x011 || n == 0x012 || (0x100 ≤ n && n ≤ 0x104) ||
  (0x110 ≤ n && n ≤ 0x115) || (0x120 ≤ n && n ≤ 0x125)

/-! Descriptions shared by several entries. -/

/-- Scalar source and destination registers of R197. -/
def scalarD (f : RF) (sb sc : Role) (ty sat : Bool) : RDesc :=
  { dst := .s, sa := .s, sb := sb, sc := sc, sub := f.sub == 0, ty := ty, sat := sat }

/-- The strand-control forms of R213 and the register transfers of R209. -/
def controlD (f : RF) (dst sa sb sc : Role) (sub : Bool) : RDesc :=
  { dst := dst, sa := sa, sb := sb, sc := sc, sub := sub, ty := f.ty.is0, sat := false }

/-- Lane-wise vector instructions with SUB[4:0] zero (R268, R270). -/
def lanesD (f : RF) (sb sc : Role) (ty sat : Bool) : RDesc :=
  { dst := .v 1, sa := .v 1, sb := sb, sc := sc, sub := f.low == 0, ty := ty, sat := sat }

/-- Register groups of VCVT by the widths of its types (R280). -/
def cvtD (f : RF) : RDesc :=
  match f.src with
  | none => { dst := .v 1, sa := .v 1, sb := .z, sc := .z, sub := false, ty := false, sat := true }
  | some st =>
    let tys := (f.ty.isFI || f.ty.isB8) && (st.isFI || st.isB8) && (st != f.ty)
    { dst := .v (f.ty.lane / st.lane + (if f.ty.lane < st.lane then 1 else 0))
      sa := .v (st.lane / f.ty.lane + (if st.lane < f.ty.lane then 1 else 0))
      sb := .z, sc := .z, sub := f.ty.lane == st.lane || f.msk == 0, ty := tys, sat := true }

/-- The group of registers on the wide side of VQNT and VDQNT (R281, R282). -/
def mxGroup (mx wide : Ty) : Nat :=
  match mx with
  | .mx4 => 256 * wide.lane / 2048
  | _ => 128 * wide.lane / 2048

def Ty.isMx : Ty → Bool
  | .mx4 | .mx8 => true
  | _ => false

def qntD (f : RF) : RDesc :=
  match f.src with
  | none => { dst := .v 1, sa := .v 1, sb := .z, sc := .z, sub := false, ty := false, sat := false }
  | some st => { dst := .v 1, sa := .v (mxGroup f.ty st), sb := .z, sc := .z, sub := f.msk == 0,
                 ty := f.ty.isMx && st.isF, sat := false }

def dqntD (f : RF) : RDesc :=
  match f.src with
  | none => { dst := .v 1, sa := .v 1, sb := .z, sc := .z, sub := false, ty := false, sat := true }
  | some st => { dst := .v (mxGroup st f.ty), sa := .v 1, sb := .z, sc := .z, sub := f.msk == 0,
                 ty := f.ty.isF && st.isMx, sat := true }

/-- PMOV by its operation (R206). -/
def pmovD (f : RF) : RDesc :=
  match f.sub.toNat with
  | 0 => controlD f .s .z .z .z true
  | 1 => controlD f .z .s .z .z true
  | 2 => controlD f .p .s .z .z true
  | 3 => controlD f .s .p .z .z true
  | _ => controlD f .z .z .z .z false

/-- VCMP by its form (R272). -/
def vcmpD (f : RF) : RDesc :=
  let form := f.low / 8
  { dst := if form == 0 then .m else .v 1, sa := .v 1, sb := .v 1, sc := .z,
    sub := form ≤ 1, ty := f.ty.isFI, sat := false }

/-- MMOV by its operation and part (R284). -/
def mmovD (f : RF) : RDesc :=
  let op := f.low % 8
  let q := f.low / 8
  let roles : Role × Role := match op with
    | 0 => (.m, .m) | 1 => (.m, .s) | 2 => (.s, .m) | 3 => (.m, .v 1) | _ => (.v 1, .m)
  { dst := roles.1, sa := roles.2, sb := .z, sc := .z,
    sub := f.msk == 0 && op ≤ 4 && (if op < 3 then q == 0 else q < 32 / f.ty.lane),
    ty := if op < 3 then f.ty.is0 else f.ty.is0 || f.ty.isI, sat := false }

/-- Scalar format M (R239): the memory operand, DST's role and the codes accepted. -/
def memD (f : MF) (load : Bool) (ty : Bool) (scopes : Bool) (ords : List Nat) (caches : Nat) : MDesc :=
  { load := load, dst := .s, base := .s, idx := .s,
    ok := ty && (if scopes then f.scope.toNat ≤ 4 else f.scope == 0) && ords.contains f.ord.toNat
      && f.cache.toNat ≤ caches }

/-- Vector format M (R285). -/
def vmemD (f : MF) (load : Bool) (idx : Role) (ty : Bool) : MDesc :=
  { load := load, dst := .v 1, base := .s, idx := idx, ok := ty && f.ord == 0 && f.cache.toNat ≤ 2 }

/-- Format A (R249). -/
def atomD (f : AF) (sc addr2 : Role) (ty : Bool) : ADesc :=
  { dst := .s, addr := .s, sb := .s, sc := sc, addr2 := addr2, ok := ty && f.scope.toNat ≤ 4 }

/-- Synchronisation in format A (R255, R257, R261). -/
def syncD (f : AF) (sc : Role) (ty : Bool) (ords : List Nat) : ADesc :=
  { dst := .s, addr := .s, sb := .s, sc := sc, addr2 := .z,
    ok := ty && 1 ≤ f.scope.toNat && f.scope.toNat ≤ 4 && ords.contains f.ord.toNat }

/-- Format E with scalar operands only. -/
def engD (f : EF) (sa sb sc sd : Role) (sdOut : Bool) (cmd ty : Bool) : EDesc :=
  { sa := sa, sb := sb, sc := sc, sd := sd, sdOut := sdOut, ok := f.tok != 0 && cmd && ty }

/-- SFEED (R296, R297). -/
def sfeedD (f : EF) : EDesc :=
  let steer := f.bits 10 1 == 1
  let cond := f.bits 0 3
  engD f .s .s .s .s false
    (f.bits 4 2 ≤ 1 && (!steer || (f.bits 6 1 == 0 && f.bits 3 1 == 0 && !(f.ty == .f32 && 6 ≤ cond))))
    (if steer then f.ty.is32 else f.ty.is0)

/-- SDRAIN by DEST (R300). -/
def sdrainD (f : EF) : EDesc :=
  let g := f.bits 6 3
  let cmd := f.bits 9 2 == 0
  match f.bits 0 3 with
  | 0 => engD f .s .s .s .z false (cmd && g == 0) (f.ty == .f32 || f.ty == .i32)
  | 1 => engD f .s .s .s .z false (cmd && g == 0) f.ty.is0
  | 2 => engD f .s .s .s .s false (cmd && g == 0) f.ty.is0
  | 3 => engD f .s .s .s .z false (cmd && g == 0) f.ty.is0
  | 4 => engD f .z .s .z (.v (g + 1)) true cmd (f.ty.is0 || f.ty == .f32 || f.ty == .i32)
  | _ => engD f .z .z .z .z false false false

/-- KVLD by DEST (R305, R308). -/
def kvldD (f : EF) : EDesc :=
  let g := f.bits 2 3
  let tag := f.bits 5 3
  let ty := f.ty == .f32 || f.ty == .bf16 || f.ty == .e4m3
  match f.bits 0 2 with
  | 0 => engD f .s .s .s (.v (g + 1)) true (f.bits 8 3 == 0 && tag == 0) ty
  | 1 => engD f .s .s .s .s false (f.bits 8 3 == 0 && tag == 0 && g == 0) ty
  | 2 => engD f .s .s .s .z false (f.bits 8 3 == 0 && g == 0) ty
  | _ => engD f .z .z .z .z false false false

/-- RETRY, ECANCEL and ESTAT: own form when the target register is named, else the engine form (R309, R310). -/
def targetD (f : EF) (sd : Role) (cmd : Bool) : EDesc :=
  engD f (if f.bits 0 6 == 0 then .s else .z) .z .z sd (sd != .z) cmd f.ty.is0

/-- Tile instructions (R323). -/
def tileD (dst sa sb : Role) (sub ty : Bool) (rnd sat : Bool) : RDesc :=
  { dst := dst, sa := sa, sb := sb, sc := .z, sub := sub, ty := ty, sat := sat, rnd := rnd }

/-- Format S (R224). -/
def sysD (f : SF) (dst sa : Role) (csr sub : Bool) : SDesc :=
  { dst := dst, sa := sa, ok := sub && (csr || f.csr == 0) }

def csrOk (f : SF) : Bool := csrAssigned f.csr.toNat

/-- The opcode map (R108) assigns this opcode. -/
def opcAssigned (o : Nat) : Bool :=
  o ≤ 0x1E || (0x20 ≤ o && o ≤ 0x26) || (0x28 ≤ o && o ≤ 0x37) || (0x40 ≤ o && o ≤ 0x49) ||
  (0x50 ≤ o && o ≤ 0x94) || (0xA0 ≤ o && o ≤ 0xAE) || (0xB0 ≤ o && o ≤ 0xB9) ||
  (0xC0 ≤ o && o ≤ 0xC4) || (0xC8 ≤ o && o ≤ 0xCB) || (0xF0 ≤ o && o ≤ 0xFA)

/-- Every constructor's opcode (R108), format (R109) and entry. -/
def Instr.shape : Instr → Shape
  | .nop g => .nop g
  | .add f => .r 0x01 f (scalarD f .s .z f.ty.isInt true)
  | .sub f => .r 0x02 f (scalarD f .s .z f.ty.isInt true)
  | .mul f => .r 0x03 f (scalarD f .s .z f.ty.isInt true)
  | .mulh f => .r 0x04 f (scalarD f .s .z f.ty.isInt false)
  | .madd f => .r 0x05 f (scalarD f .s .s f.ty.isInt true)
  | .div f => .r 0x06 f (scalarD f .s .z f.ty.isInt true)
  | .rem f => .r 0x07 f (scalarD f .s .z f.ty.isInt false)
  | .absd f => .r 0x08 f (scalarD f .s .z f.ty.isInt false)
  | .min f => .r 0x09 f (scalarD f .s .z f.ty.isInt false)
  | .max f => .r 0x0A f (scalarD f .s .z f.ty.isInt false)
  | .and_ f => .r 0x0B f (scalarD f .s .z f.ty.isInt false)
  | .or_ f => .r 0x0C f (scalarD f .s .z f.ty.isInt false)
  | .xor_ f => .r 0x0D f (scalarD f .s .z f.ty.isInt false)
  | .andn f => .r 0x0E f (scalarD f .s .z f.ty.isInt false)
  | .shl f => .r 0x0F f (scalarD f .s .z f.ty.isInt true)
  | .shr f => .r 0x10 f (scalarD f .s .z f.ty.isInt false)
  | .sar f => .r 0x11 f (scalarD f .s .z f.ty.isInt false)
  | .rol f => .r 0x12 f (scalarD f .s .z f.ty.isInt false)
  | .clz f => .r 0x13 f (scalarD f .z .z f.ty.isInt false)
  | .popc f => .r 0x14 f (scalarD f .z .z f.ty.isInt false)
  | .brev f => .r 0x15 f (scalarD f .z .z f.ty.isInt false)
  | .bfx f => .r 0x16 f (scalarD f .s .z (f.ty.is0 || f.ty == .i64 || f.ty == .n64) false)
  | .bfi f => .r 0x17 f (scalarD f .s .s f.ty.is0 false)
  | .ext f => .r 0x18 f (scalarD f .z .z f.ty.isInt true)
  | .mov f => .r 0x19 f (scalarD f .z .z f.ty.is0 false)
  | .sel f => .r 0x1A f (scalarD f .s .p f.ty.is0 false)
  | .lea f => .r 0x1B f { scalarD f .s .z f.ty.is0 false with sub := f.sub.toNat < 4 }
  | .cmp f => .r 0x1C f { scalarD f .s .z f.ty.isInt false with dst := .p, sub := f.sub.toNat < 8 }
  | .plog f => .r 0x1D f (controlD f .p .p .p .z (f.sub.toNat < 16))
  | .pmov f => .r 0x1E f (pmovD f)
  | .addi f => .i 0x20 f { dst := .s, sa := .s, ok := f.sub == 0 }
  | .muli f => .i 0x21 f { dst := .s, sa := .s, ok := f.sub == 0 }
  | .logi f => .i 0x22 f { dst := .s, sa := .s, ok := f.sub.toNat ≤ 3 }
  | .shi f => .i 0x23 f { dst := .s, sa := .s, ok := f.sub.toNat ≤ 3 && f.imm.toNat < 64 }
  | .cmpi f => .i 0x24 f { dst := .p, sa := .s, ok := f.sub.toNat ≤ 7 || (10 ≤ f.sub.toNat && f.sub.toNat ≤ 13) }
  | .movi f => .i 0x25 f { dst := .s, sa := .z, ok := f.sub == 0 }
  | .movhi f => .i 0x26 f { dst := .s, sa := .s, ok := f.sub == 0 }
  | .br f => .b 0x28 f
  | .brr f => .r 0x29 f (controlD f .z .s .z .z (f.sub == 0))
  | .call f => .b 0x2A f
  | .callr f => .r 0x2B f (controlD f .z .s .z .z (f.sub == 0))
  | .ret f => .r 0x2C f (controlD f .z .z .z .z (f.sub == 0))
  | .loop f => .i 0x2D f { dst := .s, sa := .s, ok := f.sub == 0 }
  | .dbnz f => .i 0x2E f { dst := .s, sa := .z, ok := f.sub == 0 }
  | .exit f => .r 0x2F f (controlD f .z .z .z .z (f.sub == 0))
  | .yield f => .r 0x30 f (controlD f .z .z .z .z (f.sub == 0))
  | .waitt f => .r 0x31 f (controlD f .z .s .z .z (f.sub == 0))
  | .waitq f => .r 0x32 f (controlD f .s .s .s .s (f.sub == 0))
  | .spawn f => .r 0x33 f (controlD f .s .s .s .s (f.sub == 0))
  | .prio f => .i 0x34 f { dst := .z, sa := if f.sub == 1 then .s else .z, ok := (f.sub == 0 && f.imm.toNat < 32) || (f.sub == 1 && f.imm == 0) }
  | .time f => .r 0x35 f (controlD f .s .z .z .z (f.sub == 0))
  | .strid f => .r 0x36 f (controlD f .s .z .z .z (f.sub.toNat ≤ 2))
  | .bkpt f => .i 0x37 f { dst := .z, sa := .z, ok := f.sub == 0 && f.imm.toNat < 65536 }
  | .ld f => .m 0x40 f (memD f true f.ty.isInt true [0, 1] 2)
  | .st f => .m 0x41 f (memD f false f.ty.isInt true [0, 2] 2)
  | .ldl f => .m 0x42 f (memD f true f.ty.isInt false [0] 0)
  | .stl f => .m 0x43 f (memD f false f.ty.isInt false [0] 0)
  | .ldacq f => .m 0x44 f (memD f true f.ty.isInt true [0] 2)
  | .strel f => .m 0x45 f (memD f false f.ty.isInt true [0] 2)
  | .pref f => .m 0x46 f { memD f false (f.ty.is0 && f.dst.toNat ≤ 2) false [0] 1 with dst := .vn }
  | .cline f => .m 0x47 f { memD f false (f.ty.is0 && f.dst.toNat ≤ 3) false [0] 0 with dst := .vn }
  | .fence f => .m 0x48 f { memD f false (f.ty.is0 && f.scl == 0 && f.off == 0) true [1, 2, 3] 0 with dst := .z, base := .z, idx := .z }
  | .spkill f => .m 0x49 f (memD f false f.ty.is0 false [0] 0)
  | .aadd f => .a 0x50 f (atomD f .z .z f.ty.isAtom)
  | .afadd f => .a 0x51 f (atomD f .z .z f.ty.isF)
  | .amin f => .a 0x52 f (atomD f .z .z f.ty.isAtom)
  | .amax f => .a 0x53 f (atomD f .z .z f.ty.isAtom)
  | .aand f => .a 0x54 f (atomD f .z .z f.ty.isAtom)
  | .aor f => .a 0x55 f (atomD f .z .z f.ty.isAtom)
  | .axor f => .a 0x56 f (atomD f .z .z f.ty.isAtom)
  | .axchg f => .a 0x57 f (atomD f .z .z f.ty.isAtom)
  | .acas f => .a 0x58 f (atomD f .s .z f.ty.isAtom)
  | .adcas f => .a 0x59 f (atomD f .s .s (f.ty == .i32 || f.ty == .n32))
  | .amove f => .a 0x5A f (atomD f .z .s f.ty.isAtom)
  | .aadd2 f => .a 0x5B f (atomD f .s .s f.ty.isAtom)
  | .waita f => .a 0x5C f (syncD f .s f.ty.isAtom [0, 1])
  | .bara f => .a 0x5D f (syncD f .z f.ty.is0 [0, 2])
  | .barw f => .a 0x5E f (syncD f .z f.ty.is0 [0, 1])
  | .coll f => .a 0x5F f (syncD f .z (f.ty == .i32 || f.ty == .n32 || f.ty == .i64 || f.ty == .n64 || f.ty == .f32) [0, 1, 2, 3])
  | .vadd f => .r 0x60 f (lanesD f (.v 1) .z f.ty.isFI true)
  | .vsub f => .r 0x61 f (lanesD f (.v 1) .z f.ty.isFI true)
  | .vmul f => .r 0x62 f (lanesD f (.v 1) .z f.ty.isFI true)
  | .vfma f => .r 0x63 f (lanesD f (.v 1) (.v 1) f.ty.isFI true)
  | .vmin f => .r 0x64 f (lanesD f (.v 1) .z f.ty.isFI false)
  | .vmax f => .r 0x65 f (lanesD f (.v 1) .z f.ty.isFI false)
  | .vabs f => .r 0x66 f (lanesD f .z .z (f.ty.isF || f.ty == .i8 || f.ty == .i16 || f.ty == .i32) (!f.ty.isF))
  | .vneg f => .r 0x67 f (lanesD f .z .z (f.ty.isF || f.ty == .i8 || f.ty == .i16 || f.ty == .i32) (!f.ty.isF))
  | .vdiv f => .r 0x68 f (lanesD f (.v 1) .z f.ty.isF true)
  | .vsqrt f => .r 0x69 f (lanesD f .z .z f.ty.isF true)
  | .vrcp f => .r 0x6A f (lanesD f .z .z f.ty.isF false)
  | .vrsq f => .r 0x6B f (lanesD f .z .z f.ty.isF false)
  | .vexp2 f => .r 0x6C f (lanesD f .z .z f.ty.isF false)
  | .vlog2 f => .r 0x6D f (lanesD f .z .z f.ty.isF false)
  | .vround f => .r 0x6E f (lanesD f .z .z f.ty.isF false)
  | .vclamp f => .r 0x6F f (lanesD f (.v 1) (.v 1) f.ty.isFI false)
  | .vand f => .r 0x70 f (lanesD f (.v 1) .z (f.ty.is0 || f.ty.isFI) false)
  | .vor f => .r 0x71 f (lanesD f (.v 1) .z (f.ty.is0 || f.ty.isFI) false)
  | .vxor f => .r 0x72 f (lanesD f (.v 1) .z (f.ty.is0 || f.ty.isFI) false)
  | .vnot f => .r 0x73 f (lanesD f .z .z (f.ty.is0 || f.ty.isFI) false)
  | .vshl f => .r 0x74 f (lanesD f (.v 1) .z (f.ty.is0 || f.ty.isI) true)
  | .vshr f => .r 0x75 f (lanesD f (.v 1) .z (f.ty.is0 || f.ty.isI) false)
  | .vsar f => .r 0x76 f (lanesD f (.v 1) .z (f.ty.is0 || f.ty.isI) false)
  | .vmulh f => .r 0x77 f (lanesD f (.v 1) .z f.ty.isI false)
  | .vclz f => .r 0x78 f (lanesD f .z .z f.ty.isI false)
  | .vpopc f => .r 0x79 f (lanesD f .z .z f.ty.isI false)
  | .vacs f => .r 0x7A f { lanesD f (.v 1) (.v 1) (f.ty == .i16 || f.ty == .n16) true with sub := true }
  | .vcmp f => .r 0x7B f (vcmpD f)
  | .vsel f => .r 0x7C f { lanesD f (.v 1) .z f.ty.isAny false with sub := f.low < 8 }
  | .vmov f => .r 0x7D f (lanesD f .z .z f.ty.isAny false)
  | .vbcast f => .r 0x7E f { lanesD f .z .z f.ty.isAny false with sa := .s }
  | .viota f => .r 0x7F f { lanesD f .s .z (f.ty.is0 || f.ty.isI) false with sa := .s }
  | .vins f => .r 0x80 f { lanesD f .s .z f.ty.isAny false with sa := .s }
  | .vext f => .r 0x81 f { lanesD f .s .z f.ty.isAny false with dst := .s, sub := f.sub == 0 }
  | .vperm f => .r 0x82 f { lanesD f (.v 1) (if f.low == 1 then .v 1 else .z) f.ty.isAny false with sub := f.low == 0 || (f.low == 1 && f.ty.lane != 8) }
  | .vshuf f => .r 0x83 f { lanesD f (if f.low < 4 then .v 1 else .z) .z (f.ty.isAny && (f.low != 5 || f.ty.is32)) false with sub := f.low ≤ 5 }
  | .vred f => .r 0x84 f { lanesD f .z .z (if f.low < 3 then f.ty.isFI else f.ty.isI) (f.low == 0 && f.ty.isI) with dst := .s, sub := f.low ≤ 5 }
  | .vscan f => .r 0x85 f { lanesD f .z .z (f.ty == .f32 || f.ty.isI) (f.low == 0 && f.ty.isI) with sub := f.low ≤ 2 }
  | .vcomp f => .r 0x86 f (lanesD f .z .z f.ty.is32 false)
  | .vexpd f => .r 0x87 f (lanesD f .z .z f.ty.is32 false)
  | .vcvt f => .r 0x88 f (cvtD f)
  | .vqnt f => .r 0x89 f (qntD f)
  | .vdqnt f => .r 0x8A f (dqntD f)
  | .mlog f => .r 0x8B f (controlD f .m .m .m .z (f.sub.toNat < 16))
  | .mpopc f => .r 0x8C f (controlD f .s .m .z .z (f.sub == 0))
  | .mfirst f => .r 0x8D f (controlD f .s .m .z .z (f.sub.toNat ≤ 1))
  | .mmov f => .r 0x8E f (mmovD f)
  | .vld f => .m 0x8F f (vmemD f true .s f.ty.isAny)
  | .vst f => .m 0x90 f (vmemD f false .s f.ty.isAny)
  | .vlds f => .m 0x91 f (vmemD f true .s f.ty.isAny)
  | .vsts f => .m 0x92 f (vmemD f false .s f.ty.isAny)
  | .vgath f => .m 0x93 f (vmemD f true (.v 1) f.ty.is32)
  | .vscat f => .m 0x94 f (vmemD f false (.v 1) f.ty.is32)
  | .sfeed f => .e 0xA0 f (sfeedD f)
  | .sdrain f => .e 0xA1 f (sdrainD f)
  | .sbnd f => .e 0xA2 f (engD f .s .z .z .z false (f.cmd == 0) f.ty.is0)
  | .pmark f => .e 0xA3 f (engD f .z .z .z .z false (f.cmd.toNat ≤ 3) f.ty.is0)
  | .copy f => .e 0xA4 f (engD f .s .s .s .z false (f.bits 6 5 == 0 && f.bits 0 2 ≤ 2 && f.bits 2 2 ≤ 1 && (f.bits 4 2 == 0 || f.bits 0 2 == 2)) f.ty.is0)
  | .copy2d f => .e 0xA5 f (engD f .s .s .s .s false (f.bits 4 7 == 0 && f.bits 0 2 ≤ 2 && f.bits 2 2 ≤ 1) f.ty.is0)
  | .fill f => .e 0xA6 f (engD f .s .s .s .z false (f.bits 2 9 == 0 && f.bits 0 2 ≤ 2) f.ty.is0)
  | .gathr f => .e 0xA7 f (engD f .s .s .s .s false (f.bits 0 4 ≤ 8 && f.bits 4 2 ≤ 2 && f.bits 6 5 == 0) (f.ty == .i32 || f.ty == .n32 || f.ty == .i64 || f.ty == .n64))
  | .scatr f => .e 0xA8 f (engD f .s .s .s .s false (f.bits 0 4 ≤ 8 && f.bits 4 2 ≤ 1 && f.bits 6 5 == 0) (f.ty == .i32 || f.ty == .n32 || f.ty == .i64 || f.ty == .n64))
  | .kvld f => .e 0xA9 f (kvldD f)
  | .kvappRows f => .e 0xAA f (engD f .s .s .s .s true (f.cmd == 0) (f.ty == .e4m3 || f.ty == .bf16 || f.ty == .f32))
  | .kvappInit f => .e 0xAA f (engD f .s .s .s .z false (f.cmd == 1) f.ty.is0)
  | .kvseal f => .e 0xAB f (engD f .s .z .z .z false (f.cmd.toNat ≤ 1) f.ty.is0)
  | .retry f => .e 0xAC f (targetD f .z (f.bits 6 5 == 0))
  | .ecancel f => .e 0xAD f (targetD f .z (f.bits 6 5 == 0))
  | .estat f => .e 0xAE f (targetD f .s (f.bits 6 3 ≤ 4 && f.bits 9 2 == 0))
  | .kfuse f => .e 0xB0 f (engD f .s .s .z .s true (f.cmd.toNat ≤ 2) (f.ty == .e4m3 || f.ty == .e5m2 || f.ty == .bf16 || f.ty == .mx4 || f.ty == .i8))
  | .kfree f => .e 0xB1 f (engD f .s .z .z .z false (f.cmd == 0) f.ty.is0)
  | .kctx f => .e 0xB2 f (engD f .s .s .s .s false (f.cmd == 0) f.ty.is0)
  | .kldw f => .e 0xB3 f (engD f .s .s .s .z false (f.cmd.toNat ≤ 3) f.ty.is0)
  | .kswap f => .e 0xB4 f (engD f .s .z .z .z false (f.cmd == 0) f.ty.is0)
  | .kmma f => .e 0xB5 f (engD f .s .s .z .z false (f.cmd.toNat ≤ 1) f.ty.is0)
  | .kroute f => .e 0xB6 f (engD f .s .s .s .s false (f.cmd == 0) f.ty.is0)
  | .kunroute f => .e 0xB7 f (engD f .s .z .z .z false (f.cmd == 0) f.ty.is0)
  | .kqry f => .e 0xB8 f (engD f .s (if f.cmd == 2 || f.cmd == 3 then .s else .z) .z .s true (f.cmd.toNat ≤ 5) f.ty.is0)
  | .kclk f => .e 0xB9 f (engD f .s .s .z .z false (f.cmd == 0) f.ty.is0)
  | .atld f => .r 0xC0 f (tileD (.v 1) .s .z (f.low == 0) (f.ty.is0 || f.ty == .f32 || f.ty == .i32) (f.rnd == .rne) false)
  | .atst f => .r 0xC1 f (tileD .z .s (.v 1) (f.low == 0) (f.ty.is0 || f.ty == .f32 || f.ty == .i32) (f.rnd == .rne) false)
  | .atadd f => .r 0xC2 f (tileD .z (if f.low == 1 then .v 1 else .s) (.v 1) (f.low ≤ 1) (f.ty == .f32 || f.ty == .i32) (if f.ty == .f32 then f.rnd != .rs else f.rnd == .rne) true)
  | .atmax f => .r 0xC3 f (tileD .z (if f.low == 1 then .v 1 else .s) (.v 1) (f.low ≤ 1) (f.ty == .f32 || f.ty == .i32) (f.rnd == .rne) false)
  | .atclr f => .r 0xC4 f (tileD .z .s .s (f.sub == 0) f.ty.is0 (f.rnd == .rne) false)
  | .vdrop f => .r 0xC8 f { tileD .z .vn .vn (f.sub == 0 && f.sa ≤ f.sb) f.ty.is0 (f.rnd == .rne) false with ru := false }
  | .bkq f => .r 0xC9 f (tileD .s (if f.sub == 1 then .s else .z) .z (f.sub.toNat ≤ 2) f.ty.is0 true false)
  | .boostReq f => .i 0xCA f { dst := .s, sa := .s, ok := f.sub == 0 && 1525 ≤ f.imm.toNat && f.imm.toNat ≤ 1750 && f.imm.toNat % 25 == 0 }
  | .boostRel f => .i 0xCA f { dst := .s, sa := .z, ok := f.sub == 1 && f.imm == 0 }
  | .boostQry f => .i 0xCA f { dst := .s, sa := .z, ok := f.sub == 2 && f.imm == 0 }
  | .pwrhintIdle f => .i 0xCB f { dst := .z, sa := .z, ok := f.sub == 0 }
  | .pwrhintRamp f => .i 0xCB f { dst := .z, sa := .z, ok := f.sub == 1 }
  | .trap f => .s 0xF0 f (sysD f .z .s false true)
  | .eret f => .s 0xF1 f (sysD f .s .s false (f.sub.toNat ≤ 1))
  | .csrr f => .s 0xF2 f (sysD f .s .z true (f.sub == 0 && csrOk f))
  | .csrw f => .s 0xF3 f (sysD f .z .s true (f.sub == 0 && csrOk f))
  | .csrx f => .s 0xF4 f (sysD f .s .s true (f.sub.toNat ≤ 2 && csrOk f))
  | .tlbinv f => .s 0xF5 f (sysD f .s .s false (f.sub.toNat ≤ 2 && f.dst != 0))
  | .ctxsv f => .s 0xF6 f (sysD f .s .s false (f.sub.toNat ≤ 1))
  | .ctxld f => .s 0xF7 f (sysD f .s .s false (f.sub.toNat ≤ 1))
  | .idle f => .s 0xF8 f (sysD f .s .s false (f.sub == 0))
  | .evpost f => .s 0xF9 f (sysD f .s .s false (f.sub.toNat ≤ 1))
  | .allocqGrant f => .s 0xFA f (sysD f .s .s false (f.sub == 0))
  | .allocqFree f => .s 0xFA f (sysD f .s .s false (f.sub == 1))
  | .spawnAnswer _ => .event
  | .loadDataArrival _ => .event
  | .bankWakeDone _ => .event
  | .bankRetain _ => .event
  | .bankOff _ => .event
  | .waitaWake _ => .event
  | .watchReread _ => .event
  | .waitqWake _ => .event
  | .waitDeadline _ => .event
  | .barrierRelease _ _ => .event
  | .collResult _ _ => .event
  | .watchdog _ => .event
  | .engineCommandStart _ _ => .event
  | .engineUnitDone _ _ => .event
  | .configUnitPerform _ => .event
  | .lineFlitDelivery _ => .event
  | .kiteTokenPass _ => .event
  | .homeRequest _ => .event
  | .l1Writeback _ _ => .event
  | .farCacheDrop _ _ => .event
  | .invalidationAck _ _ => .event
  | .directoryEvict _ => .event
  | .pageWalk _ => .event
  | .tlbinvAck _ _ => .event
  | .requestResend _ => .event
  | .replyAck _ => .event
  | .kvConversionStart _ _ => .event
  | .kvClosing _ => .event
  | .kvConverting _ => .event
  | .kvFlip _ => .event
  | .packetFetch _ => .event
  | .seqRecheck _ => .event
  | .launchPacket _ => .event
  | .barrierAndPacket _ => .event
  | .signalPacket _ => .event
  | .nopPacket _ => .event
  | .depWatchWake _ _ => .event
  | .taskComplete _ => .event
  | .faultRecordAppend _ => .event
  | .scanOutDone _ => .event
  | .pmtCommandDone => .event
  | .hostSnoopResponse _ => .event
  | .unassignedOpcode w => .word w
  | .fetchFault _ => .event
  | .linkReplay _ => .event
  | .linkDown _ => .event
  | .linkRetrained _ => .event
  | .doorbell _ _ => .event
  | .contextCreate _ _ => .event
  | .contextDestroy _ _ => .event
  | .grantPartition _ _ => .event
  | .freePartition _ => .event
  | .queueCreate _ _ => .event
  | .queueDestroy _ _ => .event
  | .destroyWithKill _ _ => .event
  | .pauseQueue _ _ => .event
  | .resumeQueue _ _ => .event
  | .suspendCtx => .event
  | .evictCtx => .event
  | .restoreCtx => .event
  | .withholdSuspect => .event
  | .offerSuspect => .event
  | .resetStrand _ => .event
  | .resetEngine _ => .event
  | .resetReel _ => .event
  | .resetKiteRelease _ => .event
  | .resetField _ => .event
  | .resetPartition _ => .event
  | .pcieFunctionReset _ => .event
  | .warmDeviceReset _ => .event
  | .coldDeviceReset _ => .event
  | .managementReset => .event
  | .fieldSelfTestDone _ _ => .event
  | .errorDetection _ => .event
  | .hardFault _ => .event
  | .hostMemWrite _ _ _ _ => .event
  | .hostMemRead _ _ _ => .event
  | .hostSnoop _ _ => .event
  | .peerTransferArrival _ => .event
  | .peerAcknowledge _ _ _ => .event
  | .reductionAnswer _ _ => .event
  | .peerTimeout _ => .event
  | .currentFloor _ _ => .event
  | .controlInterval _ => .event
  | .energyWindow _ => .event
  | .hotClear _ => .event
  | .stretchWarning _ => .event
  | .stretchRelax _ => .event
  | .dividerHoldEnd _ => .event
  | .fieldGate _ => .event
  | .fieldUngate _ => .event
  | .leaseExpiry _ => .event
  | .telemetrySnapshot => .event
  | .getRecord _ _ _ => .event
  | .readReg _ _ => .event
  | .writeReg _ _ _ => .event
  | .rasRead _ _ => .event
  | .requestUpdate _ => .event
  | .firmwareTransfer _ _ => .event
  | .verifyComplete _ => .event
  | .activateFirmware _ => .event
  | .quiescentPoint => .event
  | .healthCheckPass => .event
  | .healthCheckFail => .event
  | .svnRaise _ => .event
  | .mapProvision _ _ => .event
  | .registerWrite _ _ _ => .event
  | .fieldSelfTestStart _ => .event
  | .spdmSession _ => .event
  | .pcieConfigWrite _ _ => .event
  | .unassignedCommand _ _ => .event

/-- A register field holds a number its role allows (R97). -/
def Role.ok (r : Role) (x : BitVec 6) : Bool :=
  match r with
  | .z => x == 0
  | .s => true
  | .vn => true
  | .p => x.toNat < 8
  | .m => x.toNat < 8
  | .v n => 1 ≤ n && x.toNat + n ≤ 64

def Role.isV : Role → Bool
  | .v _ => true
  | _ => false

/-- GRD = 0b1000 raises ILLEGAL (R88). -/
def Guard.ok (g : Guard) : Bool := !(g.inv && g.p == 0)

/-- The word of this shape is an instruction (R111). -/
def Shape.wf : Shape → Bool
  | .nop g => g.ok
  | .r _ f d => f.grd.ok && d.dst.ok f.dst && d.sa.ok f.sa && d.sb.ok f.sb && d.sc.ok f.sc &&
      (!f.luA || d.sa.isV) && (!f.luB || d.sb.isV) && (!f.luC || d.sc.isV) &&
      d.sub && d.ty && (d.sat || !f.sat) && d.rnd && (d.ru || !f.ru)
  | .i _ f d => f.grd.ok && d.dst.ok f.dst && d.sa.ok f.sa && d.ok
  | .m _ f d => f.grd.ok && d.dst.ok f.dst && d.base.ok f.base && d.idx.ok f.idx &&
      (!f.luA || (!d.load && d.dst.isV)) && (!f.luB || d.idx.isV) && d.ok
  | .a _ f d => f.grd.ok && d.dst.ok f.dst && d.addr.ok f.addr && d.sb.ok f.sb && d.sc.ok f.sc &&
      d.addr2.ok f.addr2 && d.ok
  | .b _ f => f.grd.ok && f.sub == 0
  | .e _ f d => f.grd.ok && d.sa.ok f.sa && d.sb.ok f.sb && d.sc.ok f.sc && d.sd.ok f.sd && d.ok
  | .s _ f d => f.grd.ok && d.dst.ok f.dst && d.sa.ok f.sa && d.ok
  | .word w => !opcAssigned (w.extractLsb' 56 8).toNat
  | .event => true

/-- A well-formed instruction. -/
def Instr.wf (i : Instr) : Bool := i.shape.wf

end Sys2Proof
end

