-- ==== Sys2Proof/Decode.lean ====
section
/-! DEFINITION. The decoder, total on any word and rejecting by name (R86 to R111), and after it the encoder, both
written from the format tables. -/

namespace Sys2Proof

/-- Why a word is no instruction (R111). Each raises ILLEGAL. -/
inductive DecodeError where
  /-- A reserved field or bit of the format is not zero, or LU is set in a format without it (R89, R98). -/
  | reserved
  /-- TY 0x10 to 0x1F (R99). -/
  | badType
  /-- RND 6 or 7 (R74). -/
  | badRounding
  /-- The entry does not accept the fields (R88, R89, R97, R98, R100 to R103). -/
  | badEntry
  deriving DecidableEq, Repr

def Rnd.code : Rnd → BitVec 3
  | .rne => 0 | .rz => 1 | .rp => 2 | .rm => 3 | .rna => 4 | .rs => 5

def Rnd.ofCode (c : BitVec 3) : Option Rnd :=
  match c.toNat with
  | 0 => some .rne | 1 => some .rz | 2 => some .rp | 3 => some .rm | 4 => some .rna | 5 => some .rs
  | _ => none

/-! The fields every format begins with (R87). -/

def wordOpc (w : Word) : BitVec 8 := w.extractLsb' 56 8
def wordGrd (w : Word) : Guard := { inv := w.getLsbD 55, p := w.extractLsb' 52 3 }
def wordLu (w : Word) : BitVec 3 := w.extractLsb' 49 3

/-- Format R (R90). -/
def unpackR (w : Word) : Except DecodeError RF :=
  match Ty.ofCode (w.extractLsb' 12 5), Rnd.ofCode (w.extractLsb' 9 3) with
  | none, _ => .error .badType
  | _, none => .error .badRounding
  | some ty, some rnd =>
    if w.extractLsb' 0 7 == 0 then
      .ok { grd := wordGrd w, luA := w.getLsbD 51, luB := w.getLsbD 50, luC := w.getLsbD 49,
            dst := w.extractLsb' 43 6, sa := w.extractLsb' 37 6, sb := w.extractLsb' 31 6,
            sc := w.extractLsb' 25 6, sub := w.extractLsb' 17 8, ty := ty, rnd := rnd,
            sat := w.getLsbD 8, ru := w.getLsbD 7 }
    else .error .reserved

/-- Format I (R91). -/
def unpackI (w : Word) : Except DecodeError IF :=
  if wordLu w == 0 then
    .ok { grd := wordGrd w, dst := w.extractLsb' 43 6, sa := w.extractLsb' 37 6,
          sub := w.extractLsb' 32 5, imm := w.extractLsb' 0 32 }
  else .error .reserved

/-- Format M (R92). -/
def unpackM (w : Word) : Except DecodeError MF :=
  match Ty.ofCode (w.extractLsb' 8 5) with
  | none => .error .badType
  | some ty =>
    if w.extractLsb' 0 1 == 0 && !w.getLsbD 49 then
      .ok { grd := wordGrd w, luA := w.getLsbD 51, luB := w.getLsbD 50, dst := w.extractLsb' 43 6,
            base := w.extractLsb' 37 6, idx := w.extractLsb' 31 6, scl := w.extractLsb' 29 2,
            off := w.extractLsb' 13 16, ty := ty, scope := w.extractLsb' 5 3, ord := w.extractLsb' 3 2,
            cache := w.extractLsb' 1 2 }
    else .error .reserved

/-- Format A (R93). -/
def unpackA (w : Word) : Except DecodeError AF :=
  match Ty.ofCode (w.extractLsb' 14 5) with
  | none => .error .badType
  | some ty =>
    if w.extractLsb' 0 9 == 0 && wordLu w == 0 then
      .ok { grd := wordGrd w, dst := w.extractLsb' 43 6, addr := w.extractLsb' 37 6,
            sb := w.extractLsb' 31 6, sc := w.extractLsb' 25 6, addr2 := w.extractLsb' 19 6, ty := ty,
            scope := w.extractLsb' 11 3, ord := w.extractLsb' 9 2 }
    else .error .reserved

/-- Format B (R94). -/
def unpackB (w : Word) : Except DecodeError BF :=
  if w.extractLsb' 0 12 == 0 && wordLu w == 0 then
    .ok { grd := wordGrd w, off := w.extractLsb' 17 32, sub := w.extractLsb' 12 5 }
  else .error .reserved

/-- Format E (R95). -/
def unpackE (w : Word) : Except DecodeError EF :=
  match Ty.ofCode (w.extractLsb' 3 5) with
  | none => .error .badType
  | some ty =>
    if w.extractLsb' 0 3 == 0 && wordLu w == 0 then
      .ok { grd := wordGrd w, tok := w.extractLsb' 43 6, sa := w.extractLsb' 37 6,
            sb := w.extractLsb' 31 6, sc := w.extractLsb' 25 6, sd := w.extractLsb' 19 6,
            cmd := w.extractLsb' 8 11, ty := ty }
    else .error .reserved

/-- Format S (R96). -/
def unpackS (w : Word) : Except DecodeError SF :=
  if w.extractLsb' 0 20 == 0 && wordLu w == 0 then
    .ok { grd := wordGrd w, dst := w.extractLsb' 43 6, sa := w.extractLsb' 37 6,
          csr := w.extractLsb' 25 12, sub := w.extractLsb' 20 5 }
  else .error .reserved

/-- NOP has no field but its guard (R110). -/
def unpackNop (w : Word) : Except DecodeError Guard :=
  if wordLu w == 0 && w.extractLsb' 0 49 == 0 then .ok (wordGrd w) else .error .reserved

/-- The opcode map (R108), with the format of R109. Rows that share an opcode are told apart by SUB or CMD. -/
def unpack (w : Word) : Except DecodeError Instr :=
  match (wordOpc w).toNat with
  | 0x00 => (unpackNop w).map .nop
  | 0x01 => (unpackR w).map .add
  | 0x02 => (unpackR w).map .sub
  | 0x03 => (unpackR w).map .mul
  | 0x04 => (unpackR w).map .mulh
  | 0x05 => (unpackR w).map .madd
  | 0x06 => (unpackR w).map .div
  | 0x07 => (unpackR w).map .rem
  | 0x08 => (unpackR w).map .absd
  | 0x09 => (unpackR w).map .min
  | 0x0A => (unpackR w).map .max
  | 0x0B => (unpackR w).map .and_
  | 0x0C => (unpackR w).map .or_
  | 0x0D => (unpackR w).map .xor_
  | 0x0E => (unpackR w).map .andn
  | 0x0F => (unpackR w).map .shl
  | 0x10 => (unpackR w).map .shr
  | 0x11 => (unpackR w).map .sar
  | 0x12 => (unpackR w).map .rol
  | 0x13 => (unpackR w).map .clz
  | 0x14 => (unpackR w).map .popc
  | 0x15 => (unpackR w).map .brev
  | 0x16 => (unpackR w).map .bfx
  | 0x17 => (unpackR w).map .bfi
  | 0x18 => (unpackR w).map .ext
  | 0x19 => (unpackR w).map .mov
  | 0x1A => (unpackR w).map .sel
  | 0x1B => (unpackR w).map .lea
  | 0x1C => (unpackR w).map .cmp
  | 0x1D => (unpackR w).map .plog
  | 0x1E => (unpackR w).map .pmov
  | 0x20 => (unpackI w).map .addi
  | 0x21 => (unpackI w).map .muli
  | 0x22 => (unpackI w).map .logi
  | 0x23 => (unpackI w).map .shi
  | 0x24 => (unpackI w).map .cmpi
  | 0x25 => (unpackI w).map .movi
  | 0x26 => (unpackI w).map .movhi
  | 0x28 => (unpackB w).map .br
  | 0x29 => (unpackR w).map .brr
  | 0x2A => (unpackB w).map .call
  | 0x2B => (unpackR w).map .callr
  | 0x2C => (unpackR w).map .ret
  | 0x2D => (unpackI w).map .loop
  | 0x2E => (unpackI w).map .dbnz
  | 0x2F => (unpackR w).map .exit
  | 0x30 => (unpackR w).map .yield
  | 0x31 => (unpackR w).map .waitt
  | 0x32 => (unpackR w).map .waitq
  | 0x33 => (unpackR w).map .spawn
  | 0x34 => (unpackI w).map .prio
  | 0x35 => (unpackR w).map .time
  | 0x36 => (unpackR w).map .strid
  | 0x37 => (unpackI w).map .bkpt
  | 0x40 => (unpackM w).map .ld
  | 0x41 => (unpackM w).map .st
  | 0x42 => (unpackM w).map .ldl
  | 0x43 => (unpackM w).map .stl
  | 0x44 => (unpackM w).map .ldacq
  | 0x45 => (unpackM w).map .strel
  | 0x46 => (unpackM w).map .pref
  | 0x47 => (unpackM w).map .cline
  | 0x48 => (unpackM w).map .fence
  | 0x49 => (unpackM w).map .spkill
  | 0x50 => (unpackA w).map .aadd
  | 0x51 => (unpackA w).map .afadd
  | 0x52 => (unpackA w).map .amin
  | 0x53 => (unpackA w).map .amax
  | 0x54 => (unpackA w).map .aand
  | 0x55 => (unpackA w).map .aor
  | 0x56 => (unpackA w).map .axor
  | 0x57 => (unpackA w).map .axchg
  | 0x58 => (unpackA w).map .acas
  | 0x59 => (unpackA w).map .adcas
  | 0x5A => (unpackA w).map .amove
  | 0x5B => (unpackA w).map .aadd2
  | 0x5C => (unpackA w).map .waita
  | 0x5D => (unpackA w).map .bara
  | 0x5E => (unpackA w).map .barw
  | 0x5F => (unpackA w).map .coll
  | 0x60 => (unpackR w).map .vadd
  | 0x61 => (unpackR w).map .vsub
  | 0x62 => (unpackR w).map .vmul
  | 0x63 => (unpackR w).map .vfma
  | 0x64 => (unpackR w).map .vmin
  | 0x65 => (unpackR w).map .vmax
  | 0x66 => (unpackR w).map .vabs
  | 0x67 => (unpackR w).map .vneg
  | 0x68 => (unpackR w).map .vdiv
  | 0x69 => (unpackR w).map .vsqrt
  | 0x6A => (unpackR w).map .vrcp
  | 0x6B => (unpackR w).map .vrsq
  | 0x6C => (unpackR w).map .vexp2
  | 0x6D => (unpackR w).map .vlog2
  | 0x6E => (unpackR w).map .vround
  | 0x6F => (unpackR w).map .vclamp
  | 0x70 => (unpackR w).map .vand
  | 0x71 => (unpackR w).map .vor
  | 0x72 => (unpackR w).map .vxor
  | 0x73 => (unpackR w).map .vnot
  | 0x74 => (unpackR w).map .vshl
  | 0x75 => (unpackR w).map .vshr
  | 0x76 => (unpackR w).map .vsar
  | 0x77 => (unpackR w).map .vmulh
  | 0x78 => (unpackR w).map .vclz
  | 0x79 => (unpackR w).map .vpopc
  | 0x7A => (unpackR w).map .vacs
  | 0x7B => (unpackR w).map .vcmp
  | 0x7C => (unpackR w).map .vsel
  | 0x7D => (unpackR w).map .vmov
  | 0x7E => (unpackR w).map .vbcast
  | 0x7F => (unpackR w).map .viota
  | 0x80 => (unpackR w).map .vins
  | 0x81 => (unpackR w).map .vext
  | 0x82 => (unpackR w).map .vperm
  | 0x83 => (unpackR w).map .vshuf
  | 0x84 => (unpackR w).map .vred
  | 0x85 => (unpackR w).map .vscan
  | 0x86 => (unpackR w).map .vcomp
  | 0x87 => (unpackR w).map .vexpd
  | 0x88 => (unpackR w).map .vcvt
  | 0x89 => (unpackR w).map .vqnt
  | 0x8A => (unpackR w).map .vdqnt
  | 0x8B => (unpackR w).map .mlog
  | 0x8C => (unpackR w).map .mpopc
  | 0x8D => (unpackR w).map .mfirst
  | 0x8E => (unpackR w).map .mmov
  | 0x8F => (unpackM w).map .vld
  | 0x90 => (unpackM w).map .vst
  | 0x91 => (unpackM w).map .vlds
  | 0x92 => (unpackM w).map .vsts
  | 0x93 => (unpackM w).map .vgath
  | 0x94 => (unpackM w).map .vscat
  | 0xA0 => (unpackE w).map .sfeed
  | 0xA1 => (unpackE w).map .sdrain
  | 0xA2 => (unpackE w).map .sbnd
  | 0xA3 => (unpackE w).map .pmark
  | 0xA4 => (unpackE w).map .copy
  | 0xA5 => (unpackE w).map .copy2d
  | 0xA6 => (unpackE w).map .fill
  | 0xA7 => (unpackE w).map .gathr
  | 0xA8 => (unpackE w).map .scatr
  | 0xA9 => (unpackE w).map .kvld
  | 0xAA => (unpackE w).map fun f => if f.cmd == 0 then .kvappRows f else .kvappInit f
  | 0xAB => (unpackE w).map .kvseal
  | 0xAC => (unpackE w).map .retry
  | 0xAD => (unpackE w).map .ecancel
  | 0xAE => (unpackE w).map .estat
  | 0xB0 => (unpackE w).map .kfuse
  | 0xB1 => (unpackE w).map .kfree
  | 0xB2 => (unpackE w).map .kctx
  | 0xB3 => (unpackE w).map .kldw
  | 0xB4 => (unpackE w).map .kswap
  | 0xB5 => (unpackE w).map .kmma
  | 0xB6 => (unpackE w).map .kroute
  | 0xB7 => (unpackE w).map .kunroute
  | 0xB8 => (unpackE w).map .kqry
  | 0xB9 => (unpackE w).map .kclk
  | 0xC0 => (unpackR w).map .atld
  | 0xC1 => (unpackR w).map .atst
  | 0xC2 => (unpackR w).map .atadd
  | 0xC3 => (unpackR w).map .atmax
  | 0xC4 => (unpackR w).map .atclr
  | 0xC8 => (unpackR w).map .vdrop
  | 0xC9 => (unpackR w).map .bkq
  | 0xCA => (unpackI w).map fun f => if f.sub == 0 then .boostReq f else if f.sub == 1 then .boostRel f else .boostQry f
  | 0xCB => (unpackI w).map fun f => if f.sub == 0 then .pwrhintIdle f else .pwrhintRamp f
  | 0xF0 => (unpackS w).map .trap
  | 0xF1 => (unpackS w).map .eret
  | 0xF2 => (unpackS w).map .csrr
  | 0xF3 => (unpackS w).map .csrw
  | 0xF4 => (unpackS w).map .csrx
  | 0xF5 => (unpackS w).map .tlbinv
  | 0xF6 => (unpackS w).map .ctxsv
  | 0xF7 => (unpackS w).map .ctxld
  | 0xF8 => (unpackS w).map .idle
  | 0xF9 => (unpackS w).map .evpost
  | 0xFA => (unpackS w).map fun f => if f.sub == 0 then .allocqGrant f else .allocqFree f
  | _ => .ok (.unassignedOpcode w)

/-- The decoder: the instruction a word stands for, or the reason it raises ILLEGAL (R111). -/
def decode (w : Word) : Except DecodeError Instr :=
  match unpack w with
  | .error e => .error e
  | .ok i => if i.wf then .ok i else .error .badEntry

/-! The encoder. -/

def packGrd (g : Guard) : BitVec 4 := BitVec.ofBool g.inv ++ g.p

def packR (opc : BitVec 8) (f : RF) : Word :=
  opc ++ packGrd f.grd ++ BitVec.ofBool f.luA ++ BitVec.ofBool f.luB ++ BitVec.ofBool f.luC ++ f.dst ++ f.sa ++
    f.sb ++ f.sc ++ f.sub ++ f.ty.code ++ f.rnd.code ++ BitVec.ofBool f.sat ++ BitVec.ofBool f.ru ++ 0#7

def packI (opc : BitVec 8) (f : IF) : Word :=
  opc ++ packGrd f.grd ++ 0#3 ++ f.dst ++ f.sa ++ f.sub ++ f.imm

def packM (opc : BitVec 8) (f : MF) : Word :=
  opc ++ packGrd f.grd ++ BitVec.ofBool f.luA ++ BitVec.ofBool f.luB ++ 0#1 ++ f.dst ++ f.base ++ f.idx ++ f.scl ++
    f.off ++ f.ty.code ++ f.scope ++ f.ord ++ f.cache ++ 0#1

def packA (opc : BitVec 8) (f : AF) : Word :=
  opc ++ packGrd f.grd ++ 0#3 ++ f.dst ++ f.addr ++ f.sb ++ f.sc ++ f.addr2 ++ f.ty.code ++ f.scope ++ f.ord ++ 0#9

def packB (opc : BitVec 8) (f : BF) : Word :=
  opc ++ packGrd f.grd ++ 0#3 ++ f.off ++ f.sub ++ 0#12

def packE (opc : BitVec 8) (f : EF) : Word :=
  opc ++ packGrd f.grd ++ 0#3 ++ f.tok ++ f.sa ++ f.sb ++ f.sc ++ f.sd ++ f.cmd ++ f.ty.code ++ 0#3

def packS (opc : BitVec 8) (f : SF) : Word :=
  opc ++ packGrd f.grd ++ 0#3 ++ f.dst ++ f.sa ++ f.csr ++ f.sub ++ 0#20

/-- The word of an instruction; a step of another agent has none. -/
def encode (i : Instr) : Option Word :=
  match i.shape with
  | .nop g => some (0#8 ++ packGrd g ++ 0#52)
  | .r opc f _ => some (packR opc f)
  | .i opc f _ => some (packI opc f)
  | .m opc f _ => some (packM opc f)
  | .a opc f _ => some (packA opc f)
  | .b opc f => some (packB opc f)
  | .e opc f _ => some (packE opc f)
  | .s opc f _ => some (packS opc f)
  | .word w => some w
  | .event => none

/-- The instruction the decoder reads from the 64 bits of a word, numbered as the opcode table numbers them. -/
def decodeTableWord (_nbits w : Nat) : Option Instr :=
  match decode (BitVec.ofNat 64 w) with
  | .ok i => some i
  | .error _ => none

end Sys2Proof
end

