-- ==== Sys2Proof/Machine/State.lean ====
section
/-! DEFINITION. The state of the device: every piece of state the manual names, as plain data, and the state
after reset. Sparse tables list only what differs from the default of their reader. -/

namespace Sys2Proof.Machine

/-- Reasons a step stops with a fault. -/
inductive Fault where
  /-- Raised by no meaning: every fault the manual describes is taken by a strand, an engine or a queue, as a next
  state (safe: no run ends here). -/
  | none
  deriving DecidableEq, Repr

/-- Reasons a step is refused. -/
inductive Refusal where
  /-- Raised by an arm of `exec` whose instruction has no meaning yet (safe: the run ends there). -/
  | notModelled (mnemonic : String)
  deriving DecidableEq, Repr

/-! ## Registers and strands -/

/-- A scalar or mask register: its bits, and whether it is poisoned and so holds an origin code (R395). -/
structure SReg where
  val : Word
  psn : Bool
  deriving DecidableEq, Repr

/-- A predicate; a poisoned one holds an origin code (R395). -/
structure PReg where
  val : Bool
  code : Option Code
  deriving DecidableEq, Repr

/-- A vector register or tile row: 2,048 bits and one poison bit for each 4-byte granule (R266, R327). -/
structure VReg where
  val : VWord
  psn : BitVec 64
  deriving DecidableEq, Repr

inductive Mode where
  | user | supervisor | device
  deriving DecidableEq, Repr

/-- Slot states (R25); READY and WAIT are one phase here, told apart by what holds the strand (R26). -/
inductive Phase where
  | free | live | suspended | faulted | draining
  deriving DecidableEq, Repr

/-- A register of a strand, as the scoreboard names it (R46). -/
inductive Reg where
  | s (n : Nat) | p (n : Nat) | m (n : Nat) | v (n : Nat)
  deriving DecidableEq, Repr

/-- Supply states of a bank (R53). -/
inductive Supply where
  | off | retain | full
  deriving DecidableEq, Repr

/-- Bank delays in force in the present cycle (R54, R63). A write of BKDLY or LSDLY applies from the next cycle, and banks
that are already past the new delays move at the end of that cycle (R229): `wrote` in the cycle of the write, `new` in
the next. -/
structure Delays where
  off : BitVec 16
  ret : BitVec 16
  wrote : Bool
  new : Bool
  deriving DecidableEq, Repr

/-- Whose access a wake serves: the instruction of a slot at a pc, or an engine command (R55). -/
inductive Waker where
  | strand (slot : Nat) (pc : Word)
  | cmd (id : Nat)
  deriving DecidableEq, Repr

/-- A bank: supply, cycle of the last touch, cycle in which its last live content died (`none` while it holds a live one,
and where none has died yet), the cycle from which a wake in progress makes it FULL, and the instruction or command whose
access started that wake (R54, R55). -/
structure Bank where
  supply : Supply
  touch : Nat
  dead : Option Nat
  wake : Option Nat
  by_ : Option Waker := none
  deriving DecidableEq, Repr

/-- A WAITA (R255): virtual and physical address, width, the value seen, deadline, a single read only, scope, acquire, type,
destination, the page's KV and far-cache marks, and the requests that its reads follow (R140, R142). -/
structure WaitWord where
  va : Nat
  pa : Nat
  w : Nat
  seen : Word
  deadline : Option Nat
  once : Bool
  scope : Nat
  acq : Bool
  ty : Ty
  dst : Nat
  kv : Bool
  fc : Bool
  after : List Nat
  /-- Its translation has been removed: the address is translated again before the next read (R230). -/
  stale : Bool := false
  deriving DecidableEq, Repr

/-- A store to KV pages that has issued and is still to be judged (R242, R288): where it stands, its word, its requests on KV
pages and on others, and the virtual address that a refusal of a physical page names. -/
structure KvHold where
  pc : Word
  word : Word
  ids : List Nat
  rest : List Nat
  vas : List (Nat × Word)
  deriving DecidableEq, Repr

/-- The waits that an issued instruction leaves behind (R26, R217, R233, R255, R259). -/
inductive Wait where
  | none
  | waitq (k : Nat) (seen : Word) (deadline : Option Nat) (dst : Nat)
  | idle (seen : Word) (dst : Nat)
  | waita (x : WaitWord)
  | barw (part b : Nat) (phase : BitVec 16) (scope : Nat) (acq : Bool) (dst : Nat)
  /-- WAITK and deadline of a loaded image; its registers give the rest when the strand next runs (R218). -/
  | image (k deadline : Nat)
  /-- A CTXLD that has issued and whose image cannot be read yet (R195, R232, log entry 74). -/
  | ctxld (f : SF)
  deriving DecidableEq, Repr

/-- What a fetch that cannot be served will raise (R386): class POISON or XLATE, SUB, level, origin code. -/
structure FetchFail where
  poison : Bool
  sub : Nat
  level : Nat
  code : Code
  deriving DecidableEq, Repr

structure Slot where
  phase : Phase
  handle : Nat
  ctx : Nat
  task : Option Nat
  part : Nat
  mode : Mode
  prio : Nat
  pc : Word
  s : SMap SReg
  v : SMap VReg
  p : SMap PReg
  m : SMap SReg
  live : BitVec 64
  seed : BitVec 32
  bkOff : BitVec 16
  bkRet : BitVec 16
  dly : Delays
  bkwr : Word
  bkwo : Word
  bkwc : Word
  banks : SMap Bank
  reuse : Option Nat
  /-- Registers with a write pending, each with the request or command that will write it (R46). -/
  pend : List (Reg × Nat)
  /-- Pending tokens: register and command (R45). -/
  toks : SMap Nat
  /-- Cycle from which a result may be read (R48). -/
  readyAt : List (Reg × Nat)
  wait : Wait
  /-- YIELD holds the strand before this cycle (R31). -/
  yieldUntil : Nat
  /-- Acquires and fences that later memory operations await (R148). -/
  acqs : List Nat
  /-- FENCE.rel operations that later writes await (R143). -/
  fences : List Nat
  kvHold : Option KvHold
  /-- The page walk that the next instruction awaits (R403). -/
  walk : Option Nat
  fetchFail : Option FetchFail
  /-- The next word was missing from the instruction L1 when the reel last looked for it (R27, R211). -/
  missing : Bool := false
  /-- The word last fetched and the pc it was fetched at, for a record of the strand (R384). -/
  ir : Option (Word × Word)
  /-- SPAWNs not yet answered, and tokens not yet written (R30). -/
  spawns : Nat
  owed : Nat
  /-- Tick of the last moment the strand was READY (R389). -/
  readyTick : Nat
  /-- STATE and deadline of a loaded image, taking effect at the next resume (R232). -/
  resume : Option (Nat × Wait)
  /-- STATE and WAITK held when the strand was suspended (R65, R231). -/
  wasState : Nat
  wasKind : Nat
  /-- The wait is looked at again in the first cycle after a restore (R36). -/
  recheck : Bool
  /-- Cycle before which CSRR of VBTRES is held (R429). -/
  vbtUntil : Nat
  deriving DecidableEq, Repr

/-! ## Reels -/

/-- A sector of the data L1: 128 bytes with valid and dirty byte masks and poisoned granules (R135, R136), and whether it was
allocated to be evicted first (R102). -/
structure Sector where
  data : BitVec 1024
  valid : BitVec 128
  dirty : BitVec 128
  psn : BitVec 32
  ef : Bool := false
  deriving DecidableEq, Repr

/-- A line of a far cache (R135). -/
structure FarLine where
  data : BitVec 2048
  psn : BitVec 64
  deriving DecidableEq, Repr

/-- A translation held by a TLB (R403): context, base and size of the page, and the leaf entry. -/
structure Leaf where
  ctx : Nat
  base : Nat
  size : Nat
  level : Nat
  entry : Word
  deriving DecidableEq, Repr

/-- A pointer entry held by a walk cache (R403): the table for `level + 1` of the addresses with this prefix. -/
structure PtrEntry where
  ctx : Nat
  level : Nat
  tag : Nat
  table : Nat
  deriving DecidableEq, Repr

/-- A token or mark on a line (R177). -/
structure Flit where
  data : List Byte
  rnd : Nat
  mark : Bool
  lvl : Nat
  tag : Nat
  psn : Option Code
  cmp : Bool
  grd : BitVec 32
  deriving DecidableEq, Repr

/-- An engine command (R291 to R295), with the operand values it took at issue. -/
structure Cmd where
  id : Nat
  opc : BitVec 8
  eng : Eng
  reel : Nat
  slot : Nat
  handle : Nat
  ctx : Nat
  task : Option Nat
  part : Nat
  mode : Mode
  tok : Nat
  a : Word
  b : Word
  c : Word
  d : Word
  sc : Nat
  sd : Nat
  cmd : BitVec 11
  ty : Ty
  started : Bool
  prog : Nat
  /-- Loop counters of a feed (R313). -/
  i0 : Nat
  i1 : Nat
  i2 : Nat
  i3 : Nat
  /-- Bounds in force at each level; `none` where the next is to be taken from the bound queue (R189). -/
  b0 : Option Nat
  b1 : Option Nat
  b2 : Option Nat
  b3 : Option Nat
  /-- The open token of a steered feed: its words, and the code of the first poisoned one (R299). -/
  open_ : List (BitVec 32)
  openPsn : Option Code
  /-- HDIM read in stage 1 of KVAPP.rows (R306). -/
  stage : Nat
  /-- The virtual address of a held request (R295). -/
  held : Option Word
  walk : Option Nat
  /-- Tick at which bytes for a peer were first sent (R378, R379). -/
  sent : Option Nat
  /-- Flits that a KV load has still to send (R308). -/
  out : List Flit
  /-- CODE of a command that has ended and whose writes are still to be performed everywhere (R150, R292). -/
  ending : Option Nat
  /-- Requests of the strand that the command must observe (R150), and lines it has written. -/
  after : List Nat
  lines : List Nat
  deriving DecidableEq, Repr

structure Reel where
  cycle : Nat
  slots : SMap Slot
  /-- Rotation pointers (R33). -/
  ptr : SMap Nat
  ls : SMap Byte
  lsPsn : SMap Bool
  lsLive : BitVec 512
  lsBanks : SMap Bank
  lsOff : BitVec 16
  lsRet : BitVec 16
  lsDly : Delays
  lswr : Word
  lswo : Word
  lswc : Word
  tile : SMap VReg
  written : BitVec 256
  /-- The tile is occupied before this cycle (R327). -/
  tileBusy : Nat
  l1 : SMap Sector
  icache : SMap Word
  tlb : List Leaf
  feedQ : List Cmd
  kvQ : List Cmd
  drainQ : List Cmd
  copyQ : List Cmd
  /-- SBND, RETRY, ECANCEL and ESTAT on their way to the engine (R291, R301). -/
  ctlQ : List Cmd
  boundQ : List (BitVec 32)
  /-- Rounds of each collective the reel has contributed to (R262). -/
  collRound : SMap Nat
  deriving DecidableEq, Repr

/-! ## Fabric -/

/-- A port (R126): kind, and its two coordinates; `kite` is the fused kite that a kite port belongs to. -/
structure Port where
  kind : Nat
  a : Nat
  b : Nat
  kite : Nat
  deriving DecidableEq, Repr

structure Line where
  id : Nat
  part : Nat
  task : Option Nat
  src : Port
  snk : Port
  vc : Nat
  elastic : Bool
  filter : BitVec 16
  depth : Nat
  burst : Nat
  rate : Nat
  hops : Nat
  /-- Routers that hold an entry for the line, by block of the partition (R179). -/
  path : List Nat
  /-- Number of the open round at the source (R187). -/
  round : Nat
  /-- Tokens gathered by a transposing filter (R182). -/
  gather : List Flit
  /-- Flits in flight, oldest first, then flits that stand at the sink's port. -/
  buf : List Flit
  arrived : List Flit
  stopped : Bool
  deriving DecidableEq, Repr

/-- A context word of a cell (R170, R395). -/
structure CtxWord where
  val : Word
  psn : Bool
  deriving DecidableEq, Repr

/-- A weight plane of a cell: the first 208 bytes of its record (R166, R317), and its poison (R395). -/
structure Plane where
  data : BitVec 1664
  psn : Option Code
  deriving DecidableEq, Repr

structure Kite where
  handle : Nat
  ctx : Nat
  part : Nat
  task : Option Nat
  index : Nat
  bx : Nat
  by_ : Nat
  bw : Nat
  bh : Nat
  mode : Nat
  prec : Ty
  tags : BitVec 8
  /-- Keys: 8 · cell + tag, and cell = row · 8·bw + column. -/
  words : SMap CtxWord
  active : SMap Plane
  shadow : SMap Plane
  /-- Cells whose shadow plane is incomplete (R317). -/
  shadowBad : List Nat
  /-- KSWAP commands accepted and not yet performed (R168, R347). -/
  swap : Option Cmd
  /-- KMMA control (R319): every cell passes, accumulate, active rows and columns of blocks (0 all). -/
  pass : Bool
  acc : Bool
  srows : Nat
  scols : Nat
  /-- Accumulators of an os kite (R165), keyed 8 · cell + n; and their poison. -/
  accs : SMap (BitVec 32)
  accPsn : SMap Code
  inRate : Option Nat
  outRate : Option Nat
  clkReq : Option Nat
  halted : Bool
  /-- What an os kite still has to send for a mark it has taken: per slot, the ports and their flits (R187). -/
  sending : List (List (Port × Flit))
  deriving DecidableEq, Repr

/-- A hardware barrier (R257), and who released into the open phases (R260). -/
structure Barrier where
  phase : BitVec 16
  arrivals : Nat
  expected : Nat
  deriving DecidableEq, Repr

/-- A contribution to a collective (R261, R262). -/
structure Contrib where
  id : Nat
  round : Nat
  reel : Nat
  slot : Nat
  handle : Nat
  task : Option Nat
  dst : Nat
  bx : Nat
  by_ : Nat
  wx : Nat
  wy : Nat
  op : Nat
  ty : Ty
  val : Word
  psn : Option Code
  acq : Bool
  scope : Nat
  pendId : Nat
  deriving DecidableEq, Repr

structure Partition where
  handle : Nat
  ctx : Nat
  fx : Nat
  fy : Nat
  w : Nat
  h : Nat
  /-- Its row domains are gated for a suspension in progress (R406). -/
  stopped : Bool := false
  /-- Suspended, evicted (R405), and the claimant's partition granted over it. -/
  suspended : Bool
  evicted : Bool
  claimant : Option Nat
  /-- Units that a claimant has claimed and that were scanned out (R407). -/
  claimed : List UnitRef
  saveArea : Nat
  /-- Reels that were scanned out, by block of the partition (R407). -/
  saved : SMap Reel
  barriers : SMap Barrier
  colls : List Contrib
  cfgQ : List Cmd
  deriving DecidableEq, Repr

/-! ## Memory system -/

/-- A window of host memory, and the ports that serve it (R373). -/
structure HostWindow where
  base : Word
  size : Word
  ports : BitVec 8
  deriving DecidableEq, Repr

/-- A byte, and the code of its granule where that is poisoned (R395). -/
abbrev PByte := Byte × Option Code

/-- One access of a request: physical address, width in bytes, byte position in the register, and the KV and far-cache
marks of its page (R135, R155). -/
structure Unit' where
  pa : Nat
  w : Nat
  pos : Nat
  kv : Bool := false
  fc : Bool := false
  deriving DecidableEq, Repr

inductive ReqOp where
  /-- A read that fills or bypasses L1 (`fill`), at its point of coherence. -/
  | read (fill : Bool)
  /-- A write that allocates in L1, or, under .na, does not (`alloc`, R102). -/
  | write (alloc : Bool)
  | writeback
  /-- Atomic of the opcode. -/
  | atomic (opc : BitVec 8)
  | fence
  /-- An arrival at a barrier, a contribution to a collective, a post to an event counter, each behind a release. -/
  | bara (part b n : Nat)
  | coll (part : Nat) (c : Contrib)
  | post (ctx k : Nat) (irq : Bool)
  /-- ERET and its .skip form on a handle, and a CLINE operation on a line, behind what precedes them (R227, R246). -/
  | eret (h : Nat) (skip : Bool)
  | cline (op line : Nat)
  deriving DecidableEq, Repr

/-- Where the data of a request goes at its reel. -/
inductive ReqDst where
  | none
  | s (n : Nat)
  | v (n : Nat)
  deriving DecidableEq, Repr

/-- Stages of a request (R153, R400). -/
inductive Stage where
  | sent | applied | performed
  deriving DecidableEq, Repr

/-- A request in flight from a reel to a home (R140, R400). -/
structure Req where
  id : Nat
  reel : Nat
  slot : Nat
  handle : Nat
  ctx : Nat
  /-- The task whose completion waits for the request (R22). -/
  task : Option Nat
  pc : Word
  op : ReqOp
  ty : Ty
  units : List Unit'
  /-- Those still to be performed: the unit accesses of one request have no order among themselves (R141). -/
  left : List Unit'
  data : VWord
  dpsn : BitVec 64
  /-- Second operand of an atomic. -/
  data2 : VWord
  scope : Nat
  acq : Bool
  rel : Bool
  /-- LDACQ and STREL (R243). -/
  sync : Bool
  dst : ReqDst
  after : List Nat
  stage : Stage
  /-- Value the home returned, and its poison by granule. -/
  reply : VWord
  rpsn : BitVec 64
  /-- A later access of the strand to the same bytes has begun: the value of a read is fixed, and no fresh service of it counts
  any more (R142, R238). -/
  fixed : Bool
  /-- A store that the home refused on a KV page (R158). -/
  refused : Bool
  /-- Duplicates in flight (R400). -/
  dup : Nat
  /-- Lines whose invalidations or snoops it still awaits (R153, R374). -/
  lines : List Nat
  /-- A sector that it allocates in L1 is the first to be evicted (R102). -/
  ef : Bool := false
  /-- The context whose tables translated it (R401, R404), and the host windows at its issue (R373). -/
  tctx : Nat := 0
  wins : SMap HostWindow := []
  /-- A read that hit L1 in several units: until this cycle of its reel each of them may still take its bytes (R48, R141). -/
  hit : Option Nat := none
  /-- Lines of which its field's far cache has taken its bytes before the home has (R137, R139). -/
  taken : List Nat := []
  deriving DecidableEq, Repr

/-- A home's directory entry for a line (R153, R374): sharers, host bit, the writes whose invalidations are out, each by
the writing field and the fields that have not acknowledged, and whether a back-invalidate is unanswered. -/
structure Dir where
  sharers : BitVec 42
  host : Bool
  out : List (Nat × BitVec 42)
  snoop : Bool
  deriving DecidableEq, Repr

/-- A replay record (R400): source reel and tag. -/
structure Replay where
  reel : Nat
  tag : Nat
  home : Nat
  req : Nat
  deriving DecidableEq, Repr

inductive Access where
  | read | write | fetch
  deriving DecidableEq, Repr

inductive Requester where
  | strand (r : StrandRef)
  | cmd (id : Nat)
  deriving DecidableEq, Repr

/-- A page walk in progress (R403, R404). -/
structure Walk where
  id : Nat
  who : Requester
  field : Nat
  reel : Nat
  ctx : Nat
  va : Word
  acc : Access
  mode : Mode
  stale : Bool
  deriving DecidableEq, Repr

/-- A TLBINV in progress (R404): what it removes and the fields that have not acknowledged. -/
structure TlbInv where
  id : Nat
  kind : Nat
  ctx : Nat
  va : Word
  reel : Nat
  slot : Nat
  handle : Nat
  dst : Nat
  waiting : BitVec 42
  /-- Fields that have removed the translations and not yet acknowledged (R404). -/
  removed : BitVec 42
  /-- What the caller's release awaits (R230); requests and lines that may use a removed translation (R404). -/
  after : List Nat
  reqs : List Nat
  lines : List Nat
  deriving DecidableEq, Repr

/-- A CTXSV that has issued (R195, R231): who awaits its status, target, the translated pages, the length of the image, and
the lines it has written, once it has. -/
structure ImageSave where
  id : Nat
  reel : Nat
  slot : Nat
  handle : Nat
  dst : Nat
  ctx : Nat
  shared : Bool
  target : Word
  pages : List (Nat × Nat × Word)
  size : Nat
  lines : Option (List Nat)
  deriving DecidableEq, Repr

/-- Steps of a conversion (R159). -/
inductive ConvStep where
  | staging | closing | converting
  deriving DecidableEq, Repr

structure Conv where
  page : Nat
  ctx : Nat
  step : ConvStep
  deriving DecidableEq, Repr

/-- The ageing engine of a stack (R159, R393), with its KVAGE_V1 counters (R463). -/
structure Ageing where
  registry : List (Nat × Nat)
  conv : Option Conv
  done : Word
  abandoned : BitVec 32
  heldCount : Word
  longest : BitVec 32
  ageFull : BitVec 32
  /-- Accesses that the conversion holds now: number and tick of arrival. -/
  holds : List (Nat × Nat)
  deriving DecidableEq, Repr

/-! ## Contexts, queues, tasks -/

/-- A fault record not yet written to its queue (R384, R385), as its eight words but SEQ. -/
structure Record where
  w0 : Word
  handle : Word
  pc : Word
  addr : Word
  word : Word
  info : Word
  tick : Word
  recordOnly : Bool
  deriving DecidableEq, Repr

/-- A boost lease (R454): clock, tick of expiry, and the µs kept while the context is suspended. -/
structure Lease where
  mhz : Nat
  expiry : Nat
  kept : Option Nat
  deriving DecidableEq, Repr

structure Context where
  live : Bool
  root : Word
  fqBase : Word
  fqN : Nat
  ceil : Nat
  flags : Byte
  irqPort : Nat
  age : Word
  ev : SMap Word
  fqRead : Word
  lost : Bool
  wdog : Word
  records : List Record
  /-- The oldest record is written; EV0 waits until it is performed at system scope (R385). -/
  fqOpen : Bool
  lease : Option Lease
  deriving DecidableEq, Repr

/-- An error record that waits to be written, with where it goes: ERRREC, its dispatcher's field, context and port as they were at
the event (R359). -/
structure ErrorRecord where
  bytes : List PByte
  errrec : Word
  field : Nat
  ctx : Nat
  port : Nat
  deriving DecidableEq, Repr

inductive QState where
  | disabled | active | paused | faulted | draining
  deriving DecidableEq, Repr

/-- A packet that has been fetched: index, its 128 bytes as sixteen words, whether it has started. -/
structure Packet where
  index : Nat
  words : List Word
  started : Bool
  /-- Dependency entries already satisfied (R362). -/
  met : BitVec 4
  /-- Its signal is written, with the line, or it failed and its error record stands for it (R362 to R364). -/
  signalled : Option (Option Nat)
  deriving DecidableEq, Repr

structure Queue where
  ring : Word
  logn : Nat
  ctx : Nat
  qprio : Nat
  part : Nat
  cls : Word
  errrec : Word
  rdidx : Nat
  wridx : Nat
  state : QState
  errcode : Nat
  inflt : Nat
  sigfail : Nat
  killed : Nat
  head : Option Packet
  /-- The BARRIER-AND or SIGNAL in progress (R362, R363). -/
  watch : Option Packet
  /-- Tick at which a SEQ mismatch of the packet at RDIDX was first seen (R358). -/
  mismatch : Option Nat
  /-- Reserved bytes written to the descriptor, so that CREATE can refuse them (R355). -/
  rsv : Bool
  /-- Error records whose writes wait, oldest first (R359). -/
  errors : List ErrorRecord
  deriving DecidableEq, Repr

structure Task where
  id : Nat
  ctx : Nat
  part : Nat
  queue : Nat
  index : Nat
  seq : Nat
  sigAddr : Word
  sigVal : Word
  sigKind : Nat
  barrier : Bool
  kitesFused : Nat
  killed : Bool
  /-- Its completion signal is written, with the line, or it failed and its error record stands for it (R22, R364). -/
  signalled : Option (Option Nat)
  deriving DecidableEq, Repr

/-- A SPAWN not yet answered (R28). -/
structure Spawn where
  id : Nat
  reel : Nat
  slot : Nat
  handle : Nat
  dst : Nat
  target : Nat
  entry : Word
  prio : Nat
  arg : SReg
  ctx : Nat
  mode : Mode
  task : Option Nat
  part : Nat
  /-- Requests of the caller that the release awaits (R29). -/
  after : List Nat
  deriving DecidableEq, Repr

/-! ## Fields, ports, firmware, power -/

structure Field where
  healthy : Bool
  offered : Bool
  suspect : Bool
  tested : Bool
  testing : Bool
  /-- It failed full self-test in this start (R413). -/
  testFailed : Bool
  retired : Bool
  rowsGone : Nat
  colsGone : Nat
  reelsGone : Nat
  eastLanes : Nat
  southLanes : Nat
  /-- VBRET: buses retired (R429), those applied to the address map of this start (R134), and c of this start. -/
  vbret : BitVec 16
  busesGone : BitVec 16
  slice : Nat
  vbtsel : Word
  vbtres : Word
  vbrsel : Word
  vbrval : SMap (BitVec 16)
  /-- Physical faults of the field's buses, seen by the test (R429): opens, shorts, stuck connections, keyed by bus. -/
  busOpen : List (Nat × Nat)
  busShort : List (Nat × Nat × Nat)
  busStuck : List (Nat × Nat)
  /-- Phase 6: fault map and result words of the test program by bus, keyed 17 · bus + word and 2 · bus + word, and the buses
  that it has tested (R431). -/
  busMap : SMap Word
  busResult : SMap Word
  busDone : BitVec 16
  tlb : List Leaf
  walkCache : List PtrEntry
  far : SMap FarLine
  /-- DRAM lines that the home cache of a rim field holds, and whether each is still to be written to its stack (R135). -/
  home : SMap Bool
  temp : Int
  hot : Bool
  crit : Bool
  coolSince : Option Nat
  gated : Bool
  /-- Tick since which the field's reels, engines and cells have been idle; PWRHINT.idle came (R332, R450). -/
  idleSince : Option Nat
  idleHint : Bool
  late : Nat
  /-- Divider of the power manager, stretch steps and margin hold, by row domain (R445, R451). -/
  pmDiv : SMap Nat
  stretch : SMap Nat
  lastWarn : SMap Nat
  warn4 : SMap Nat
  divHold : SMap Nat
  divHoldAt : SMap Nat
  floor : Nat
  share : Nat
  ballast : Nat
  deadregs : BitVec 32
  deadlss : BitVec 32
  /-- Time that banks of the field's reels have spent FULL and RETAIN, in bank-ticks (R462). -/
  bankFull : Nat
  bankRetain : Nat
  /-- Wakes from RETAIN and OFF and wake cycles of the field's vector and local-store banks, counted from cold device reset
  whatever becomes of the strands (R459, R462). -/
  bkwr : Nat
  bkwo : Nat
  bkwc : Nat
  lswr : Nat
  lswo : Nat
  lswc : Nat
  deriving DecidableEq, Repr

/-- A write of the host that its home has still to apply: physical address, bytes, relaxed ordering (R154). -/
structure HostWrite where
  id : Nat
  pa : Nat
  bytes : List (Byte × Option Code)
  relaxed : Bool
  deriving DecidableEq, Repr

/-- A host port's own registers (R351, R353, R355) and link. -/
structure HostPort where
  qctl : Word
  cctl : Word
  cdata : Word
  msix : Bool
  up : Bool
  /-- Lanes in use and rate (R371, R464). -/
  lanes : Nat
  rate : Nat
  /-- Writes that have arrived and are not yet applied, and lines of ordered writes whose invalidations are out (R154). -/
  writes : List HostWrite
  order : List Nat
  /-- Host lines that the port's field holds shared for watches (R375). -/
  watched : List Nat
  crc : Word
  replays : Word
  downs : BitVec 32
  resent : Word
  deriving DecidableEq, Repr

/-- Bytes sent to a peer that have no acknowledgement yet: the device's own record of them, by command and tag (R378,
R380). -/
structure PeerOut where
  cmd : Nat
  tag : Nat
  port : Nat
  dest : Nat
  window : Nat
  offset : Nat
  bytes : List (Byte × Option Code)
  units : Nat
  red : Nat
  deriving DecidableEq, Repr

/-- A transfer of a peer that has been applied or refused, with the reply it got (R380, R400). -/
structure PeerSeen where
  sender : BitVec 16
  tag : BitVec 16
  accepted : Bool
  n : Nat
  deriving DecidableEq, Repr

structure PeerPort where
  up : Bool
  lanes : Nat
  rate : Nat
  crc : Word
  replays : Word
  downs : BitVec 32
  resent : Word
  aborted : BitVec 32
  deriving DecidableEq, Repr

structure PeerWindow where
  base : Word
  size : Word
  ctx : Nat
  flags : Byte
  sender : BitVec 16
  deriving DecidableEq, Repr

/-- The pre-emption registers (R392), and the command in progress. -/
structure Pmt where
  vict : Nat
  claim : Nat
  part : Word
  save : Word
  op : Nat
  busy : Bool
  /-- The command in progress came through FWREQ (R415). -/
  viaFw : Bool
  code : Nat
  units : Nat
  out : Word
  /-- Operands of the command in progress, or of the last one. -/
  jVict : Nat
  jClaim : Nat
  jPart : Word
  jSave : Word
  deriving DecidableEq, Repr

inductive DevMode where
  | booting | bringup | full | safe
  deriving DecidableEq, Repr

/-- A firmware bank (R437): empty, valid with its versions, or invalid. -/
structure FwBank where
  state : Nat
  version : BitVec 32
  svn : BitVec 32
  healthy : Bool
  /-- It has been activated since it was staged; only such a bank is ever booted (R441). -/
  activated : Bool
  deriving DecidableEq, Repr

/-- Who awaits an answer: strand, destination register, and the number its register waits for. -/
structure Asker where
  reel : Nat
  slot : Nat
  handle : Nat
  dst : Nat
  id : Nat
  deriving DecidableEq, Repr

/-- A firmware-served operation held during a handover (R439). -/
inductive HeldOp where
  | cctl (port : Nat) (v : Word)
  | qctl (port : Nat) (v : Word)
  | fwreq (v : Word)
  | pmtcmd (op : Nat)
  | boost (a : Asker) (ctx mhz us : Nat)
  | boostRel (a : Asker) (ctx : Nat)
  | boostQry (a : Asker) (ctx : Nat)
  | grant (a : Asker) (ctx w h : Nat)
  | free (a : Asker) (handle : Word) (ctx : Nat)
  deriving DecidableEq, Repr

/-- One entry of the RAS log (R466). -/
structure RasEntry where
  serial : Nat
  tick : Nat
  kind : Nat
  field : Nat
  severity : Nat
  code : Code
  pa : Word
  loc : Word
  merged : Nat
  read : Bool
  deriving DecidableEq, Repr

/-- A stored defect map (R416). -/
structure DefectMap where
  valid : Bool
  serial : BitVec 128
  seq : Word
  entries : List Word
  deriving DecidableEq, Repr

structure Firmware where
  devMode : DevMode
  rollback : Bool
  deltaPending : Bool
  mx4Off : Bool
  mapInvalid : Bool
  clkMHz : Nat
  withhold : Bool
  fcslice : Nat
  ver : BitVec 32
  svn : BitVec 32
  reqStatus : Nat
  reqOp : Nat
  args : SMap Word
  rsp : Word
  /-- Phase in which the last start ended; `none` when it completed (R465). -/
  endPhase : Option Nat
  /-- Phase now running; 6 opens the bus-test CSRs (R429). -/
  phase : Nat
  /-- A start that stands in phase 6, with what the part shows it. -/
  start : Option StartReport
  /-- Safe Service until maps have been provisioned again (R422). -/
  safeHold : Bool
  railFailed : Bool
  quedonActive : Nat
  controlActive : Nat
  quedonBanks : SMap FwBank
  controlBanks : SMap FwBank
  update : Option Component
  staged : Option Image
  activating : Option Component
  handover : Option Nat
  held : List HeldOp
  /-- Host ports whose QCTL (true) or CCTL (false) command is PENDING, in order of arrival (R355). -/
  ctl : List (Nat × Bool)
  /-- Hard faults detected and not yet handled (R420), and corrected errors of the last hour: location, tick (R467). -/
  hardFaults : List Word
  soft : List (Word × Nat)
  /-- Defects bound at the last start (R419). -/
  bound : List Word
  /-- The fields as they were before a start that has not come to phase 7: what DEFECT_V1 still shows (R471). -/
  before : Option (SMap Field)
  lastResult : Nat
  minSvn : BitVec 32
  /-- The package's serial number (R416). -/
  serial : BitVec 128
  factory : DefectMap
  delta : DefectMap
  deltaFuse : Word
  deriving DecidableEq, Repr

/-- The power manager and the operator's registers (R442 to R447, R454). -/
structure Power where
  pwrcap : Word
  pwrslope : Word
  pwrpol : Word
  /-- PWRPOL, PWRCAP, PWRSLOPE and the fields of PWRTHERM in force: as the last control interval found them (R442). -/
  polNow : Word
  capNow : Word
  slopeNow : Word
  tcritNow : Nat
  thotNow : Nat
  tcrit : Nat
  thot : Nat
  overBit : Bool
  owed : Nat
  enfw : Nat
  power : Nat
  average : Nat
  railmV : Nat
  railA : Nat
  /-- Steps of R445 taken and not undone, newest first: (step, field). -/
  steps : List (Nat × Nat)
  highest : Nat
  window : Nat
  overTime : Nat
  overshoots : BitVec 32
  /-- Ballast drawn so far, in µA · switch cycles. -/
  ballastSum : Nat
  /-- Tick from which ENFW is on its way down, and from where; power is above ENFW now; sum and number of the window's
  measurements; highest step and overshoot time of the window now open; tick of the last ungating (R444, R446, R447). -/
  rampAt : Option Nat
  rampFrom : Nat
  overNow : Bool
  sum : Nat
  count : Nat
  highNow : Nat
  overNowTime : Nat
  /-- Number of the 1 ms window that is open, energy drawn above CAP in it in µJ, and the ticks of the control intervals of the
  last 1 ms that found an overshoot (R446, R447). -/
  windowNo : Nat
  above : Nat
  overAt : List Nat
  ungateAt : Option Nat
  cancelled : BitVec 32
  shutField : Nat
  shutTick : Nat
  railOff : Bool
  deriving DecidableEq, Repr

/-- Quedon (R456 to R470): PEERCFG, session, snapshot number and records, RAS log. -/
structure Quedon where
  peercfg : Word
  session : Bool
  /-- It stays in its boot loader: a start has found no bank of it good (R411). -/
  loader : Bool
  /-- Tick until which a management reset keeps it silent (R456). -/
  quietUntil : Nat
  gen : Nat
  snapTick : Nat
  /-- The latest snapshot: (schema · 65536 + instance, bytes). -/
  records : SMap (List Byte)
  ras : List RasEntry
  rasNext : Nat
  rasLost : Nat
  deriving DecidableEq, Repr

/-- What the device sends to the outside, in order. -/
inductive Sent where
  | msix (port vector : Nat)
  | response (tag command code : Byte) (payload : List Byte)
  | hostData (port pa : Nat) (bytes : List (Byte × Option Code))
  | peer (out : PeerOut)
  | peerReply (port : Nat) (reply : PeerSeen)
  | snoop (line : Nat)
  deriving DecidableEq, Repr

/-! ## What the step reads to choose the next mover -/

/-- A step of the device that has no row in the opcode table: one unit access of a request performed (R141), an instruction
word, a translation or a pointer that a cache gives up (R113, R403), a line that its home cache gives up (R135). -/
inductive Move where
  | unit (req k : Nat)
  /-- The far cache of the writer's field takes the bytes of a request before the home does (R137, R139). -/
  | farTake (req : Nat)
  | dropWord (reel word : Nat)
  | dropLeaf (reel k : Nat)
  | dropFieldLeaf (field k : Nat)
  | dropPointer (field k : Nat)
  | dropHome (line : Nat)
  /-- The record of a peer's transfer goes, once the peer has acknowledged the reply (R380, R400). -/
  | dropSeen (k : Nat)
  /-- A CTXSV goes on (R231). -/
  | save (id : Nat)
  /-- Error records of a queue that wait are written (R359, R399). -/
  | errors (queue : Nat)
  /-- Phase 6 tests one bus of a field; and, once all are tested, the start goes on (R411, R431). -/
  | busTest (field bus : Nat)
  | startOn
  deriving DecidableEq, Repr

/-- One turn of the agenda (the model's own): ticks that pass, then a reel's issue cycle or a step of another agent. -/
inductive Turn where
  | cycle (ticks reel : Nat)
  | event (ticks : Nat) (i : Instr)
  | move (ticks : Nat) (m : Move)
  deriving DecidableEq, Repr

structure State where
  /-- The time counter (R453). -/
  tick : Nat
  /-- The model's own: the order in which the agents move, numbers for new objects, free values drawn so far, the
  reel of the next issue cycle, the strand that issues, and whether the instruction tried last was held. -/
  agenda : List Turn
  nextId : Nat
  draws : Nat
  turn : Nat
  cur : StrandRef
  held : Bool
  /-- Memory at its homes (R132): bytes by physical address, and the 4-byte granules that are poisoned. -/
  mem : List Host.Cell
  mpsn : SMap Bool
  dirs : SMap Dir
  reqs : List Req
  replays : List Replay
  walks : List Walk
  invs : List TlbInv
  /-- CTXSVs in progress (R231). -/
  saves : List ImageSave
  ageing : SMap Ageing
  reels : SMap Reel
  fields : SMap Field
  parts : List Partition
  kites : List Kite
  lines : List Line
  spawns : List Spawn
  ctxs : SMap Context
  /-- Context descriptors as written (R352), keyed 8 · context + word. -/
  ctxDesc : SMap Word
  queues : SMap Queue
  /-- Rotation pointers of the dispatchers (R367), keyed 32 · partition + level. -/
  qptr : SMap Nat
  tasks : List Task
  hostPorts : SMap HostPort
  peerPorts : SMap PeerPort
  hostWins : SMap HostWindow
  peerWins : SMap PeerWindow
  peertmo : Word
  /-- Bytes out to peers, oldest first, and the last transfers of each peer (R380). -/
  peerOut : List PeerOut
  peerSeen : List PeerSeen
  peerId : BitVec 16
  pmt : Pmt
  fw : Firmware
  power : Power
  quedon : Quedon
  sent : List Sent
  /-- What is sent once the writes to some lines are performed at system scope (R372, R378). -/
  pendSent : List (List Nat × Sent)
  deriving DecidableEq, Repr

/-! ## The state after reset -/

def Delays.reset : Delays := { off := 64, ret := 512, wrote := false, new := false }

/-- A slot that holds no strand; a strand starts from it (R21, R28, R63). -/
def Slot.reset : Slot :=
  { phase := .free, handle := 0, ctx := 0, task := none, part := 0, mode := .user, prio := 0, pc := 0
    s := [], v := [], p := [], m := [], live := 0, seed := 1, bkOff := 64, bkRet := 512, dly := Delays.reset
    bkwr := 0, bkwo := 0, bkwc := 0, banks := [], reuse := none, pend := [], toks := [], readyAt := []
    wait := .none, yieldUntil := 0, acqs := [], fences := [], kvHold := none, walk := none, fetchFail := none, ir := none
    spawns := 0, owed := 0, readyTick := 0, resume := none, wasState := 0, wasKind := 0, recheck := false, vbtUntil := 0 }

/-- A reel at reel reset (R33, R56, R60, R63). -/
def Reel.reset : Reel :=
  { cycle := 0, slots := [], ptr := [], ls := [], lsPsn := [], lsLive := 0, lsBanks := [], lsOff := 64, lsRet := 512
    lsDly := Delays.reset, lswr := 0, lswo := 0, lswc := 0, tile := [], written := 0, tileBusy := 0, l1 := [], icache := [], tlb := []
    feedQ := [], kvQ := [], drainQ := [], copyQ := [], ctlQ := [], boundQ := [], collRound := [] }

/-- A bank that holds only dead contents and is OFF (R56). -/
def Bank.reset : Bank := { supply := .off, touch := 0, dead := none, wake := none }

def SReg.zero : SReg := { val := 0, psn := false }
def PReg.zero : PReg := { val := false, code := none }
def VReg.zero : VReg := { val := 0, psn := 0 }
def Barrier.reset : Barrier := { phase := 0, arrivals := 0, expected := 0 }
def Dir.none : Dir := { sharers := 0, host := false, out := [], snoop := false }
def Ageing.reset : Ageing :=
  { registry := [], conv := none, done := 0, abandoned := 0, heldCount := 0, longest := 0, ageFull := 0, holds := [] }
def CtxWord.zero : CtxWord := { val := 0, psn := false }
def Plane.zero : Plane := { data := 0, psn := none }

/-- A context that does not exist. -/
def Context.reset : Context :=
  { live := false, root := 0, fqBase := 0, fqN := 0, ceil := 0, flags := 0, irqPort := 0, age := 0, ev := []
    fqRead := 0, lost := false, wdog := 0, records := [], fqOpen := false, lease := none }

def Queue.reset : Queue :=
  { ring := 0, logn := 0, ctx := 0, qprio := 0, part := 0, cls := 0, errrec := 0, rdidx := 0, wridx := 0
    state := .disabled, errcode := 0, inflt := 0, sigfail := 0, killed := 0, head := none, watch := none
    mismatch := none, rsv := false, errors := [] }

/-- A field before a start has offered it (R414): no defect, every bus in service, c = 1. -/
def Field.reset : Field :=
  { healthy := true, offered := false, suspect := false, tested := false, testing := false, testFailed := false, retired := false
    rowsGone := 0, colsGone := 0, reelsGone := 0, eastLanes := 104, southLanes := 104, vbret := 0, busesGone := 0
    slice := 1, vbtsel := 0, vbtres := 0x7FF_0000_0000, vbrsel := 0, vbrval := [], busOpen := [], busShort := []
    busStuck := [], busMap := [], busResult := [], busDone := 0, tlb := [], walkCache := [], far := [], home := [], temp := 0, hot := false, crit := false, coolSince := none
    gated := false, idleSince := none, idleHint := false, late := 0, pmDiv := [], stretch := [], lastWarn := []
    warn4 := [], divHold := [], divHoldAt := [], floor := 0, share := 0, ballast := 0, deadregs := 0, deadlss := 0
    bankFull := 0, bankRetain := 0, bkwr := 0, bkwo := 0, bkwc := 0, lswr := 0, lswo := 0, lswc := 0 }

def HostPort.reset : HostPort :=
  { qctl := 0, cctl := 0, cdata := 0, msix := false, up := false, lanes := 16, rate := 128, writes := [], order := [], watched := [], crc := 0, replays := 0, downs := 0, resent := 0 }

def PeerPort.reset : PeerPort :=
  { up := false, lanes := 8, rate := 224, crc := 0, replays := 0, downs := 0, resent := 0, aborted := 0 }

def HostWindow.reset : HostWindow := { base := 0, size := 0, ports := 0 }
def PeerWindow.reset : PeerWindow := { base := 0, size := 0, ctx := 0, flags := 0, sender := 0 }

def Pmt.reset : Pmt :=
  { vict := 0, claim := 0, part := 0, save := 0, op := 0, busy := false, viaFw := false, code := 0, units := 0, out := 0
    jVict := 0, jClaim := 0, jPart := 0, jSave := 0 }

def FwBank.empty : FwBank := { state := 0, version := 0, svn := 0, healthy := false, activated := false }
def FwBank.factory : FwBank := { state := 1, version := 0, svn := 0, healthy := true, activated := true }
def DefectMap.factory : DefectMap := { valid := true, serial := 0, seq := 0, entries := [] }

/-- The firmware's registers at their Reset values (R414): MODE BOOTING, mx4 refused; both maps are valid and empty. -/
def Firmware.reset : Firmware :=
  { devMode := .booting, rollback := false, deltaPending := false, mx4Off := true, mapInvalid := false, clkMHz := 750
    withhold := false, fcslice := 1, ver := 0, svn := 0, reqStatus := 0, reqOp := 0, args := [], rsp := 0
    endPhase := none, phase := 0, start := none, safeHold := false, railFailed := false, quedonActive := 0, controlActive := 0
    quedonBanks := [(0, FwBank.factory)], controlBanks := [(0, FwBank.factory)], update := none, staged := none
    activating := none, handover := none, held := [], ctl := [], hardFaults := [], soft := []
    bound := [], before := none, lastResult := 0, minSvn := 0, serial := 0, factory := DefectMap.factory
    delta := DefectMap.factory, deltaFuse := 0 }

/-- The power registers at their Reset values (R442). -/
def Power.reset : Power :=
  { pwrcap := 480, pwrslope := 500, pwrpol := 0x000F_4240_0020_0A07, polNow := 0x000F_4240_0020_0A07
    capNow := 480, slopeNow := 500, tcritNow := 105, thotNow := 95, tcrit := 105, thot := 95, overBit := false
    owed := 0, enfw := 24000, power := 0, average := 0, railmV := 720, railA := 0, steps := [], highest := 0
    window := 0, overTime := 0, overshoots := 0, ballastSum := 0, rampAt := none, rampFrom := 0, overNow := false
    sum := 0, count := 0, highNow := 0, overNowTime := 0, windowNo := 0, above := 0, overAt := [], ungateAt := none, cancelled := 0, shutField := 255, shutTick := 0
    railOff := false }

/-- Quedon after a cold device reset; PEERCFG has its Reset value (R457). -/
def Quedon.reset : Quedon :=
  { peercfg := 0xFFFF, session := false, loader := false, quietUntil := 0, gen := 0, snapTick := 0, records := [], ras := []
    rasNext := 1, rasLost := 0 }

/-- The device with every register at its Reset value, before a start has run its phases (R411, R414): no context, no
partition, no strand. -/
def State.reset : State :=
  { tick := 0, agenda := [], nextId := 1, draws := 0, turn := 0, cur := { reel := 0, slot := 0 }, held := false
    mem := [], mpsn := [], dirs := [], reqs := [], replays := [], walks := [], invs := [], saves := [], ageing := []
    reels := [], fields := [], parts := [], kites := [], lines := [], spawns := [], ctxs := [], ctxDesc := []
    queues := [], qptr := [], tasks := [], hostPorts := [], peerPorts := [], hostWins := [], peerWins := []
    peertmo := 100000000, peerOut := [], peerSeen := [], peerId := 0xFFFF, pmt := Pmt.reset, fw := Firmware.reset, power := Power.reset
    quedon := Quedon.reset, sent := [], pendSent := [] }

end Sys2Proof.Machine
end

