-- ==== Sys2Proof/Machine/SMap.lean ====
section
/-! DEFINITION. Sparse tables and small list operations. A table lists only keys whose value differs from the
reader's default, in rising order; `put` keeps that form. -/

namespace Sys2Proof

/-- The value at a key, or the default. -/
def SMap.get {α : Type} (d : α) : SMap α → Nat → α
  | [], _ => d
  | (k, v) :: m, i => if k = i then v else SMap.get d m i

/-- The table without a key. -/
def SMap.del {α : Type} : SMap α → Nat → SMap α
  | [], _ => []
  | (k, v) :: m, i => if k = i then SMap.del m i else (k, v) :: SMap.del m i

/-- The table with a key set, keys rising. -/
def SMap.ins {α : Type} : SMap α → Nat → α → SMap α
  | [], i, x => [(i, x)]
  | (k, v) :: m, i, x =>
    if i < k then (i, x) :: (k, v) :: m
    else if i = k then (i, x) :: m
    else (k, v) :: SMap.ins m i x

/-- The table with a key set; the default is not listed. -/
def SMap.put {α : Type} [DecidableEq α] (d : α) (m : SMap α) (i : Nat) (x : α) : SMap α :=
  if x = d then SMap.del m i else SMap.ins m i x

/-- Keys strictly rising, all at least `lo`. -/
def SMap.rising {α : Type} : Nat → SMap α → Bool
  | _, [] => true
  | lo, (k, _) :: m => lo ≤ k && SMap.rising (k + 1) m

/-- Canonical form: keys strictly rising and no default listed. -/
def SMap.wf {α : Type} [DecidableEq α] (d : α) (m : SMap α) : Bool :=
  SMap.rising 0 m && m.all fun kv => kv.2 != d

/-- Removes every key in a range `lo ≤ k < lo + n`. -/
def SMap.clear {α : Type} (m : SMap α) (lo n : Nat) : SMap α :=
  m.filter fun kv => kv.1 < lo || lo + n ≤ kv.1

def SMap.keys {α : Type} (m : SMap α) : List Nat := m.map (·.1)

/-- Applies `f` to every element with the property. -/
def listMod {α : Type} (p : α → Bool) (f : α → α) (l : List α) : List α :=
  l.map fun x => if p x then f x else x

/-- The naturals below `n`, rising. -/
def upto (n : Nat) : List Nat := List.range n

/-- Folds over the naturals below `n`. -/
def foldUpto {σ : Type} : Nat → (Nat → σ → σ) → σ → σ
  | 0, _, s => s
  | n + 1, f, s => f n (foldUpto n f s)

end Sys2Proof
end

