-- ==== Sys2Proof/Machine/Bits.lean ====
section
/-! DEFINITION. Fields, lanes and bytes of words (R5, R44). -/

namespace Sys2Proof

/-- Bits lo + n − 1 .. lo, as a natural number. -/
def bitsOf {w : Nat} (x : BitVec w) (lo n : Nat) : Nat := (x.toNat >>> lo) % 2 ^ n

/-- The low `w` bits of `n` read as a signed number. -/
def signed (w n : Nat) : Int :=
  let b := n % 2 ^ w
  if 2 ^ (w - 1) ≤ b then (b : Int) - (2 ^ w : Nat) else b

/-- An integer reduced mod 2^w. -/
def wrapNat (w : Nat) (v : Int) : Nat := (v % ((2 ^ w : Nat) : Int)).toNat

def word (n : Nat) : Word := BitVec.ofNat 64 n

/-- An exact integer as a 64-bit word, mod 2^64. -/
def wordOfInt (v : Int) : Word := BitVec.ofInt 64 v

/-- Byte `k` of a word. -/
def byteOf {w : Nat} (x : BitVec w) (k : Nat) : Byte := x.extractLsb' (8 * k) 8

/-- The first `n` bytes of a word, lowest address first (R5). -/
def bytesOf {w : Nat} (x : BitVec w) (n : Nat) : List Byte := (upto n).map (byteOf x)

/-- Little-endian value of bytes, lowest address first (R5). -/
def natOfBytes : List Byte → Nat
  | [] => 0
  | b :: bs => b.toNat + 256 * natOfBytes bs

/-- Lane `k` of width `w` (R44). -/
def laneOf {n : Nat} (x : BitVec n) (w k : Nat) : Nat := (x.toNat >>> (w * k)) % 2 ^ w

/-- Lanes of width `w` joined, lane 0 lowest. -/
def natOfLanes (w : Nat) : List Nat → Nat
  | [] => 0
  | x :: xs => x % 2 ^ w + 2 ^ w * natOfLanes w xs

/-- A vector register from a lane function (R44). -/
def vecOfLanes (w : Nat) (f : Nat → Nat) : VWord :=
  BitVec.ofNat 2048 (natOfLanes w ((upto (2048 / w)).map f))

/-- One bit as a number. -/
def bit (b : Bool) : Nat := if b then 1 else 0

/-- `x` with bit `i` set to `b`. -/
def setBit {w : Nat} (x : BitVec w) (i : Nat) (b : Bool) : BitVec w :=
  let m := 1#w <<< i
  if b then x ||| m else x &&& ~~~m

/-- Bits `lo .. lo + n - 1` set. -/
def maskBits (w lo n : Nat) : BitVec w := BitVec.ofNat w ((2 ^ n - 1) <<< lo)

/-- Number of one bits. -/
def popCount {w : Nat} (x : BitVec w) : Nat := (upto w).foldl (fun a i => a + bit (x.getLsbD i)) 0

/-- Indices of the one bits, rising. -/
def onesOf {w : Nat} (x : BitVec w) : List Nat := (upto w).filter fun i => x.getLsbD i

/-- A power of two. -/
def isPow2 (n : Nat) : Bool := n != 0 && n == 2 ^ n.log2

end Sys2Proof
end

