-- ==== Sys2Proof/Machine/Flags.lean ====
section
/-! DEFINITION. Integer values: reading an operand under its type, wrapping and saturating a result (R69, R196),
and the conditions of comparisons (R204, R208, R272). The machine has no flag register; comparisons write predicates. -/

namespace Sys2Proof

/-- Least and greatest value of a `w`-bit integer type (R69). -/
def tmin (w : Nat) (sgn : Bool) : Int := if sgn then -((2 ^ (w - 1) : Nat) : Int) else 0
def tmax (w : Nat) (sgn : Bool) : Int := if sgn then ((2 ^ (w - 1) : Nat) : Int) - 1 else ((2 ^ w : Nat) : Int) - 1

/-- The value of the low `w` bits in the type's kind. -/
def intVal (w : Nat) (sgn : Bool) (x : Nat) : Int :=
  if sgn then signed w x else ((x % 2 ^ w : Nat) : Int)

/-- A result as a `w`-bit pattern: wrapped, or clamped under SAT (R69). -/
def intResult (w : Nat) (sgn sat : Bool) (v : Int) : Nat :=
  wrapNat w (if sat then min (max v (tmin w sgn)) (tmax w sgn) else v)

/-- TY 0 stands for .i64 in the scalar group (R103). -/
def Ty.sgn64 : Ty → Bool
  | .none => true
  | t => t.isSigned

/-- opnd(x, T) of R196. -/
def opnd (t : Ty) (x : Word) : Int := intVal t.bits t.sgn64 x.toNat

/-- pat(x, T) of R196. -/
def pat (t : Ty) (x : Word) : Nat := x.toNat % 2 ^ t.bits

/-- result(v, T, sat) of R196, widened to 64 bits. -/
def result (t : Ty) (sat : Bool) (v : Int) : Word :=
  let b := intResult t.bits t.sgn64 sat v
  if t.sgn64 then wordOfInt (signed t.bits b) else word b

/-- The six ordered conditions, by code (R204). -/
def condInt (c : Nat) (a b : Int) : Bool :=
  match c with
  | 0 => a == b
  | 1 => a != b
  | 2 => decide (a < b)
  | 3 => decide (a ≤ b)
  | 4 => decide (b < a)
  | _ => decide (b ≤ a)

/-- cond(A, B) of R204 on two registers under a type. -/
def condScalar (t : Ty) (c : Nat) (a b : Word) : Bool :=
  match c with
  | 6 => pat t a &&& pat t b != 0
  | 7 => pat t a &&& pat t b == 0
  | _ => condInt c (opnd t a) (opnd t b)

/-- CMPI's condition (R208). -/
def condImm (c : Nat) (a : Word) (imm : BitVec 32) : Bool :=
  if c < 8 then condScalar .i64 c a (imm.signExtend 64)
  else
    let b : Int := imm.toNat
    let a : Int := a.toNat
    match c with
    | 10 => decide (a < b)
    | 11 => decide (a ≤ b)
    | 12 => decide (b < a)
    | _ => decide (b ≤ a)

end Sys2Proof
end

