-- ==== Sys2Proof/Machine/Float.lean ====
section
/-! DEFINITION. Floating point: formats (R70), exact values, rounding (R75), arithmetic (R77, R78) and conversion
(R79). Every operation computes an exact value, or one cut below its last needed bit with a sticky flag, and rounds
once. -/

namespace Sys2Proof

/-- A float format (R70): mantissa bits, exponent bits, bias, whether it has infinities, and NaN. -/
structure Fmt where
  m : Nat
  e : Nat
  bias : Nat
  inf : Bool
  nan : Bool
  deriving DecidableEq, Repr

def fmtF32 : Fmt := { m := 23, e := 8, bias := 127, inf := true, nan := true }
def fmtF16 : Fmt := { m := 10, e := 5, bias := 15, inf := true, nan := true }
def fmtBf16 : Fmt := { m := 7, e := 8, bias := 127, inf := true, nan := true }
def fmtE5m2 : Fmt := { m := 2, e := 5, bias := 15, inf := true, nan := true }
def fmtE4m3 : Fmt := { m := 3, e := 4, bias := 7, inf := false, nan := true }
def fmtE2m1 : Fmt := { m := 1, e := 2, bias := 1, inf := false, nan := false }

/-- The float format of a type; f32 where the type is no float. -/
def Ty.fmt : Ty → Fmt
  | .f16 => fmtF16
  | .bf16 => fmtBf16
  | .e5m2 => fmtE5m2
  | .e4m3 | .mx8 => fmtE4m3
  | .mx4 => fmtE2m1
  | _ => fmtF32

/-- Position of the sign bit. -/
def Fmt.sign (f : Fmt) : Nat := f.m + f.e
/-- Code of the largest finite magnitude (R70). -/
def Fmt.maxCode (f : Fmt) : Nat :=
  let top := 2 ^ (f.m + f.e)
  if f.inf then top - 2 ^ f.m - 1 else if f.nan then top - 2 else top - 1
/-- The canonical NaN (R72). -/
def Fmt.canon (f : Fmt) : Nat :=
  if f.inf then 2 ^ (f.m + f.e) - 2 ^ (f.m - 1) else 2 ^ (f.m + f.e) - 1
/-- Code of infinity. -/
def Fmt.infCode (f : Fmt) : Nat := 2 ^ (f.m + f.e) - 2 ^ f.m
/-- emin(F) of R75. -/
def Fmt.emin (f : Fmt) : Int := 1 - (f.bias : Int)

/-- Every value of the first float format is a value of the second (R79). -/
def Fmt.within (src dst : Fmt) : Bool :=
  src.m ≤ dst.m && src.bias ≤ dst.bias && src.bias + src.m ≤ dst.bias + dst.m &&
    2 ^ src.e - src.bias ≤ 2 ^ dst.e - dst.bias && (!src.inf || dst.inf) && (!src.nan || dst.nan)

/-- A value: NaN, an infinity, or ±mag · 2^exp; a zero keeps its sign. `sticky` tells that the magnitude lies
strictly between mag and mag + 1 units. -/
inductive FVal where
  | nan
  | inf (neg : Bool)
  | fin (neg : Bool) (mag : Nat) (exp : Int) (sticky : Bool)
  deriving DecidableEq, Repr

/-- The value of a code (R70). -/
def Fmt.decode (f : Fmt) (c : Nat) : FVal :=
  let neg := c >>> f.sign % 2 == 1
  let mag := c % 2 ^ f.sign
  let e := mag >>> f.m
  if f.nan && (if f.inf then f.infCode < mag else mag == 2 ^ f.sign - 1) then .nan
  else if f.inf && mag == f.infCode then .inf neg
  else if e == 0 then .fin neg mag (f.emin - f.m) false
  else .fin neg (2 ^ f.m + mag % 2 ^ f.m) (e - f.bias - f.m : Int) false

/-- A code in which no payload or sign of a NaN is left (R72). -/
def Fmt.noPayload (f : Fmt) (c : Nat) : Nat :=
  match f.decode c with
  | .nan => f.canon
  | _ => c

def signBit (f : Fmt) (neg : Bool) : Nat := if neg then 2 ^ f.sign else 0

/-- floor(x), and floor of the fraction times 2^32 with its exactness, of mag · 2^exp in units of 2^q. -/
def scaled (mag : Nat) (exp : Int) (sticky : Bool) (q : Int) : Nat × Nat × Bool :=
  if q ≤ exp then (mag <<< (exp - q).toNat, 0, !sticky)
  else
    let sh := (q - exp).toNat
    let lo := mag >>> sh
    let rem := (mag - lo <<< sh) <<< 32
    let t := rem >>> sh
    (lo, t, t <<< sh == rem && !sticky)

/-- Whether the magnitude is rounded up (R75): `odd` is the last bit of lo, `t` = floor(f · 2^32). -/
def roundsUp (rnd : Rnd) (neg odd : Bool) (t : Nat) (exact : Bool) (r : Nat) : Bool :=
  let half := 2 ^ 31
  let zero := t == 0 && exact
  match rnd with
  | .rne => half < t || (t == half && (!exact || odd))
  | .rz => false
  | .rp => !zero && !neg
  | .rm => !zero && neg
  | .rna => half ≤ t
  | .rs => r ≤ t

/-- Overflow stays at the largest finite value (R75). -/
def overflowClamps (rnd : Rnd) (sat neg : Bool) : Bool :=
  sat || rnd == .rz || (rnd == .rp && neg) || (rnd == .rm && !neg)

/-- round_to of R75, as a code of the format. -/
def roundTo (f : Fmt) (rnd : Rnd) (sat : Bool) (r : Nat) : FVal → Nat
  | .nan => f.canon
  | .inf neg =>
    if f.inf && !sat then signBit f neg + f.infCode
    else if sat then signBit f neg + f.maxCode
    else f.canon
  | .fin neg mag exp sticky =>
    if mag == 0 then signBit f neg
    else
      let e := max ((mag.log2 : Int) + exp) f.emin
      let (lo, t, exact) := scaled mag exp sticky (e - f.m)
      let m := if roundsUp rnd neg (lo % 2 == 1) t exact r then lo + 1 else lo
      let code := ((e - f.emin).toNat <<< f.m) + m
      if f.maxCode < code then
        if overflowClamps rnd sat neg then signBit f neg + f.maxCode
        else if f.inf then signBit f neg + f.infCode
        else f.canon
      else signBit f neg + code

/-! Exact operations. -/

def FVal.neg : FVal → FVal
  | .nan => .nan
  | .inf n => .inf (!n)
  | .fin n m e s => .fin (!n) m e s

def FVal.abs : FVal → FVal
  | .nan => .nan
  | .inf _ => .inf false
  | .fin _ m e s => .fin false m e s

def FVal.isNan : FVal → Bool
  | .nan => true
  | _ => false

def FVal.isZero : FVal → Bool
  | .fin _ 0 _ _ => true
  | _ => false

def FVal.isNeg : FVal → Bool
  | .nan => false
  | .inf n => n
  | .fin n _ _ _ => n

def sgnMag (neg : Bool) (m : Nat) : Int := if neg then -(m : Int) else m

/-- An exact signed multiple of a power of two. -/
structure Dyadic where
  m : Int
  e : Int
  deriving DecidableEq, Repr

def Dyadic.zero : Dyadic := { m := 0, e := 0 }

def Dyadic.add (a b : Dyadic) : Dyadic :=
  if a.m == 0 then b
  else if b.m == 0 then a
  else
    let e := min a.e b.e
    { m := a.m * (2 ^ (a.e - e).toNat : Nat) + b.m * (2 ^ (b.e - e).toNat : Nat), e := e }

def FVal.dyadic : FVal → Dyadic
  | .fin n m e _ => { m := sgnMag n m, e := e }
  | _ => Dyadic.zero

/-- a < b on finite values. -/
def Dyadic.lt (a b : Dyadic) : Bool := decide ((Dyadic.add a { b with m := -b.m }).m < 0)

/-- The exact sum of addends, with the sign of a zero sum by R77 and infinities by R78. -/
def sumF (rnd : Rnd) (xs : List FVal) : FVal :=
  let pinf := xs.any (· == .inf false)
  let ninf := xs.any (· == .inf true)
  if xs.any FVal.isNan || (pinf && ninf) then .nan
  else if pinf then .inf false
  else if ninf then .inf true
  else
    let s := (xs.map FVal.dyadic).foldl Dyadic.add Dyadic.zero
    if s.m == 0 then
      let neg := if xs.all fun x => x.isZero && x.isNeg then true
                 else if xs.all fun x => x.isZero && !x.isNeg then false
                 else rnd == .rm
      .fin neg 0 0 false
    else .fin (decide (s.m < 0)) s.m.natAbs s.e false

/-- The exact product (R78). -/
def mulF : FVal → FVal → FVal
  | .nan, _ => .nan
  | _, .nan => .nan
  | .inf a, .inf b => .inf (a != b)
  | .inf a, .fin b m _ _ => if m == 0 then .nan else .inf (a != b)
  | .fin a m _ _, .inf b => if m == 0 then .nan else .inf (a != b)
  | .fin a m e _, .fin b n k _ => .fin (a != b) (m * n) (e + k) false

/-- The quotient with at least 64 bits and a sticky flag (R78). -/
def divF : FVal → FVal → FVal
  | .nan, _ => .nan
  | _, .nan => .nan
  | .inf _, .inf _ => .nan
  | .inf a, .fin b _ _ _ => .inf (a != b)
  | .fin a _ _ _, .inf b => .fin (a != b) 0 0 false
  | .fin a m e _, .fin b n k _ =>
    if n == 0 then if m == 0 then .nan else .inf (a != b)
    else if m == 0 then .fin (a != b) 0 0 false
    else
      let sh := 96
      let q := (m <<< sh) / n
      .fin (a != b) q (e - k - sh : Int) (q * n != m <<< sh)

/-- Integer square root by digits, from bit `k` down. -/
def isqrtFrom : Nat → Nat → Nat → Nat
  | 0, _, r => r
  | k + 1, n, r =>
    let c := r + 2 ^ k
    isqrtFrom k n (if c * c ≤ n then c else r)

/-- floor(sqrt n). -/
def isqrt (n : Nat) : Nat := isqrtFrom (n.log2 / 2 + 1) n 0

/-- The square root with at least 64 bits and a sticky flag (R78). -/
def sqrtF : FVal → FVal
  | .nan => .nan
  | .inf n => if n then .nan else .inf false
  | .fin n m e _ =>
    if m == 0 then .fin n 0 0 false
    else if n then .nan
    else
      let sh := 160 + (e % 2).toNat
      let x := m <<< sh
      let r := isqrt x
      .fin false r ((e - sh) / 2) (r * r != x)

/-- An exact integer as a value. -/
def FVal.ofInt (v : Int) : FVal := .fin (decide (v < 0)) v.natAbs 0 false

/-- A value rounded to an integer under RND; infinities give `none` with their sign apart (R79). -/
def roundInt (rnd : Rnd) (r : Nat) (neg : Bool) (mag : Nat) (exp : Int) (sticky : Bool) : Int :=
  let (lo, t, exact) := scaled mag exp sticky 0
  sgnMag neg (if roundsUp rnd neg (lo % 2 == 1) t exact r then lo + 1 else lo)

/-- Float to integer: rounded, then clamped (R79). -/
def floatToInt (w : Nat) (sgn : Bool) (rnd : Rnd) (r : Nat) : FVal → Nat
  | .nan => 0
  | .inf neg => wrapNat w (if neg then tmin w sgn else tmax w sgn)
  | .fin neg mag exp st => intResult w sgn true (roundInt rnd r neg mag exp st)

/-- Integer to float: an overflow never gives NaN (R79). -/
def intToFloat (f : Fmt) (rnd : Rnd) (sat : Bool) (r : Nat) (v : Int) : Nat :=
  let x := FVal.ofInt v
  let wide : Fmt := { f with e := 8, bias := 127, inf := true }
  let m := wide.decode (roundTo wide rnd false r x)
  let big := !f.inf && Dyadic.lt (f.decode f.maxCode).dyadic m.abs.dyadic
  if big then signBit f (decide (v < 0)) + f.maxCode
  else if f.inf && !sat && (f.decode f.maxCode).dyadic.lt m.abs.dyadic then
    signBit f (decide (v < 0)) + f.infCode
  else roundTo f rnd sat r x

/-- A bit pattern's value in its type, for float types. -/
def Ty.dec (t : Ty) (c : Nat) : FVal := t.fmt.decode c

/-- Exponent of the magnitude of a non-zero finite value: floor(log2 |x|). -/
def FVal.log2 : FVal → Int
  | .fin _ m e _ => (m.log2 : Int) + e
  | _ => 0

/-- Multiplies a value by 2^k exactly. -/
def FVal.scale (k : Int) : FVal → FVal
  | .fin n m e s => .fin n m (e + k) s
  | x => x

/-- IEEE comparison: `none` when unordered. -/
def FVal.cmp : FVal → FVal → Option Ordering
  | .nan, _ => none
  | _, .nan => none
  | .inf a, .inf b => some (if a == b then .eq else if a then .lt else .gt)
  | .inf a, .fin _ _ _ _ => some (if a then .lt else .gt)
  | .fin _ _ _ _, .inf b => some (if b then .gt else .lt)
  | .fin a m e _, .fin b n k _ =>
    let d := (Dyadic.add { m := sgnMag a m, e := e } { m := -sgnMag b n, e := k }).m
    some (if d < 0 then .lt else if d = 0 then .eq else .gt)

end Sys2Proof
end

