-- ==== Sys2Proof/Machine/Mx.lean ====
section
/-! DEFINITION. Microscaled blocks (R73, R80, R81), the stochastic generators (R76) and the order of summation in
vectors and cells (R83, R85). -/

namespace Sys2Proof

/-- Element format and emax of an MX type (R73). -/
def Ty.emax : Ty → Int
  | .mx4 => 2
  | _ => 8

/-- The larger magnitude. -/
def maxMag (a b : FVal) : FVal := if (a.abs.cmp b.abs) == some .lt then b else a

/-- mx_quantise of R80: scale byte and element codes. -/
def mxQuantise (t : Ty) (xs : List FVal) : Nat × List Nat :=
  let bad := xs.any fun x => match x with | .fin _ _ _ _ => false | _ => true
  if bad then (0xFF, xs.map fun _ => 0)
  else
    let a := xs.foldl maxMag (.fin false 0 0 false)
    if a.isZero then (0x7F, xs.map fun x => signBit t.fmt x.isNeg)
    else
      let s := max (a.log2 - t.emax) (-127)
      ((s + 127).toNat, xs.map fun x => roundTo t.fmt .rne true 0 (x.scale (-s)))

/-- mx_dequantise of R81 before rounding to the destination. -/
def mxDequantise (t : Ty) (scale elem : Nat) : FVal :=
  if scale == 0xFF then .nan else (t.fmt.decode elem).scale ((scale : Int) - 127)

/-! ## Stochastic generators (R76) -/

/-- One step of a generator. -/
def lfsrStep (g : BitVec 32) : BitVec 32 :=
  if g.getLsbD 0 then (g >>> 1) ^^^ 0x80200003#32 else g >>> 1

/-- Multiplication by x in the field whose multiplication by 1/x is `lfsrStep`. -/
def lfsrBack (g : BitVec 32) : BitVec 32 :=
  if g.getLsbD 31 then (g <<< 1) ^^^ 0x00400007#32 else g <<< 1

/-- Product in that field, from bit `k` of `b` down. -/
def lfsrMulFrom : Nat → BitVec 32 → BitVec 32 → BitVec 32 → BitVec 32
  | 0, _, _, acc => acc
  | k + 1, a, b, acc =>
    let d := lfsrBack acc
    lfsrMulFrom k a b (if b.getLsbD k then d ^^^ a else d)

def lfsrMul (a b : BitVec 32) : BitVec 32 := lfsrMulFrom 32 a b 0

/-- Squares `n` times. -/
def lfsrSquares : Nat → BitVec 32 → BitVec 32
  | 0, a => a
  | n + 1, a => lfsrSquares n (lfsrMul a a)

/-- The element whose product is 2^24 steps. -/
def lfsrJump : BitVec 32 := lfsrSquares 24 (lfsrStep 1)

/-- G[k] from G[0]: k · 2^24 steps (R76). -/
def lfsrAt (g : BitVec 32) : Nat → BitVec 32
  | 0 => g
  | k + 1 => lfsrMul (lfsrAt g k) lfsrJump

/-- G[0] to G[63]. -/
def lfsrAll (g : BitVec 32) : List (BitVec 32) :=
  ((upto 63).foldl (fun (acc : BitVec 32 × List (BitVec 32)) _ =>
    let n := lfsrMul acc.1 lfsrJump
    (n, n :: acc.2)) (g, [g])).2.reverse

/-- The draw for lane `j` of width `w`: rotl32(G[i], w · n) (R76). -/
def lfsrDraw (gs : List (BitVec 32)) (w j : Nat) : Nat :=
  let per := 32 / w
  ((gs.getD (j / per) 1).rotateLeft (w * (j % per))).toNat

/-! ## Minimum and maximum (R85, R269, R277) -/

/-- The smaller of two codes of a float format: −0 below +0, NaN canonical. -/
def fminCode (f : Fmt) (a b : Nat) : Nat :=
  let x := f.decode a
  let y := f.decode b
  match x.cmp y with
  | none => f.canon
  | some .lt => a
  | some .gt => b
  | some .eq => if x.isNeg then a else b

/-- The larger. -/
def fmaxCode (f : Fmt) (a b : Nat) : Nat :=
  let x := f.decode a
  let y := f.decode b
  match x.cmp y with
  | none => f.canon
  | some .lt => b
  | some .gt => a
  | some .eq => if x.isNeg then b else a

/-- One rounded addition of codes. -/
def faddCode (f : Fmt) (rnd : Rnd) (sat : Bool) (r a b : Nat) : Nat :=
  roundTo f rnd sat r (sumF rnd [f.decode a, f.decode b])

/-! ## VRED (R85) -/

/-- One level of the pairwise tree. -/
def redPairs {α : Type} (add : α → α → α) : List (Option α) → List (Option α)
  | a :: b :: rest =>
    (match a, b with
     | none, y => y
     | x, none => x
     | some x, some y => some (add x y)) :: redPairs add rest
  | l => l

/-- The tree over 2^k leaves. -/
def redTree {α : Type} (add : α → α → α) : Nat → List (Option α) → Option α
  | 0, l => l.headD none
  | k + 1, l => redTree add k (redPairs add l)

end Sys2Proof
end

