-- ==== Sys2Proof/Config.lean ====
section
/-! DEFINITION. What the manual leaves open: free values (opaque, no body) and figures fixed for the part. -/

namespace Sys2Proof.Config

/-- Ticks that pass before a step the agenda does not time (log entry 1). -/
opaque freeTicks : Nat → Nat

/-- A 64-bit value the manual leaves undefined (R11); the argument is the state's counter (log entry 2). -/
opaque freeWord : Nat → BitVec 64

/-- A vector register whose lanes the manual leaves undefined (R11, R47). -/
opaque freeVector : Nat → BitVec 2048

/-- A choice among `n` alternatives where no rule picks one (log entry 2). -/
opaque freeChoice : Nat → Nat

/-- A function that never falls: no rule says which (R82). -/
inductive Rising where
  | same
  | by (f : Nat → Nat) (mono : ∀ a b, a ≤ b → f a ≤ f b)
  deriving Inhabited

def Rising.at : Rising → Nat → Nat
  | .same, n => n
  | .by f _, n => f n

/-- VRCP on either side of 0, VRSQ, VEXP2, and VLOG2 below and above 1, between their exact cases and before the bounds of
R82 are applied (log entry 3); the argument rises with the magnitude of the result. -/
opaque rcpNegFree : Rising
opaque rcpPosFree : Rising
opaque rsqFree : Rising
opaque exp2Free : Rising
opaque log2BelowFree : Rising
opaque log2AboveFree : Rising

/-- The sign of a VLOG2 result that is zero though the input is not 1 (log entry 3). -/
opaque log2ZeroSign : BitVec 32 → Bool

/-- A way to name objects: no two alike, none null, each a 64-bit value (R37). -/
inductive Naming where
  | inOrder
  | by (f : Nat → Nat) (inj : ∀ a b, f a = f b → a = b) (null : ∀ a, f a = 0 → a = 0)
      (fits : ∀ a, a < 2 ^ 64 → f a < 2 ^ 64)
  deriving Inhabited

def Naming.at : Naming → Nat → Nat
  | .inOrder, n => n
  | .by f _ _ _, n => f n

/-- The values of handles, in the order in which the objects come to be: no rule says which, so arithmetic on them says
nothing (R11, R37; log entry 2). -/
opaque handles : Naming
def handle (n : Nat) : Nat := handles.at n

/-- What a connection that is open and also shorted samples (R431). -/
opaque busSample : Nat → Bool

/-- Version and contents of the device-private images of a save area (R408; log entry 88): byte `i` of the image that is the
`n`-th free value drawn. -/
opaque imageVersion : BitVec 64
opaque imageByte : Nat → Nat → BitVec 8

/-- Svaholt's PCI vendor identifier, silicon stepping (R414): no value in the manual. -/
opaque vendorId : BitVec 16
opaque stepping : BitVec 16

end Sys2Proof.Config
end

