-- ==== Sys2Proof/Machine/Ops.lean ====
section
/-! DEFINITION. Named operations over the state: where a reel or strand stands, registers with their liveness, poison
and banks, and taking a fault (R386) with the return from one (R227). -/

namespace Sys2Proof.Machine

/-! ## Places -/

def reelOf (field block : Nat) : Nat := 121 * field + block
def fieldOfReel (r : Nat) : Nat := r / 121
def blockOfReel (r : Nat) : Nat := r % 121
def fieldX (f : Nat) : Nat := f % 7
def fieldY (f : Nat) : Nat := f / 7
/-- 42 fields of 121 reels (R1). -/
def reelCount : Nat := 5082

/-- The reel of a logical block of a partition (R19, R20). -/
def Partition.reel (p : Partition) (bx by_ : Nat) : Nat :=
  reelOf (7 * (p.fy + by_ / 11) + p.fx + bx / 11) (11 * (by_ % 11) + bx % 11)

def Partition.hasField (p : Partition) (f : Nat) : Bool :=
  p.fx ≤ fieldX f && fieldX f < p.fx + p.w && p.fy ≤ fieldY f && fieldY f < p.fy + p.h

def Partition.hasReel (p : Partition) (r : Nat) : Bool := p.hasField (fieldOfReel r)

/-- Logical block of a reel of the partition (R19). -/
def Partition.bx (p : Partition) (r : Nat) : Nat := 11 * (fieldX (fieldOfReel r) - p.fx) + blockOfReel r % 11
def Partition.by_ (p : Partition) (r : Nat) : Nat := 11 * (fieldY (fieldOfReel r) - p.fy) + blockOfReel r / 11

/-- Every field of a partition. -/
def Partition.fields (p : Partition) : List Nat := (upto 42).filter p.hasField

def Partition.reels (p : Partition) : List Nat := p.fields.flatMap fun f => (upto 121).map (reelOf f)

/-- Number of a reel's block in its partition, row-major. -/
def Partition.index (p : Partition) (n : Nat) : Nat := 11 * p.w * p.by_ n + p.bx n

/-- The reel of a block number. -/
def Partition.ofIndex (p : Partition) (i : Nat) : Nat := p.reel (i % (11 * p.w)) (i / (11 * p.w))

/-! ## Reels and slots -/

def State.reel (s : State) (r : Nat) : Reel := s.reels.get Reel.reset r
def State.setReel (s : State) (r : Nat) (x : Reel) : State := { s with reels := s.reels.put Reel.reset r x }
def State.modReel (s : State) (r : Nat) (f : Reel → Reel) : State := s.setReel r (f (s.reel r))

def Reel.slot (x : Reel) (k : Nat) : Slot := x.slots.get Slot.reset k
def Reel.setSlot (x : Reel) (k : Nat) (t : Slot) : Reel := { x with slots := x.slots.put Slot.reset k t }

def State.slot (s : State) (r : StrandRef) : Slot := (s.reel r.reel).slot r.slot
def State.setSlot (s : State) (r : StrandRef) (t : Slot) : State := s.modReel r.reel fun x => x.setSlot r.slot t
def State.modSlot (s : State) (r : StrandRef) (f : Slot → Slot) : State := s.setSlot r (f (s.slot r))

/-- The strand that issues. -/
def State.me (s : State) : Slot := s.slot s.cur
def State.modMe (s : State) (f : Slot → Slot) : State := s.modSlot s.cur f
/-- The reel's cycle number. -/
def State.now (s : State) : Nat := (s.reel s.cur.reel).cycle

def State.ctx (s : State) (c : Nat) : Context := s.ctxs.get Context.reset c
def State.setCtx (s : State) (c : Nat) (x : Context) : State := { s with ctxs := s.ctxs.put Context.reset c x }
def State.modCtx (s : State) (c : Nat) (f : Context → Context) : State := s.setCtx c (f (s.ctx c))

def State.field (s : State) (f : Nat) : Field := s.fields.get Field.reset f
def State.setField (s : State) (f : Nat) (x : Field) : State := { s with fields := s.fields.put Field.reset f x }
def State.modField (s : State) (f : Nat) (g : Field → Field) : State := s.setField f (g (s.field f))

/-- The partition a handle names in a context (R37). -/
def State.part? (s : State) (ctx handle : Nat) : Option Partition :=
  s.parts.find? fun p => p.handle == handle && p.ctx == ctx
def State.modPart (s : State) (handle : Nat) (f : Partition → Partition) : State :=
  { s with parts := listMod (fun p => p.handle == handle) f s.parts }
/-- The granted, not suspended partition whose fields hold a reel. -/
def State.partOfReel? (s : State) (r : Nat) : Option Partition :=
  s.parts.find? fun p => p.hasReel r && !p.suspended

/-- The suspended partition whose fields still hold a reel's state (R406). -/
def State.suspendedOver (s : State) (n : Nat) : Option Partition :=
  s.parts.find? fun p => p.suspended && !p.evicted && p.hasReel n

/-- A claimant may use the reel: no victim's state is left on it (R407). -/
def State.reelFree (s : State) (n : Nat) : Bool :=
  match s.suspendedOver n with
  | none => true
  | some p => p.claimed.contains (.reel n)

/-- The slot a strand handle names in a context (R37). -/
def State.strand? (s : State) (ctx handle : Nat) : Option StrandRef :=
  if handle == 0 then none
  else s.reels.findSome? fun rx => rx.2.slots.findSome? fun kt =>
    if kt.2.handle == handle && kt.2.ctx == ctx && kt.2.phase != .free then some { reel := rx.1, slot := kt.1 }
    else none

/-- The slot that holds the strand with a handle: the one it was in, or wherever it has been placed since (R410). -/
def State.slotOf? (s : State) (reel slot handle : Nat) : Option StrandRef :=
  let r : StrandRef := { reel := reel, slot := slot }
  if (s.slot r).phase != .free && (s.slot r).handle == handle then some r
  else s.reels.findSome? fun rx => rx.2.slots.findSome? fun kt =>
    if kt.2.handle == handle && kt.2.phase != .free then some { reel := rx.1, slot := kt.1 } else none

/-- Where a strand whose reel is scanned out is kept: partition, block number, slot (R407, R409). -/
def State.savedAt? (s : State) (handle : Nat) : Option (Partition × Nat × Nat) :=
  if handle == 0 then none
  else s.parts.findSome? fun p => p.saved.findSome? fun ix => ix.2.slots.findSome? fun kt =>
    if kt.2.handle == handle && kt.2.phase != .free then some (p, ix.1, kt.1) else none

def Reel.cmds (x : Reel) : List Cmd := x.feedQ ++ x.kvQ ++ x.drainQ ++ x.copyQ ++ x.ctlQ

/-- Every command of the device that has not ended, oldest of each queue first. -/
def State.cmds (s : State) : List Cmd :=
  (s.reels.flatMap fun rx => rx.2.cmds) ++ (s.parts.flatMap fun p => p.saved.flatMap fun ix => ix.2.cmds) ++
  (s.parts.flatMap fun p => p.cfgQ) ++ s.kites.flatMap fun k => k.swap.toList

/-- A status word: CODE and PROG (R225, R292). -/
def statusWord (code prog : Nat) : Word := word ((code % 65536) <<< 48 + prog % 2 ^ 48)

/-- A new number, never used before: requests, commands. -/
def State.fresh (s : State) : Nat × State := (s.nextId, { s with nextId := s.nextId + 1 })

/-- A new handle (R37). -/
def State.freshHandle (s : State) : Nat × State := (Config.handle s.nextId, { s with nextId := s.nextId + 1 })

/-- A free 64-bit value (log entry 2). -/
def State.drawWord (s : State) : Word × State := (Config.freeWord s.draws, { s with draws := s.draws + 1 })
def State.drawVector (s : State) : VWord × State := (Config.freeVector s.draws, { s with draws := s.draws + 1 })
/-- A free choice among `n` (log entry 2). -/
def State.drawChoice (s : State) (n : Nat) : Nat × State :=
  (Config.freeChoice s.draws % n, { s with draws := s.draws + 1 })

/-! ## Scalars, predicates, masks (R43, R395) -/

def SReg.code (x : SReg) : Option Code := if x.psn then some (x.val.extractLsb' 0 32) else none
def SReg.clean (v : Word) : SReg := { val := v, psn := false }
/-- A poisoned register holds the code in bits 31:0 (R395). -/
def SReg.poison (c : Code) : SReg := { val := c.zeroExtend 64, psn := true }
/-- A value, or the first code among its sources (R396). -/
def SReg.of (codes : List (Option Code)) (v : Word) : SReg :=
  match codes.findSome? id with
  | some c => SReg.poison c
  | none => SReg.clean v

/-- s0 reads as zero (R43). -/
def Slot.getS (t : Slot) (n : Nat) : SReg := if n = 0 then SReg.zero else t.s.get SReg.zero n
/-- Writes to s0 are discarded (R43). -/
def Slot.setS (t : Slot) (n : Nat) (x : SReg) : Slot := if n = 0 then t else { t with s := t.s.put SReg.zero n x }
/-- p0 reads as true (R43). -/
def Slot.getP (t : Slot) (n : Nat) : PReg := if n = 0 then { val := true, code := none } else t.p.get PReg.zero n
def Slot.setP (t : Slot) (n : Nat) (x : PReg) : Slot := if n = 0 then t else { t with p := t.p.put PReg.zero n x }
/-- m0 reads as all ones (R43). -/
def Slot.getM (t : Slot) (n : Nat) : SReg := if n = 0 then SReg.clean (BitVec.allOnes 64) else t.m.get SReg.zero n
def Slot.setM (t : Slot) (n : Nat) (x : SReg) : Slot := if n = 0 then t else { t with m := t.m.put SReg.zero n x }

/-- An answer reaches the register that waits for it; a register that no longer does keeps its value (R45, R46). -/
def Slot.answered (t : Slot) (dst id : Nat) (x : SReg) : Slot :=
  let u := if t.pend.any (·.2 == id) then t.setS dst x else t
  { u with pend := t.pend.filter (·.2 != id) }

/-! ## Banks (R53, R54) -/

/-- D_off and D_ret as the strand's delays give them (R63). -/
def delayOff (d : BitVec 16) : Nat := if d == 0 then 1 else d.toNat

def Slot.bank (t : Slot) (b : Nat) : Bank := t.banks.get Bank.reset b
def Slot.setBank (t : Slot) (b : Nat) (x : Bank) : Slot := { t with banks := t.banks.put Bank.reset b x }
def Slot.isLive (t : Slot) (n : Nat) : Bool := t.live.getLsbD n
def Slot.bankLive (t : Slot) (b : Nat) : Bool := t.live.extractLsb' (4 * b) 4 != 0

/-- A read or write of a register touches its bank (R54). -/
def Slot.touch (c : Nat) (t : Slot) (n : Nat) : Slot := t.setBank (n / 4) { t.bank (n / 4) with touch := c }

/-- A register becomes live, which cancels its bank's move to OFF (R49, R54). -/
def Slot.revive (t : Slot) (n : Nat) : Slot :=
  { t.setBank (n / 4) { t.bank (n / 4) with dead := none } with live := setBit t.live n true }

/-- A register becomes dead; the last one of a bank starts its way to OFF (R49, R54). -/
def Slot.kill (c : Nat) (t : Slot) (n : Nat) : Slot :=
  if t.isLive n then
    let t := { t with live := setBit t.live n false, v := t.v.del n, reuse := if t.reuse == some n then none else t.reuse }
    if t.bankLive (n / 4) then t else t.setBank (n / 4) { t.bank (n / 4) with dead := some c }
  else t

def Slot.killAll (c : Nat) (t : Slot) : Slot := (upto 64).foldl (Slot.kill c) t

/-! ## Vector registers (R44, R49) -/

/-- Contents; a dead register reads as zero where only lanes that are not written are taken from it (R44). -/
def Slot.getV (t : Slot) (n : Nat) : VReg := t.v.get VReg.zero n

/-- A write: live, touched, and the reuse buffer's copy dropped (R49, R54, R62). -/
def Slot.setV (c : Nat) (t : Slot) (n : Nat) (x : VReg) : Slot :=
  let t := (t.revive n).touch c n
  { t with v := t.v.put VReg.zero n x, reuse := if t.reuse == some n then none else t.reuse }

/-- The code that a poisoned granule holds (R395). -/
def VReg.code (x : VReg) (g : Nat) : Option Code :=
  if x.psn.getLsbD g then some (x.val.extractLsb' (32 * g) 32) else none

/-- Sets a granule's data, or its poison (R395). -/
def VReg.setGranule (x : VReg) (g : Nat) (d : BitVec 32) (p : Bool) : VReg :=
  { val := (x.val &&& ~~~(0xFFFFFFFF#2048 <<< (32 * g))) ||| (d.zeroExtend 2048 <<< (32 * g))
    psn := setBit x.psn g p }

/-- The first code of a register's granules, lowest first. -/
def VReg.firstCode (x : VReg) : Option Code := (upto 64).findSome? x.code

/-! ## Bank wakes (R54, R55) -/

/-- The end of cycle `t + n` has just come, before cycle `c`; or it is past, and the delay came in with the last cycle. -/
def Delays.reached (d : Delays) (c t n : Nat) : Bool := t + n + 1 == c || (d.new && t + n < c)

/-- What a bank has become by the start of cycle `c`, by the delays of the cycle before (R54, R229). Of a bank whose last content
dies during a wake, R55 says that the wake leaves it FULL and no rule says whether it goes OFF where D_off has run out by then:
it stays FULL until it is used again (DESIGN CHOICE, log entry 117). -/
def Bank.due (d : Delays) (c : Nat) (live : Bool) (b : Bank) : Bank :=
  match b.wake with
  | some w => if w ≤ c then { b with supply := .full, wake := none, by_ := none } else b
  | none =>
    if b.supply != .off && !live && (match b.dead with | some k => d.reached c k (delayOff d.off) | none => d.new) then
      { b with supply := .off }
    else if b.supply == .full && live && d.ret != 0 && d.reached c b.touch d.ret.toNat then { b with supply := .retain }
    else b

/-- Delays of the cycle that begins: what the register holds (R229). -/
def Delays.next (off ret : BitVec 16) (d : Delays) : Delays := { off := off, ret := ret, wrote := false, new := d.wrote }

/-- Latency of a wake (R53). -/
def Supply.latency : Supply → Nat
  | .full => 0
  | .retain => 6
  | .off => 20

/-- A slot's banks and delays at the start of cycle `c`. -/
def Slot.settle (c : Nat) (t : Slot) : Slot :=
  let u := (t.banks.keys).foldl (fun u b => u.setBank b ((t.bank b).due t.dly c (t.bankLive b))) t
  { u with dly := t.dly.next t.bkOff t.bkRet }

/-- Cycles that wakes starting in cycle `c` add to those already running for the same access: common ones count once (R55). -/
def wakeCycles (c : Nat) (who : Waker) (banks : List Bank) : Nat :=
  let running := (banks.filter (·.by_ == some who)).foldl (fun a k => max a (k.wake.getD c)) c
  let starting := (banks.filter (·.wake.isNone)).foldl (fun a k => max a (c + k.supply.latency)) c
  starting - running

/-- A wake of a bank that an access starts in cycle `c`. -/
def Bank.rouse (c : Nat) (who : Waker) (k : Bank) : Bank := { k with wake := some (c + k.supply.latency), by_ := some who }

/-- Starts the wakes of the banks that are not FULL, counting them (R55); a wake is no touch (R54). The cycles of a wake are
added as it starts: R55 and R63 give its number alone (DESIGN CHOICE, log entry 118). -/
def Slot.wakeBanks (c : Nat) (who : Waker) (t : Slot) (bs : List Nat) : Slot :=
  let need := bs.eraseDups.filter fun b => (t.bank b).supply != .full && (t.bank b).wake.isNone
  let held := wakeCycles c who (bs.map t.bank)
  let t := need.foldl (fun t b =>
    let k := t.bank b
    { t.setBank b (k.rouse c who) with
      bkwr := if k.supply == .retain then t.bkwr + 1 else t.bkwr
      bkwo := if k.supply == .off then t.bkwo + 1 else t.bkwo }) t
  { t with bkwc := t.bkwc + word held }

/-- The strand has exited, or would have: its vector registers are dead and stay so (R30, R49). -/
def Slot.exited (t : Slot) : Bool := t.phase == .draining || (t.phase == .suspended && t.wasState == 5)

/-- A write that no issuing instruction makes, of a load's or an engine's data: a bank that is not FULL wakes, and the
register may be read once it has (R54, R55). -/
def Slot.arriveV (c : Nat) (t : Slot) (n : Nat) (x : VReg) : Slot :=
  if t.exited then t
  else
    let b := t.bank (n / 4)
    let lat := match b.wake with
      | some w => w - c
      | none => b.supply.latency
    if lat == 0 then t.setV c n x
    else
      let u := (t.setBank (n / 4) { b with wake := some (c + lat) }).setV (c + lat) n x
      { u with readyAt := (.v n, c + lat) :: u.readyAt }

/-! ## The local store (R56, R57) -/

def lsSize : Nat := 0x80000

def Reel.lsBank (x : Reel) (b : Nat) : Bank := x.lsBanks.get Bank.reset b
def Reel.setLsBank (x : Reel) (b : Nat) (k : Bank) : Reel := { x with lsBanks := x.lsBanks.put Bank.reset b k }
def Reel.lsBankLive (x : Reel) (b : Nat) : Bool := x.lsLive.extractLsb' (16 * b) 16 != 0
def Reel.slabLive (x : Reel) (n : Nat) : Bool := x.lsLive.getLsbD n

/-- Slabs of a byte range. -/
def slabsOf (off n : Nat) : List Nat :=
  if n == 0 then [] else (upto ((off + n - 1) / 1024 - off / 1024 + 1)).map (· + off / 1024)

def lsBanksOf (off n : Nat) : List Nat :=
  if n == 0 then [] else (upto ((off + n - 1) / 16384 - off / 16384 + 1)).map (· + off / 16384)

/-- A range in which no byte lies in a dead slab (R57). -/
def Reel.lsReadable (x : Reel) (off n : Nat) : Bool := (slabsOf off n).all x.slabLive

def Reel.lsTouch (x : Reel) (off n : Nat) : Reel :=
  (lsBanksOf off n).foldl (fun x b => x.setLsBank b { x.lsBank b with touch := x.cycle }) x

/-- Bytes of the store, and the code of each byte's granule where it is poisoned. -/
def Reel.lsBytes (x : Reel) (off n : Nat) : List Byte := (upto n).map fun i => x.ls.get 0 (off + i)
def Reel.lsCode (x : Reel) (g : Nat) : Option Code :=
  if x.lsPsn.get false g then some (BitVec.ofNat 32 (natOfBytes (x.lsBytes (4 * g) 4))) else none

/-- Makes a slab live (R57). -/
def Reel.reviveSlab (x : Reel) (n : Nat) : Reel :=
  { x.setLsBank (n / 16) { x.lsBank (n / 16) with dead := none } with lsLive := setBit x.lsLive n true }

/-- A slab dies: its contents are gone, and its bank may go OFF (R54, R57). -/
def Reel.killSlab (x : Reel) (n : Nat) : Reel :=
  if x.slabLive n then
    let x := { x with lsLive := setBit x.lsLive n false, ls := x.ls.clear (1024 * n) 1024,
                      lsPsn := x.lsPsn.clear (256 * n) 256 }
    if x.lsBankLive (n / 16) then x
    else x.setLsBank (n / 16) { x.lsBank (n / 16) with dead := some x.cycle }
  else x

/-- Starts the wakes that an access to the store needs, counting them (R55). The cycles of a wake are added as it starts, so that
a strand that reads LSWC meanwhile finds them all (DESIGN CHOICE, log entry 118). -/
def Reel.wakeLs (who : Waker) (x : Reel) (off n : Nat) : Reel :=
  let need := (lsBanksOf off n).filter fun b => (x.lsBank b).supply != .full && (x.lsBank b).wake.isNone
  let held := wakeCycles x.cycle who ((lsBanksOf off n).map x.lsBank)
  let x := need.foldl (fun x b =>
    let k := x.lsBank b
    { x.setLsBank b (k.rouse x.cycle who) with
      lswr := if k.supply == .retain then x.lswr + 1 else x.lswr
      lswo := if k.supply == .off then x.lswo + 1 else x.lswo }) x
  { x with lswc := x.lswc + word held }

/-- Starts wakes of a strand's banks; its field's totals count them too, for as long as the device runs (R459, R462). -/
def State.wakeVec (s : State) (r : StrandRef) (who : Waker) (bs : List Nat) : State :=
  let t := s.slot r
  let u := t.wakeBanks (s.reel r.reel).cycle who bs
  (s.modSlot r fun _ => u).modField (fieldOfReel r.reel) fun f =>
    { f with bkwr := f.bkwr + (u.bkwr - t.bkwr).toNat, bkwo := f.bkwo + (u.bkwo - t.bkwo).toNat
             bkwc := f.bkwc + (u.bkwc - t.bkwc).toNat }

/-- Starts wakes of a reel's local store, counted in its field's totals too. -/
def State.wakeStore (s : State) (n : Nat) (who : Waker) (off len : Nat) : State :=
  let x := s.reel n
  let y := x.wakeLs who off len
  (s.setReel n y).modField (fieldOfReel n) fun f =>
    { f with lswr := f.lswr + (y.lswr - x.lswr).toNat, lswo := f.lswo + (y.lswo - x.lswo).toNat
             lswc := f.lswc + (y.lswc - x.lswc).toNat }

/-- The store's banks and delays at the start of the reel's cycle (R54, R229). -/
def Reel.settleLs (x : Reel) : Reel :=
  let y := x.lsBanks.keys.foldl (fun (y : Reel) b => y.setLsBank b ((x.lsBank b).due x.lsDly x.cycle (x.lsBankLive b))) x
  { y with lsDly := x.lsDly.next x.lsOff x.lsRet }

/-! A store of bytes with poison by granule. A clean write of a whole granule clears its poison, a poisoned one sets
it, and a partial write of a poisoned granule is not kept (R395). -/

/-- What a granule becomes: `old` its bytes and poison, `i` the first byte written, `bs` the bytes, `c` their code. -/
def mergeGranule (old : List Byte) (oldPsn : Bool) (i : Nat) (bs : List Byte) (c : Option Code) : List Byte × Bool :=
  match c with
  | some c => (bytesOf c 4, true)
  | none =>
    if oldPsn && bs.length < 4 then (old, true)
    else ((upto 4).map fun k => if i ≤ k && k < i + bs.length then bs.getD (k - i) 0 else old.getD k 0, false)

/-- Writes `bs` at `off` through granules; `code` gives the poison of the data for each granule of the destination. -/
def putBytes (code : Nat → Option Code) : Nat → SMap Byte → SMap Bool → Nat → List Byte → SMap Byte × SMap Bool
  | 0, m, p, _, _ => (m, p)
  | fuel + 1, m, p, off, bs =>
    if bs.isEmpty then (m, p)
    else
      let g := off / 4
      let i := off % 4
      let n := min bs.length (4 - i)
      let old := (upto 4).map fun k => m.get 0 (4 * g + k)
      let (new, q) := mergeGranule old (p.get false g) i (bs.take n) (code g)
      putBytes code fuel ((upto 4).foldl (fun m k => m.put 0 (4 * g + k) (new.getD k 0)) m) (p.put false g q)
        (off + n) (bs.drop n)

/-- A write of the local store: every slab written becomes live (R57). -/
def Reel.lsWrite (x : Reel) (off : Nat) (bs : List Byte) (code : Nat → Option Code) : Reel :=
  let x := (slabsOf off bs.length).foldl Reel.reviveSlab x
  let (ls, psn) := putBytes code (bs.length + 1) x.ls x.lsPsn off bs
  { x with ls := ls, lsPsn := psn }.lsTouch off bs.length

/-! ## The physical space (R132) -/

def dramTop : Nat := 0x13800000000
def fsBase : Nat := 0x8000000000000
def hostBase : Nat := 0xC000000000000
def hostTop : Nat := 0x10000000000000

inductive MemKind where
  | dram | fs | host
  deriving DecidableEq, Repr

def State.hostPort (s : State) (p : Nat) : HostPort := s.hostPorts.get HostPort.reset p
def State.modHostPort (s : State) (p : Nat) (f : HostPort → HostPort) : State :=
  { s with hostPorts := s.hostPorts.put HostPort.reset p (f (s.hostPort p)) }

/-- The port carries CXL.mem and CXL.cache: it is up, and not trained down to 32 GT/s (R371). -/
def HostPort.serves (h : HostPort) : Bool := h.up && 64 ≤ h.rate

/-- The window of a table that covers a host address: the lowest-numbered enabled one (R373). -/
def windowIn (ws : SMap HostWindow) (h : Nat) : Option HostWindow :=
  ws.findSome? fun w =>
    if w.2.size != 0 && w.2.ports != 0 && w.2.base.toNat ≤ h && h < w.2.base.toNat + w.2.size.toNat then some w.2
    else none

/-- The host window that covers a host address (R373). -/
def State.hostWindow? (s : State) (h : Nat) : Option HostWindow := windowIn s.hostWins h

/-- The port of a window that serves a host address; traffic of one that does not serve moves to the next (R373, R399). -/
def State.windowPort (s : State) (h : Nat) (w : HostWindow) : Nat :=
  let ps := (upto 4).filter fun p => w.ports.getLsbD p
  let k := h / 4096 % ps.length
  ((ps.drop k ++ ps.take k).find? fun p => (s.hostPort p).serves).getD (ps.getD k 0)

/-- The port that serves a host address. -/
def State.hostPort? (s : State) (h : Nat) : Option Nat := (s.hostWindow? h).map (s.windowPort h)

/-- Mappable field-store ranges of 128 MiB (R134). -/
def Field.fsRanges (f : Field) : Nat := 16 - popCount f.busesGone - f.slice

/-- The bus that serves a dense range of a field's store: the remaining buses in ascending order (R134, R431). -/
def Field.busOf (f : Field) (range : Nat) : Option Nat := ((upto 16).filter fun b => !f.busesGone.getLsbD b)[range]?

/-- The memory a physical address lies in (R132, R134, R373). -/
def State.memKind? (s : State) (pa : Nat) : Option MemKind :=
  if pa < dramTop then some .dram
  else if fsBase ≤ pa && pa < fsBase + 42 * 0x80000000 then
    let o := pa - fsBase
    if o % 0x80000000 / 0x8000000 < (s.field (o / 0x80000000)).fsRanges then some .fs else none
  else if hostBase ≤ pa && pa < hostTop then (s.hostPort? (pa - hostBase)).map fun _ => .host
  else none

/-- Stack and byte offset of a DRAM address (R133). -/
def homeOfDram (pa : Nat) : Nat × Nat :=
  let p := pa / 65536
  let q := p / 26
  let h := ((q % 64) ^^^ (q / 64 % 64) ^^^ (q / 4096 % 64) ^^^ (q / 262144 % 4)) % 26
  ((p % 26 + h) % 26, q * 65536 + pa % 65536)

/-- The field that carries a stack (R133). -/
def stackField (n : Nat) : Nat :=
  if n ≤ 6 then n
  else if n ≤ 12 then 7 * (n - 7) + 6
  else if n ≤ 19 then 35 + (19 - n)
  else 7 * (25 - n)

/-- Host-interface fields of the four ports (R373). -/
def portField (p : Nat) : Nat :=
  match p with
  | 0 => 2
  | 1 => 4
  | 2 => 37
  | _ => 39

/-- An access to host memory waits: no port of its window serves it (R399). -/
def State.hostDown (s : State) (pa : Nat) : Bool :=
  hostBase ≤ pa && (s.hostPort? (pa - hostBase)).any fun p => !(s.hostPort p).serves

/-- The bus that serves an address of the field store is in test mode and carries no traffic of it (R429). -/
def State.busTesting (s : State) (pa : Nat) : Bool :=
  let f := s.field ((pa - fsBase) / 0x80000000)
  fsBase ≤ pa && pa < fsBase + 42 * 0x80000000 && f.vbtsel.getLsbD 8 &&
    f.busOf ((pa - fsBase) % 0x80000000 / 0x8000000) == some (bitsOf f.vbtsel 0 4)

/-- The field that is an address's home (R132). -/
def State.homeField (s : State) (pa : Nat) : Nat :=
  match s.memKind? pa with
  | some .dram => stackField (homeOfDram pa).1
  | some .fs => (pa - fsBase) / 0x80000000
  | _ => portField ((s.hostPort? (pa - hostBase)).getD 0)

/-! ## Faults (R383 to R386) -/

/-- What a fault's record says of it (R384). -/
structure Trap where
  cls : Nat
  sub : Nat := 0
  wrote : Bool := false
  fetch : Bool := false
  addr : Word := 0
  info : Word := 0
  deriving DecidableEq, Repr

def clsIllegal : Nat := 1
def clsPriv : Nat := 2
def clsDeadreg : Nat := 3
def clsDeadls : Nat := 4
def clsMisalign : Nat := 5
def clsXlate : Nat := 6
def clsPoison : Nat := 7
def clsKvformat : Nat := 8
def clsKite : Nat := 9
def clsBkpt : Nat := 10
def clsTrap : Nat := 11
def clsWatchdog : Nat := 12

/-- A consumed poisoned value (R397). -/
def poisonTrap (c : Code) : Trap := { cls := clsPoison, sub := 1, info := c.zeroExtend 64 }

/-- Address of the next slot of a context's fault queue (R385). -/
def State.faultSlot (s : State) (c : Nat) : Nat :=
  let x := s.ctx c
  x.fqBase.toNat + 64 * ((x.ev.get 0 0).toNat % x.fqN)

/-- Records that the fault queue still takes; none while its next slot lies in no memory (R385). -/
def State.faultRoom (s : State) (c : Nat) : Nat :=
  let x := s.ctx c
  if (s.memKind? (s.faultSlot c)).isNone then 0 else x.fqN - (x.ev.get 0 0 - x.fqRead).toNat

/-- A record waits to be appended; behind a full queue record-only faults find a store of 256 (R385). -/
def State.record (s : State) (c : Nat) (r : Record) : State :=
  let room := s.faultRoom c
  s.modCtx c fun x =>
    if r.recordOnly && 256 ≤ ((x.records.drop room).filter (·.recordOnly)).length then { x with lost := true }
    else { x with records := x.records ++ [r] }

/-- Bytes 0 to 7 of a record (R384). -/
def recordHead (cls sub unit : Nat) (wrote fetch user : Bool) (bx by_ : Nat) : Word :=
  word (cls + (sub % 256) <<< 8 + unit <<< 16 + (bit wrote + 2 * bit fetch + 4 * bit user) <<< 24 +
    (bx % 65536) <<< 32 + (by_ % 65536) <<< 48)

/-- Logical block of a reel for a record: in its partition, or the block of its field where none holds it. -/
def State.blockOf (s : State) (r : Nat) : Nat × Nat :=
  match s.partOfReel? r with
  | some p => (p.bx r, p.by_ r)
  | none => (blockOfReel r % 11, blockOfReel r / 11)

/-- Taking a precise fault (R386): the slot goes to FAULTED with its pc at the faulting instruction, nothing else of
the strand changes, and a record waits for the context's fault queue. -/
def State.takeFault (s : State) (r : StrandRef) (t : Trap) (w : Word) : State :=
  let k := s.slot r
  let (bx, by_) := s.blockOf r.reel
  let rec_ : Record :=
    { w0 := recordHead t.cls t.sub 7 t.wrote t.fetch (k.mode == .user) bx by_, handle := word k.handle, pc := k.pc
      addr := t.addr, word := w, info := t.info, tick := word s.tick, recordOnly := false }
  let k' := { k with phase := .faulted, wait := .none, walk := none, fetchFail := none }
  let s := s.modField (fieldOfReel r.reel) fun f =>
    { f with deadregs := f.deadregs + (if t.cls == clsDeadreg then 1 else 0)
             deadlss := f.deadlss + (if t.cls == clsDeadls then 1 else 0) }
  (s.setSlot r k').record k.ctx rec_

/-- Return from a fault (R227): the pc, or the next word's, and READY or the state and wait of a loaded image. -/
def State.resumeFaulted (s : State) (r : StrandRef) (skip : Bool) : State :=
  s.modSlot r fun k =>
    let k := { k with pc := if skip then k.pc + 8 else k.pc, readyTick := s.tick, resume := none }
    match (s.slot r).resume with
    | some (st, w) => if st == 4 then { k with phase := .faulted }
                      else { k with phase := if st == 5 then .draining else .live, wait := w }
    | none => { k with phase := .live, wait := .none }

/-! ## The end of a strand (R27, R30) -/

/-- A slot that its strand has left: FREE; its banks follow R54 by the delays that held (R30, R49). -/
def Slot.freed (c : Nat) (t : Slot) : Slot :=
  { Slot.reset with banks := (t.killAll c).banks, bkOff := t.bkOff, bkRet := t.bkRet, dly := t.dly }

def State.freeSlot (s : State) (r : StrandRef) : State :=
  { s.modSlot r (Slot.freed (s.reel r.reel).cycle) with
    walks := s.walks.filter fun w => w.who != .strand r }

/-- The reel's clock runs: its field is not gated (R450). -/
def State.reelRuns (s : State) (r : Nat) : Bool := !(s.field (fieldOfReel r)).gated

/-- A DRAINING strand leaves once nothing it issued is owed (R30). -/
def State.settleDraining (s : State) (r : StrandRef) : State :=
  let t := s.slot r
  if t.phase == .draining && t.owed == 0 && t.spawns == 0 then s.freeSlot r else s

end Sys2Proof.Machine
end

