-- ==== Sys2Proof/Machine/Operands.lean ====
section
/-! DEFINITION. What an instruction reads, writes and kills (R49, R87 to R97), what the scoreboard holds it for (R46),
its latency (R48, R267), and the one form in which every instruction issues (R51, R112). -/

namespace Sys2Proof.Machine

/-- The registers a field names in its role (R97). -/
def regsOf (r : Role) (n : BitVec 6) : List Reg :=
  match r with
  | .s => [.s n.toNat]
  | .p => [.p n.toNat]
  | .m => [.m n.toNat]
  | .v k => (upto k).map fun i => .v (n.toNat + i)
  | .z | .vn => []

/-- Registers an instruction reads and writes, and vector registers whose last use it marks. -/
structure Uses where
  reads : List Reg
  writes : List Reg
  kills : List Nat
  deriving DecidableEq, Repr

def vecNums (rs : List Reg) : List Nat := rs.filterMap fun r => match r with | .v n => some n | _ => none

def lastUse (flag : Bool) (rs : List Reg) : List Nat := if flag then vecNums rs else []

/-- MSK of format R, in 0x60 to 0x8A (R98) and in 0xC0 to 0xC3 (R323). -/
def maskR (opc : BitVec 8) (f : RF) : List Reg :=
  if (0x60#8 ≤ opc && opc ≤ 0x8A#8) || (0xC0#8 ≤ opc && opc ≤ 0xC3#8) then [.m f.msk] else []

/-- Registers that an entry reads or writes beyond its fields' roles. -/
def extraOf : Instr → List Reg × List Reg
  | .call _ => ([], [.s 63])
  | .callr _ => ([], [.s 63])
  | .ret _ => ([.s 63], [])
  | .loop f => ([.s f.dst.toNat], [])
  | .dbnz f => ([.s f.dst.toNat], [])
  | .pmov f => match f.sub.toNat with
    | 0 => ((upto 8).map .p, [])
    | 1 => ([], (upto 8).map .p)
    | _ => ([], [])
  | .vacs f => ([], [.m (f.low % 8)])
  | .vsel f => ([.m f.low], [])
  | .ctxsv f => ([.s f.dst.toNat], [])
  | .ctxld f => ([.s f.dst.toNat], [])
  | .fence _ | .pref _ | .cline _ => ([], [])
  | _ => ([], [])

def guardOf (i : Instr) : Guard :=
  match i.shape with
  | .nop g => g
  | .r _ f _ => f.grd
  | .i _ f _ => f.grd
  | .m _ f _ => f.grd
  | .a _ f _ => f.grd
  | .b _ f => f.grd
  | .e _ f _ => f.grd
  | .s _ f _ => f.grd
  | .word _ | .event => { inv := false, p := 0 }

/-- The registers of an instruction, the guard apart. -/
def usesOf (i : Instr) : Uses :=
  let (xr, xw) := extraOf i
  match i.shape with
  | .r opc f d =>
    let a := regsOf d.sa f.sa
    let b := regsOf d.sb f.sb
    let c := regsOf d.sc f.sc
    { reads := a ++ b ++ c ++ maskR opc f ++ xr, writes := regsOf d.dst f.dst ++ xw
      kills := lastUse f.luA a ++ lastUse f.luB b ++ lastUse f.luC c }
  | .i _ f d => { reads := regsOf d.sa f.sa ++ xr, writes := regsOf d.dst f.dst ++ xw, kills := [] }
  | .m opc f d =>
    let a := regsOf d.dst f.dst
    let x := regsOf d.idx f.idx
    let base := regsOf d.base f.base ++ x ++ (if 0x8F#8 ≤ opc then [Reg.m f.msk] else [])
    { reads := (if d.load then [] else a) ++ base, writes := if d.load then a else []
      kills := (if d.load then [] else lastUse f.luA a) ++ lastUse f.luB x }
  | .a _ f d =>
    { reads := regsOf d.addr f.addr ++ regsOf d.sb f.sb ++ regsOf d.sc f.sc ++ regsOf d.addr2 f.addr2
      writes := regsOf d.dst f.dst, kills := [] }
  | .e _ f d =>
    { reads := regsOf d.sa f.sa ++ regsOf d.sb f.sb ++ regsOf d.sc f.sc ++
        (if d.sdOut then [] else regsOf d.sd f.sd)
      writes := .s f.tok.toNat :: (if d.sdOut then regsOf d.sd f.sd else []), kills := [] }
  | .s _ f d => { reads := regsOf d.sa f.sa ++ xr, writes := regsOf d.dst f.dst ++ xw, kills := [] }
  | .nop _ | .b _ _ | .word _ | .event => { reads := xr, writes := xw, kills := [] }

/-! ## Mode (R63, R109, R230, R392) -/

def Mode.rank : Mode → Nat
  | .user => 0
  | .supervisor => 1
  | .device => 2

/-- Lowest mode in which a CSR number is accepted. -/
def csrRank (n : Nat) : Nat := if n < 0x100 then 0 else if n < 0x110 then 1 else 2

/-- Lowest mode in which the instruction issues, by its word alone (R112). -/
def rankOf : Instr → Nat
  | .csrr f => csrRank f.csr.toNat
  | .csrw f => csrRank f.csr.toNat
  | .csrx f => csrRank f.csr.toNat
  | .tlbinv f => if f.sub == 2 then 2 else 1
  -- the engine form, which names no token (R309)
  | .retry f | .ecancel f | .estat f => if f.bits 0 6 == 0 then 1 else 0
  | .eret _ | .ctxsv _ | .ctxld _ | .idle _ | .evpost _ | .allocqGrant _ | .allocqFree _ => 1
  | _ => 0

/-! ## Latency (R48, R267) -/

/-- Cycles from issue to the first dependent issue, for results of fixed latency; 4 for every VCVT, to and from integer and
8-bit types too (DEDUCED, log entry 78). -/
def latencyR (opc : Nat) (ty : Ty) : Nat :=
  if opc ≤ 0x1E then if opc == 3 || opc == 4 || opc == 5 then 3 else if opc == 6 || opc == 7 then 18 else 1
  else if opc < 0x60 then 1
  else if opc ≤ 0x65 then if ty.isF then 4 else 2
  else if opc ≤ 0x67 then 2
  else if opc ≤ 0x69 then 16
  else if opc ≤ 0x6D then 8
  else if opc == 0x6E then 4
  else if opc == 0x6F then if ty.isF then 4 else 2
  else if opc ≤ 0x7D then 2
  else if opc ≤ 0x83 then 3
  else if opc ≤ 0x87 then 6
  else if opc == 0x88 then 4
  else if opc ≤ 0x8A then 6
  else if opc ≤ 0x8E then 2
  else if opc == 0xC0 then 4
  else 1

def latencyOf (i : Instr) : Nat :=
  match i.shape with
  | .r opc f _ => latencyR opc.toNat f.ty
  | .i opc _ _ => if opc == 0x21 then 3 else 1
  | .m opc _ _ => if opc == 0x42 then 4 else 1
  | _ => 1

/-! ## The guard -/

/-- g of R88. -/
def Slot.guardHolds (t : Slot) (g : Guard) : Bool := (t.getP g.p.toNat).val != g.inv
def Slot.guardCode (t : Slot) (g : Guard) : Option Code := (t.getP g.p.toNat).code

/-- Instructions whose results take the poison of their guard, or that consume it as an address operand, whichever way the
free truth of a poisoned guard falls (R212, R266, R286, R396). -/
def guardPoisons (i : Instr) : Bool :=
  match i.shape with
  | .r opc _ _ => opc ≤ 0x1E || opc == 0x35 || opc == 0x36 || (0x60 ≤ opc && opc ≤ 0x8E) || (0xC0 ≤ opc && opc ≤ 0xC3) || opc == 0xC9
  | .i opc _ _ => opc ≤ 0x26
  | .m opc _ _ => 0x8F#8 ≤ opc
  | .s opc _ _ => opc == 0xF2
  | _ => false

/-- The guard holds, or is poisoned and goes into the result. -/
def Slot.proceeds (t : Slot) (i : Instr) : Bool :=
  t.guardHolds (guardOf i) || ((t.guardCode (guardOf i)).isSome && guardPoisons i)

/-! ## What holds an instruction at issue beside its registers and banks (R46, R147, R148) -/

/-- The queue that an engine command needs a place in (R291). -/
def engOf : Instr → Option Eng
  | .sfeed _ | .pmark _ => some .feed
  | .sdrain _ => some .drain
  | .copy _ | .copy2d _ | .fill _ | .gathr _ | .scatr _ | .kvappRows _ | .kvappInit _ | .kvseal _ => some .copy
  | .kvld f => if f.bits 0 2 == 2 then some .feed else some .kv
  | _ => none

/-- Commands that a queue holds (R291): one in progress keeps its place until its token is written (DESIGN CHOICE, log entry
106). -/
def queueFull (x : Reel) : Eng → Bool
  | .feed => 8 ≤ x.feedQ.length
  | .kv => 4 ≤ x.kvQ.length
  | .drain => 8 ≤ x.drainQ.length
  | .copy => 16 ≤ x.copyQ.length
  | _ => false

/-- The resource that the entry names is full or busy: an engine's queue (R291), the bound queue (R301), the tile (R327), the
fields' capacity for TLBINV (R404), the sampling of VBTRES (R429). -/
def State.resourceHold (s : State) (i : Instr) : Bool :=
  let x := s.reel s.cur.reel
  match i with
  | .sbnd _ => 16 ≤ x.boundQ.length
  | .atld _ | .atst _ | .atadd _ | .atmax _ | .atclr _ => x.cycle < x.tileBusy
  | .tlbinv _ => (upto 42).any fun f => 16 ≤ (s.invs.filter fun v => v.waiting.getLsbD f).length
  | .csrr f | .csrx f => f.csr == 0x122 && x.cycle < (s.me).vbtUntil
  | _ => match engOf i with
    | some e => queueFull x e
    | none => false

/-- Memory operations, those of the local store and of the tile among them, and the engine commands that read or write
memory, local store or tile (R148 to R150); a drain into registers is none. -/
def memOp (i : Instr) : Bool :=
  match i.shape with
  | .e 0xA1 f _ => f.bits 0 3 != 4
  | .m opc _ _ => opc != 0x46
  | .a _ _ _ => true
  | .e opc _ _ => opc ≤ 0xA1#8 || (0xA4#8 ≤ opc && opc ≤ 0xAB#8) || opc == 0xB3
  | .r opc _ _ => 0xC0#8 ≤ opc && opc ≤ 0xC4
  | .s opc _ _ => opc == 0xF6 || opc == 0xF7
  | _ => false

/-- Writes that are performed as they issue: of the local store and of the tile (R149). -/
def writesHere : Instr → Bool
  | .stl _ | .atst _ | .atadd _ | .atmax _ | .atclr _ => true
  | _ => false

/-- A resource, an acquire that no later memory operation passes, or a FENCE.rel that no later write passes. -/
def State.issueHold (s : State) (i : Instr) : Bool :=
  s.resourceHold i || (memOp i && !(s.me).acqs.isEmpty) || (writesHere i && !(s.me).fences.isEmpty)

/-- Lowest-numbered dead vector register among those an instruction reads (R50, R384). -/
def Slot.firstDead (t : Slot) (rs : List Reg) : Option Nat :=
  (upto 64).find? fun n => rs.contains (.v n) && !t.isLive n

/-! ## Issue -/

/-- What an instruction's entry does once its guard holds: raise a fault of step 4, reach a next state, or go on issuing. -/
inductive Eff where
  | trap (t : Trap)
  | done (s : State)
  /-- Its issue is not over: a walk that it awaits may have been asked for (R403, log entry 74). -/
  | hold (s : State)
  deriving DecidableEq, Repr

/-- RND 5 steps the generators (R76); the reuse buffer follows RU (R62). -/
def Slot.roundReuse (i : Instr) (t : Slot) : Slot :=
  match i.shape with
  | .r _ f d =>
    { t with seed := if f.rnd == .rs then lfsrStep t.seed else t.seed
             reuse := if f.ru && d.sa == .v 1 then some f.sa.toNat else t.reuse }
  | _ => t

/-- Result times that are still to come, and those of this issue (R48). -/
def Slot.resultTimes (i : Instr) (c : Nat) (t : Slot) : List (Reg × Nat) :=
  let lat := latencyOf i
  let keep := t.readyAt.filter fun x => c < x.2
  if lat ≤ 1 then keep else (usesOf i).writes.map (fun r => (r, c + lat)) ++ keep

/-- The part of an issue that every instruction shares: vector sources touch their banks, the generators and the reuse
buffer follow, sources marked last use die, results are timed, and the pc advances (R48, R49, R54, R62, R76, R86). -/
def Slot.retire (i : Instr) (c tick : Nat) (t : Slot) : Slot :=
  let a := Slot.roundReuse i ((vecNums (usesOf i).reads).foldl (Slot.touch c) t)
  { (usesOf i).kills.foldl (Slot.kill c) a with pc := t.pc + 8, readyTick := tick, readyAt := t.resultTimes i c }

def State.retire (s : State) (i : Instr) : State := s.modMe (Slot.retire i s.now s.tick)

/-- The instruction word, for a record (R384). -/
def wordOf (i : Instr) : Word := (encode i).getD 0

/-- A fault of the instruction that issues (R386). -/
def State.trapAt (s : State) (i : Instr) (t : Trap) : State := s.takeFault s.cur t (wordOf i)

/-- The instruction has no effect but its cycle (R51). -/
def State.skip (s : State) : State := s.modMe fun t => { t with pc := t.pc + 8, readyTick := s.tick }

/-- Transfers and counted loops consume their guard (R209, R212). -/
def guardConsumed : Instr → Bool
  | .br _ | .brr _ | .call _ | .callr _ | .ret _ | .loop _ | .dbnz _ => true
  | _ => false

/-- Issue of an instruction on the strand `s.cur`: ILLEGAL and PRIV whatever the guard, R51 when the guard is false,
DEADREG, what holds it, then the entry's own faults and effect, given the state before and the state with the shared part
done (R46, R50, R51, R112). A transfer whose guard and target are both poisoned records the guard's code (DESIGN CHOICE, log
entry 75). -/
def issue (i : Instr) (s : State) (eff : State → State → Eff) : Host.Outcome State Fault Refusal :=
  .next <|
    if !i.wf then s.trapAt i { cls := clsIllegal }
    else if (s.me).mode.rank < rankOf i then s.trapAt i { cls := clsPriv }
    else if guardConsumed i && ((s.me).guardCode (guardOf i)).isSome then
      s.trapAt i (poisonTrap (((s.me).guardCode (guardOf i)).getD 0))
    else if !(s.me).proceeds i then s.skip
    else match (s.me).firstDead (usesOf i).reads with
      | some n => s.trapAt i { cls := clsDeadreg, info := Sys2Proof.word n }
      | none =>
        if s.issueHold i then { s with held := true }
        else match eff s (s.retire i) with
          | .trap t => s.trapAt i t
          | .done s' => s'
          | .hold s' => { s' with held := true }

/-- A wait that is to leave no result in s[n]. -/
def Wait.without (n : Nat) : Wait → Wait
  | .waitq k seen dl dst => .waitq k seen dl (if dst = n then 0 else dst)
  | .idle seen dst => .idle seen (if dst = n then 0 else dst)
  | w => w

/-- A CTXLD that waits for its image. -/
def Wait.loading : Wait → Bool
  | .ctxld _ => true
  | _ => false

/-- Such a wait is given up. -/
def Wait.unlessLoading (w : Wait) : Wait := if w.loading then .none else w

/-- The scalar results of an instruction hold a code, and nothing is still to be written there. -/
def Slot.taint (i : Instr) (c : Code) (t : Slot) : Slot :=
  (usesOf i).writes.foldl (fun t r => match r with
    | .s n => { t.setS n (SReg.poison c) with pend := t.pend.filter (·.1 != .s n), toks := t.toks.del n
                                              wait := t.wait.without n }
    | _ => t) t

/-- Issue of an instruction that acts as its guard's free truth says and whose result is poisoned with its guard (R212). -/
def issueTainted (i : Instr) (s : State) (eff : State → State → Eff) : Host.Outcome State Fault Refusal :=
  match (s.me).guardCode (guardOf i), issue i s eff with
  | some c, .next t => .next (if t.held || (t.me).phase == .faulted || (t.me).wait.loading then t else t.modMe (Slot.taint i c))
  | _, o => o

/-- Raises POISON for the first poisoned register of a list (R212, R237, R290), else goes on. -/
def Eff.consume (codes : List (Option Code)) (e : Eff) : Eff :=
  match codes.findSome? id with
  | some c => .trap (poisonTrap c)
  | none => e

/-! ## Source and destination forms -/

/-- A scalar source. -/
def State.rs (s : State) (n : BitVec 6) : SReg := (s.me).getS n.toNat
/-- A scalar destination of the strand that issues. -/
def State.setRs (s : State) (n : BitVec 6) (x : SReg) : State := s.modMe fun t => t.setS n.toNat x
def State.setPc (s : State) (pc : Word) : State := s.modMe fun t => { t with pc := pc }

/-- A predicate result; a poisoned one holds a code, and its truth is free (log entry 2). -/
def State.setRp (s : State) (n : BitVec 6) (codes : List (Option Code)) (v : Bool) : State :=
  match codes.findSome? id with
  | none => s.modMe fun t => t.setP n.toNat { val := v, code := none }
  | some c =>
    let (w, s) := s.drawWord
    s.modMe fun t => t.setP n.toNat { val := w.getLsbD 0, code := some c }

/-- A register waits for a request or command (R46). -/
def State.setPend (s : State) (r : Reg) (id : Nat) : State :=
  if r == .s 0 then s else s.modMe fun t => { t with pend := (r, id) :: t.pend }

/-- A token goes pending (R45). -/
def State.setTok (s : State) (n : BitVec 6) (id : Nat) : State :=
  s.modMe fun t => { t with toks := t.toks.ins n.toNat id }

/-- ea of R104. -/
def effAddr (base idx : Word) (scl : BitVec 2) (off : BitVec 16) : Word :=
  base + idx <<< scl.toNat + off.signExtend 64

end Sys2Proof.Machine
end

