-- ==== Sys2Proof/Machine/Memory.lean ====
section
/-! DEFINITION. Memory: bytes with their poison at the home, in a data L1 and in a far cache (R135 to R137, R395), the
directory (R153), and the records of what homes have applied (R400). -/

namespace Sys2Proof.Machine

/-! ## Bytes with their poison -/

/-- The canonical form of memory: addresses strictly rising, and no byte listed that an unlisted address reads as. -/
def Memory.wf (m : List Host.Cell) : Bool := SMap.wf (0 : Byte) m

/-- A byte at its home. -/
def State.memByte (s : State) (pa : Nat) : PByte :=
  (SMap.get 0 s.mem pa, if s.mpsn.get false (pa / 4) then
    some (BitVec.ofNat 32 (natOfBytes ((upto 4).map fun k => SMap.get 0 s.mem (4 * (pa / 4) + k)))) else none)

def State.memBytes (s : State) (pa n : Nat) : List PByte := (upto n).map fun i => s.memByte (pa + i)

def cleanBytes (bs : List Byte) : List PByte := bs.map fun b => (b, none)
def wordBytes (w : Word) : List PByte := cleanBytes (bytesOf w 8)
def plainBytes (l : List PByte) : List Byte := l.map (·.1)
def firstCode (l : List PByte) : Option Code := l.findSome? (·.2)

/-- Poison of a destination granule `g` when the bytes of `l` go to `off` on: the code of the lowest poisoned source. -/
def codeAt (off : Nat) (l : List PByte) (g : Nat) : Option Code :=
  firstCode ((l.drop (4 * g - off)).take (4 * g + 4 - max off (4 * g)))

/-- Writes bytes at their home, nothing else. -/
def State.putMem (s : State) (pa : Nat) (l : List PByte) : State :=
  let (m, p) := putBytes (codeAt pa l) (l.length + 1) s.mem s.mpsn pa (plainBytes l)
  { s with mem := m, mpsn := p }

/-- A little-endian word at its home, as devices read their own structures. -/
def State.memWord (s : State) (pa n : Nat) : Nat := natOfBytes (plainBytes (s.memBytes pa n))

/-! ## The directory (R153, R374) -/

def State.dir (s : State) (line : Nat) : Dir := s.dirs.get Dir.none line
def State.setDir (s : State) (line : Nat) (d : Dir) : State := { s with dirs := s.dirs.put Dir.none line d }

/-- No field stands for a writer outside the wafer. -/
def noField : Nat := 42

/-- Fields that still have to acknowledge an invalidation of the line. -/
def Dir.pending (d : Dir) : BitVec 42 := d.out.foldl (fun m w => m ||| w.2) 0

/-- A read of the line by field `f` waits for a write of another (R153). -/
def Dir.holds (d : Dir) (f : Nat) : Bool := d.out.any fun w => w.1 != f

/-- Invalidations of a write go out. -/
def Dir.await (d : Dir) (writer : Nat) (m : BitVec 42) : Dir :=
  if m == 0 then d else { d with out := d.out ++ [(writer, m)] }

/-- A field has acknowledged every invalidation of the line that it was sent. -/
def Dir.acked (d : Dir) (f : Nat) : Dir :=
  { d with out := (d.out.map fun w => (w.1, setBit w.2 f false)).filter fun w => w.2 != 0 }

/-- The directory's part of a write to a line: invalidations to the sharers but the writer's field, those that have an
earlier one still to acknowledge among them, and a snoop of the host when the device writes a line whose host bit is set. -/
def State.dirWrite (s : State) (line writer : Nat) (device : Bool) : State :=
  let d := s.dir line
  let all := d.sharers ||| d.pending
  let others := if writer < 42 then setBit all writer false else all
  let snoop := device && d.host
  let s := s.setDir line
    { d.await writer others with sharers := d.sharers &&& ~~~others, host := d.host && !snoop, snoop := d.snoop || snoop }
  if snoop then { s with sent := s.sent ++ [.snoop line] } else s

/-- Lines of a byte range. -/
def linesOf (pa n : Nat) : List Nat :=
  if n == 0 then [] else (upto ((pa + n - 1) / 256 - pa / 256 + 1)).map (· + pa / 256)

def sectorsOf (pa n : Nat) : List Nat :=
  if n == 0 then [] else (upto ((pa + n - 1) / 128 - pa / 128 + 1)).map (· + pa / 128)

/-! ## Capacity of the caches (R135) -/

/-- A table of `cap` lines makes room for line `k`: the `v`-th line leaves a full one. -/
def roomFor {α : Type} (cap k v : Nat) (m : SMap α) : SMap α :=
  if m.length < cap || m.any (·.1 == k) then m
  else match m.drop (v % m.length) with
    | x :: _ => m.del x.1
    | [] => m

/-- Lines of a home cache of 96 MiB, and of one far-cache range of 128 MiB. -/
def homeLines : Nat := 393216
def farLines : Nat := 524288

/-- The home cache of the line's field takes it; one that leaves is written to its stack if it must be. Which leaves, no
rule says (log entry 2). -/
def State.homeTouch (s : State) (dirty : Bool) (line : Nat) : State :=
  if dramTop ≤ 256 * line then s
  else
    let (v, s) := s.drawChoice homeLines
    s.modField (stackField (homeOfDram (256 * line)).1) fun f =>
      { f with home := (roomFor homeLines line v f.home).ins line (dirty || f.home.get false line) }

/-! ## Far caches (R135, R137) -/

def FarLine.byte (x : FarLine) (i : Nat) : PByte :=
  (x.data.extractLsb' (8 * i) 8, if x.psn.getLsbD (i / 4) then some (x.data.extractLsb' (32 * (i / 4)) 32) else none)

/-- A line as its home holds it. -/
def State.homeLine (s : State) (line : Nat) : FarLine :=
  let bs := s.memBytes (256 * line) 256
  { data := BitVec.ofNat 2048 (natOfBytes (plainBytes bs))
    psn := BitVec.ofNat 64 (natOfLanes 1 ((upto 64).map fun g => bit ((bs.getD (4 * g) (0, none)).2.isSome))) }

/-- A far cache takes a line from the home, which records the field as a sharer (R137, R153). -/
def State.farFill (s : State) (f line : Nat) : State :=
  let (v, s) := (s.homeTouch false line).drawChoice farLines
  let s := s.modField f fun x => { x with far := (roomFor (farLines * x.slice) line v x.far).ins line (s.homeLine line) }
  let d := s.dir line
  s.setDir line { d with sharers := setBit d.sharers f true }

def State.farDrop (s : State) (f line : Nat) : State := s.modField f fun x => { x with far := x.far.del line }

/-- Bytes written into a line, granule by granule (R395). -/
def FarLine.write (x : FarLine) (off : Nat) (l : List PByte) : FarLine :=
  let m : SMap Byte := (upto 256).map fun i => (i, (x.byte i).1)
  let p : SMap Bool := (upto 64).map fun g => (g, x.psn.getLsbD g)
  let (m, p) := putBytes (codeAt off l) (l.length + 1) m p off (plainBytes l)
  { data := BitVec.ofNat 2048 (natOfBytes ((upto 256).map (m.get 0)))
    psn := BitVec.ofNat 64 (natOfLanes 1 ((upto 64).map fun g => bit (p.get false g))) }

/-- The far cache of a field has taken a line's bytes from another request of the field, which the home is still to apply. -/
def State.takenBy (s : State) (f id line : Nat) : Bool :=
  s.reqs.any fun d => d.id != id && d.stage == Stage.sent && fieldOfReel d.reel == f && d.taken.contains line

/-- A far cache's copy follows a write of its field (R137). -/
def State.farUpdate (s : State) (f line : Nat) : State :=
  if (s.field f).far.any (·.1 == line) then s.modField f fun x => { x with far := x.far.ins line (s.homeLine line) }
  else s

/-- Every write to memory at its home: the bytes, the directory, the writer's far copy (R137, R153). -/
def State.homeWrite (s : State) (writer : Nat) (device : Bool) (pa : Nat) (l : List PByte) : State :=
  let s := s.putMem pa l
  if pa < dramTop then
    (linesOf pa l.length).foldl (fun s n => (s.dirWrite n writer device).farUpdate writer n) s
  else s

/-- Runs of bytes that are written together. -/
abbrev Run := Nat × List PByte

def Run.has (r : Run) (pa : Nat) : Bool := r.1 ≤ pa && pa < r.1 + r.2.length

/-- Joins a byte that no run has to the run that ends before it. -/
def joinByte (b : PByte) (pa : Nat) : List Run → List Run
  | [] => [(pa, [b])]
  | (q, l) :: rest => if pa == q + l.length then (q, l ++ [b]) :: rest else (q, l) :: joinByte b pa rest

/-- Joins a byte to the runs; a later byte of an address replaces the earlier (R287). -/
def addByte (b : PByte) (pa : Nat) (rs : List Run) : List Run :=
  if rs.any (Run.has · pa) then listMod (Run.has · pa) (fun r => (r.1, r.2.set (pa - r.1) b)) rs else joinByte b pa rs

/-! ## The data L1 (R135, R136) -/

def Sector.empty : Sector := { data := 0, valid := 0, dirty := 0, psn := 0 }

def Reel.sector (x : Reel) (k : Nat) : Sector := x.l1.get Sector.empty k
def Reel.setSector (x : Reel) (k : Nat) (v : Sector) : Reel := { x with l1 := x.l1.put Sector.empty k v }

def Sector.byte (x : Sector) (i : Nat) : PByte :=
  (x.data.extractLsb' (8 * i) 8, if x.psn.getLsbD (i / 4) then some (x.data.extractLsb' (32 * (i / 4)) 32) else none)

def Reel.l1Byte (x : Reel) (pa : Nat) : PByte := (x.sector (pa / 128)).byte (pa % 128)
def Reel.l1Valid (x : Reel) (pa : Nat) : Bool := (x.sector (pa / 128)).valid.getLsbD (pa % 128)
def Reel.l1Dirty (x : Reel) (pa : Nat) : Bool := (x.sector (pa / 128)).dirty.getLsbD (pa % 128)

/-- Sets a byte of a sector. -/
def Sector.setByte (x : Sector) (i : Nat) (b : Byte) (dirty : Bool) : Sector :=
  { x with data := (x.data &&& ~~~(0xFF#1024 <<< (8 * i))) ||| (b.zeroExtend 1024 <<< (8 * i))
           valid := setBit x.valid i true, dirty := setBit x.dirty i dirty }

/-- A granule of a sector that is poisoned below: its bytes are the code, and stores to part of it are not kept (R395). -/
def Sector.poisonGranule (x : Sector) (g : Nat) (c : Code) : Sector :=
  let y := (upto 4).foldl (fun (y : Sector) i => y.setByte (4 * g + i) (c.extractLsb' (8 * i) 8) false) x
  { y with psn := setBit y.psn g true }

/-- Takes every byte that is not dirty from the level below (R136). -/
def Sector.fill (x : Sector) (below : Nat → PByte) : Sector :=
  let y := (upto 128).foldl (fun (y : Sector) i => if x.dirty.getLsbD i then y else y.setByte i (below i).1 false) x
  (upto 32).foldl (fun (y : Sector) g =>
    if x.dirty.extractLsb' (4 * g) 4 == 15 then y
    else match (below (4 * g)).2 with
      | some c => y.poisonGranule g c
      | none => { y with psn := setBit y.psn g false }) y

/-- One piece of a store inside one granule; a partial write of a poisoned granule is not kept (R395). `low` tells the
granules that are poisoned below. -/
def l1Piece (low : Nat → Bool) (dirty : Bool) (x : Reel) (pa : Nat) (bs : List PByte) : Reel :=
  let k := pa / 128
  let v := x.sector k
  let g := pa % 128 / 4
  let whole := bs.length == 4
  let below := v.valid.extractLsb' (4 * g) 4 != 15 && low (pa / 4)
  if !whole && (v.psn.getLsbD g || below) then x
  else
    let v := (upto bs.length).foldl (fun (v : Sector) i => v.setByte (pa % 128 + i) (bs.getD i (0, none)).1 dirty) v
    x.setSector k { v with psn := setBit v.psn g (firstCode bs).isSome }

/-- A store of a run into L1 (R136). -/
def l1Run (low : Nat → Bool) (dirty : Bool) : Nat → Reel → Nat → List PByte → Reel
  | 0, x, _, _ => x
  | fuel + 1, x, pa, bs =>
    if bs.isEmpty then x
    else
      let n := min bs.length (4 - pa % 4)
      l1Run low dirty fuel (l1Piece low dirty x pa (bs.take n)) (pa + n) (bs.drop n)

/-- A copy in L1 follows a write performed below: only sectors that L1 holds, which stay clean there (R140, R150). -/
def State.l1Follow (s : State) (r : Nat) (pa : Nat) (bs : List PByte) : State :=
  (sectorsOf pa bs.length).foldl (fun s k =>
    if (s.reel r).sector k == Sector.empty then s
    else
      let lo := max pa (128 * k)
      let hi := min (pa + bs.length) (128 * k + 128)
      s.modReel r fun x => l1Run (fun g => s.mpsn.get false g) false (hi - lo + 1) x lo ((bs.drop (lo - pa)).take (hi - lo))) s

/-- Clean bytes of one sector go (R140). -/
def Reel.dropSector (x : Reel) (k : Nat) : Reel :=
  let v := x.sector k
  x.setSector k (if v.dirty == 0 then Sector.empty else { v with valid := v.valid &&& v.dirty })

/-- An acquire at field scope or wider: every clean byte of L1 goes, dirty bytes stay (R148). -/
def Reel.dropClean (x : Reel) : Reel := x.l1.keys.foldl Reel.dropSector x

/-- The dirty bytes of a sector, as runs. -/
def Reel.dirtyRuns (x : Reel) (k : Nat) : List Run :=
  let v := x.sector k
  (onesOf v.dirty).foldl (fun rs i => addByte (v.byte i) (128 * k + i) rs) []

/-- The sector is clean: what was dirty stays valid. -/
def Reel.clean (x : Reel) (k : Nat) : Reel := x.setSector k { x.sector k with dirty := 0 }

/-! ## What a reel reads below its L1 (R137, R139) -/

/-- A byte as the reel's field reads it: from its far cache where the line may be there, else at the home. -/
def State.belowByte (s : State) (f : Nat) (useFar : Bool) (pa : Nat) : PByte :=
  if useFar then
    match (s.field f).far.find? (·.1 == pa / 256) with
    | some (_, l) => l.byte (pa % 256)
    | none => s.memByte pa
  else s.memByte pa

/-- The line may be held by the field's far cache: marked, homed elsewhere, and the field has a slice (R135). -/
def State.farHolds (s : State) (f : Nat) (fc : Bool) (pa : Nat) : Bool :=
  fc && pa < dramTop && s.homeField pa != f && (s.field f).slice != 0

def State.inFar (s : State) (f line : Nat) : Bool := (s.field f).far.any (·.1 == line)

def Unit'.has (u : Unit') (pa : Nat) : Bool := u.pa ≤ pa && pa < u.pa + u.w

/-- A byte that a request carries, by its place in the register. -/
def Req.byteAt (q : Req) (p : Nat) : PByte :=
  (q.data.extractLsb' (8 * p) 8, if q.dpsn.getLsbD (p / 4) then some (q.data.extractLsb' (32 * (p / 4)) 32) else none)

/-- A byte that the reel's L1 has written back and that is still on its way: a reader of the reel sees it (R136, R142). -/
def State.flying (s : State) (r pa : Nat) : Option PByte :=
  (s.reqs.reverse.filter fun q => q.reel == r && q.op == ReqOp.writeback && q.stage == Stage.sent).findSome? fun q =>
    (q.left.find? (·.has pa)).map fun u => q.byteAt (u.pos + (pa - u.pa))

/-- A byte below a reel's L1; a write-back of part of a poisoned granule will not be kept (R395). -/
def State.lowerByte (s : State) (r : Nat) (far : Bool) (pa : Nat) : PByte :=
  let b := s.belowByte (fieldOfReel r) far pa
  match s.flying r pa with
  | some x => if b.2.isSome && (upto 4).any fun i => (s.flying r (pa / 4 * 4 + i)).isNone then b else x
  | none => b

/-- A store of a run into L1 (R136), on a page whose far-cache mark is `fc`. -/
def State.l1Store (s : State) (r : Nat) (fc : Bool) (pa : Nat) (bs : List PByte) : State :=
  let far := s.farHolds (fieldOfReel r) fc pa
  s.modReel r fun x => l1Run (fun g => (s.lowerByte r far (4 * g)).2.isSome) true (bs.length + 1) x pa bs

/-- Fills a sector of L1 from below, filling the far cache on the way (R136, R137). -/
def State.l1Fill (s : State) (r : Nat) (fc : Bool) (k : Nat) : State :=
  let f := fieldOfReel r
  let far := s.farHolds f fc (128 * k)
  let s := if far && !s.inFar f (k / 2) then s.farFill f (k / 2) else s.homeTouch false (k / 2)
  s.modReel r fun x => x.setSector k ((x.sector k).fill fun i => s.lowerByte r far (128 * k + i))

/-- A byte as an engine of the reel sees it: the L1's dirty byte, else memory at its home (R150). -/
def State.engineByte (s : State) (r pa : Nat) : PByte :=
  if pa < dramTop && (s.reel r).l1Dirty pa then (s.reel r).l1Byte pa else s.memByte pa

/-! ## Replay records (R400) -/

/-- Where a partition's configuration unit counts as a home of requests: beside the 42 fields. -/
def unitHome (part : Nat) : Nat := 64 + part

/-- Where a context's event counters count as one: where they stand, no rule says, and nothing but the limit of 256 depends
on it. -/
def counterHome (c : Nat) : Nat := 2 ^ 64 + c

/-- The source has 256 requests unacknowledged at the home. -/
def State.replayFull (s : State) (reel home : Nat) : Bool :=
  256 ≤ (s.replays.filter fun r => r.reel == reel && r.home == home).length

/-- A home keeps the record of a request that changed state, under the requester's tag. -/
def State.keepReplay (s : State) (reel home id : Nat) : State :=
  { s with replays := s.replays ++ [{ reel := reel, tag := id % 65536, home := home, req := id }] }

/-- An engine's write: the home, any copy in the reel's L1, and the home's record (R150, R400). -/
def State.engineWrite (s : State) (r pa : Nat) (l : List PByte) : State :=
  let (id, s) := s.fresh
  ((s.homeWrite (fieldOfReel r) true pa l).l1Follow r pa l).keepReplay r (s.homeField pa) id

end Sys2Proof.Machine
end

