-- ==== Sys2Proof/Machine/Xlate.lean ====
section
/-! DEFINITION. Translation: page-table entries, the walk, the caches of translations (R401 to R404). -/

namespace Sys2Proof.Machine

/-! ## Entries (R402) -/

def pteV (e : Word) : Bool := e.getLsbD 0
def pteLeaf (e : Word) : Bool := e.getLsbD 1
def pteW (e : Word) : Bool := e.getLsbD 2
def pteX (e : Word) : Bool := e.getLsbD 3
def pteU (e : Word) : Bool := e.getLsbD 4
def pteKv (e : Word) : Bool := e.getLsbD 5
def pteFc (e : Word) : Bool := e.getLsbD 6 && bitsOf e 60 2 == 0
def pteSz (e : Word) : Nat := bitsOf e 58 2
def pteMt (e : Word) : Nat := bitsOf e 60 2
def pteAddr (e : Word) : Nat := bitsOf e 8 44 <<< 8

/-- Lowest address bit of a level's index (R401). -/
def levelShift (l : Nat) : Nat :=
  match l with
  | 1 => 46
  | 2 => 34
  | 3 => 21
  | _ => 16

/-- Index of a level (R401). -/
def levelIndex (va : Word) (l : Nat) : Nat :=
  match l with
  | 1 => bitsOf va 46 10
  | 2 => bitsOf va 34 12
  | 3 => bitsOf va 21 13
  | _ => bitsOf va 16 5

/-- A valid entry that R402 calls malformed at its level. -/
def malformed (e : Word) (l : Nat) : Bool :=
  bitsOf e 62 2 != 0 || bitsOf e 52 6 != 0 || e.getLsbD 7 || (pteLeaf e && l == 1) || (!pteLeaf e && l == 4) ||
  (pteLeaf e && (pteSz e != l - 1 || pteAddr e % 2 ^ levelShift l != 0)) ||
  (!pteLeaf e && (bitsOf e 2 5 != 0 || bitsOf e 58 4 != 0)) || pteMt e == 3 ||
  (pteKv e && (pteMt e != 0 || pteSz e != 3 || pteX e))

/-- The translation trap of R384: SUB, level in INFO, the access in FLAGS. -/
def xlTrap (sub level : Nat) (acc : Access) (va : Word) : Trap :=
  { cls := clsXlate, sub := sub, wrote := acc == .write, fetch := acc == .fetch, addr := va, info := word level }

/-- A physical address lies in the memory that MT names (R401). -/
def State.inMemory (s : State) (pa mt : Nat) : Bool :=
  match s.memKind? pa with
  | some .dram => mt == 0
  | some .fs => mt == 1
  | some .host => mt == 2
  | none => false

/-- How a translation ends: an address with its entry, a miss, or a fault. -/
inductive Xl where
  | ok (pa : Nat) (e : Word)
  | miss
  | fault (t : Trap)
  deriving DecidableEq, Repr

/-- The checks of R401 behind a well-formed leaf. -/
def State.checkLeaf (s : State) (l : Leaf) (va : Word) (acc : Access) (m : Mode) : Xl :=
  let e := l.entry
  let pa := pteAddr e + va.toNat % l.size
  if acc == .write && !pteW e then .fault (xlTrap 2 l.level acc va)
  else if acc == .fetch && !pteX e then .fault (xlTrap 3 l.level acc va)
  else if m == .user && !pteU e then .fault (xlTrap 4 l.level acc va)
  else if !s.inMemory pa (pteMt e) then .fault (xlTrap 6 l.level acc va)
  else .ok pa e

def Leaf.covers (l : Leaf) (c : Nat) (va : Word) : Bool := l.ctx == c && l.base ≤ va.toNat && va.toNat < l.base + l.size

/-- The context whose tables serve a strand of a context on a reel: in device mode the reel's (R401). -/
def State.tableCtx (s : State) (r c : Nat) (m : Mode) : Nat :=
  match m, s.partOfReel? r with
  | .device, some p => p.ctx
  | _, _ => c

/-- Translation through the TLBs of a reel and its field (R403). -/
def State.translate (s : State) (r c : Nat) (va : Word) (acc : Access) (m : Mode) : Xl :=
  if bitsOf va 56 8 != 0 then .fault (xlTrap 6 0 acc va)
  else match ((s.reel r).tlb ++ (s.field (fieldOfReel r)).tlb).find? (·.covers (s.tableCtx r c m) va) with
    | some l => s.checkLeaf l va acc m
    | none => .miss

/-! ## The walk (R401) -/

/-- How a walk ends: a leaf with the pointers read on its path, a line whose invalidations are out or that no port reaches
(R399), or a fault. -/
inductive WalkEnd where
  | leaf (l : Leaf) (ps : List PtrEntry)
  | held
  | fault (t : Trap)
  deriving DecidableEq, Repr

/-- Levels `5 - n` to 4, from the table at `a`. -/
def State.walkFrom (s : State) (f c : Nat) (va : Word) (acc : Access) : Nat → Nat → List PtrEntry → WalkEnd
  | 0, _, _ => .fault (xlTrap 5 4 acc va)
  | n + 1, a, ps =>
    let l := 4 - n
    let pa := a + 8 * levelIndex va l
    if (s.memKind? pa).isNone then .fault (xlTrap 6 l acc va)
    else if s.hostDown pa || (pa < dramTop && (s.dir (pa / 256)).holds f) then .held
    else
      let bs := s.memBytes pa 8
      let e := word (natOfBytes (plainBytes bs))
      match firstCode bs with
      | some c => .fault { cls := clsPoison, sub := 2, wrote := acc == .write, fetch := acc == .fetch, addr := va,
                           info := c.zeroExtend 64 }
      | none =>
        if !pteV e then .fault (xlTrap 1 l acc va)
        else if malformed e l then .fault (xlTrap 5 l acc va)
        else if pteLeaf e then
          let size := 2 ^ levelShift l
          .leaf { ctx := c, base := va.toNat / size * size, size := size, level := l, entry := e } ps
        else walkFrom s f c va acc n (pteAddr e)
          ({ ctx := c, level := l, tag := va.toNat >>> levelShift l, table := pteAddr e } :: ps)

/-- The deepest pointer that a walk cache holds for an address: the levels left and the table (R403). -/
def cachedPtr (ps : List PtrEntry) (c : Nat) (va : Word) (root : Nat) : Nat × Nat :=
  match [3, 2, 1].findSome? fun l => (ps.find? fun p => p.ctx == c && p.level == l && p.tag == va.toNat >>> levelShift l) with
  | some p => (4 - p.level, p.table)
  | none => (4, root)

/-- A walk for a reel's context. -/
def State.walk (s : State) (f c : Nat) (va : Word) (acc : Access) : WalkEnd :=
  let (n, a) := cachedPtr (s.field f).walkCache c va (s.ctx c).root.toNat
  s.walkFrom f c va acc n a []

/-- Entries of a reel's TLB, of a field's TLB and of a walk cache, and walkers of a field (R403). -/
def reelTlbSize : Nat := 128
def fieldTlbSize : Nat := 16384
def walkCacheSize : Nat := 1024
def walkers : Nat := 32

/-- A list of at most `cap` entries takes one more: the `v`-th leaves a full one. -/
def pushEntry {α : Type} (cap v : Nat) (x : α) (l : List α) : List α :=
  x :: if l.length < cap then l else l.eraseIdx (v % l.length)

def Leaf.same (a b : Leaf) : Bool := a.ctx == b.ctx && a.base == b.base && a.size == b.size
def PtrEntry.same (a b : PtrEntry) : Bool := a.ctx == b.ctx && a.level == b.level && a.tag == b.tag

/-- What a walk that succeeded leaves in the caches (R403); which entry leaves a full one, no rule says (log entry 2). -/
def State.install (s : State) (r : Nat) (l : Leaf) (ps : List PtrEntry) : State :=
  let (v, s) := s.drawChoice fieldTlbSize
  let keep (cap : Nat) (t : List Leaf) := pushEntry cap v l (t.filter fun x => !x.same l)
  let s := s.modReel r fun x => { x with tlb := keep reelTlbSize x.tlb }
  s.modField (fieldOfReel r) fun x =>
    { x with tlb := keep fieldTlbSize x.tlb
             walkCache := ps.foldr (fun p l => pushEntry walkCacheSize v p (l.filter fun q => !q.same p)) x.walkCache }

/-- Starts a walk (R403). -/
def State.startWalk (s : State) (who : Requester) (r c : Nat) (va : Word) (acc : Access) (m : Mode) : Nat × State :=
  let (id, s) := s.fresh
  (id, { s with walks := s.walks ++ [{ id := id, who := who, field := fieldOfReel r, reel := r, ctx := s.tableCtx r c m
                                       va := va, acc := acc, mode := m, stale := false }] })

/-- One of the field's walkers serves the walk: fewer than 32 are ahead of it (R403). -/
def State.walkServed (s : State) (w : Walk) : Bool :=
  ((s.walks.filter (·.field == w.field)).takeWhile (·.id != w.id)).length < walkers

/-- The strand that issues awaits a walk before its instruction can issue (R403). -/
def State.awaitWalk (s : State) (va : Word) (acc : Access) : State :=
  let t := s.me
  let (id, s) := s.startWalk (.strand s.cur) s.cur.reel t.ctx va acc t.mode
  s.modMe fun t => { t with walk := some id }

/-- Strands of a field that wait in WAITA under tables of a context, those that were scanned out among them, translate their
address again before they next read it (R230). -/
def State.staleWaits (s : State) (f : Nat) (mine : Nat → Bool) : State :=
  let mark (r : Nat) (t : Slot) : Slot := match t.wait with
    | .waita x => if mine (s.tableCtx r t.ctx t.mode) then { t with wait := .waita { x with stale := true } } else t
    | _ => t
  let all (n : Nat) (rx : Nat × Reel) : Nat × Reel := (rx.1, { rx.2 with slots := rx.2.slots.map fun kt => (kt.1, mark n kt.2) })
  let saved (p : Partition) (rx : Nat × Reel) : Nat × Reel :=
    match p.reels.find? fun n => p.index n == rx.1 with
    | some n => if fieldOfReel n == f then all n rx else rx
    | none => rx
  { s with reels := listMod (fun rx => fieldOfReel rx.1 == f) (fun rx => all rx.1 rx) s.reels
           parts := s.parts.map fun p => { p with saved := p.saved.map (saved p) } }

/-- Removes the translations that a TLBINV names from the caches of one field (R230, R404). -/
def State.tlbRemove (s : State) (f : Nat) (kind c : Nat) (va : Word) : State :=
  let goneLeaf (l : Leaf) : Bool := match kind with
    | 0 => l.covers c va
    | 1 => l.ctx == c
    | _ => true
  let gonePtr (p : PtrEntry) : Bool := match kind with
    | 0 => p.ctx == c && p.tag == va.toNat >>> levelShift p.level
    | 1 => p.ctx == c
    | _ => true
  let s := s.modField f fun x =>
    { x with tlb := x.tlb.filter fun l => !goneLeaf l, walkCache := x.walkCache.filter fun p => !gonePtr p }
  let drop (x : Reel) : Reel := { x with tlb := x.tlb.filter fun l => !goneLeaf l }
  let s := { s with reels := listMod (fun rx => fieldOfReel rx.1 == f) (fun rx => (rx.1, drop rx.2)) s.reels }
  let s := s.staleWaits f fun k => kind == 2 || k == c
  { s with walks := listMod (fun w => w.field == f) (fun w => { w with stale := true }) s.walks }

end Sys2Proof.Machine
end

