-- ==== Sys2Proof/Machine/Sync.lean ====
section
/-! DEFINITION. What meets outside memory: event counters and their interrupts (R216, R372), hardware barriers (R258),
collectives (R192, R262). -/

namespace Sys2Proof.Machine

/-- A write to the line is performed at system scope: no invalidation and no snoop is out (R153, R374). -/
def State.lineDone (s : State) (line : Nat) : Bool := (s.dir line).pending == 0 && !(s.dir line).snoop

def State.peerPort (s : State) (p : Nat) : PeerPort := s.peerPorts.get PeerPort.reset p
def State.modPeerPort (s : State) (p : Nat) (f : PeerPort → PeerPort) : State :=
  { s with peerPorts := s.peerPorts.put PeerPort.reset p (f (s.peerPort p)) }

/-- The port that a message leaves by is up: one on a downed port waits (R399). -/
def State.carries (s : State) : Sent → Bool
  | .msix p _ | .hostData p _ _ => (s.hostPort p).up
  | .peerReply p _ => (s.peerPort p).up
  | _ => true

/-- A message may leave: the writes that it announces are performed at system scope. -/
def State.sendDue (s : State) (x : List Nat × Sent) : Bool := x.1.all s.lineDone && s.carries x.2

/-- What announces writes is sent once they are performed at system scope. -/
def State.sendAfter (s : State) (lines : List Nat) (m : Sent) : State :=
  if s.sendDue (lines, m) then { s with sent := s.sent ++ [m] } else { s with pendSent := s.pendSent ++ [(lines, m)] }

/-- An interrupt message, on a port whose MSI-X is enabled, that announces writes to lines (R372). -/
def State.msixAfter (s : State) (lines : List Nat) (port vector : Nat) : State :=
  if (s.hostPort port).msix then s.sendAfter lines (.msix port vector) else s

def State.msix (s : State) (port vector : Nat) : State := s.msixAfter [] port vector

/-- Messages that may leave now do. -/
def State.settleSent (s : State) : State :=
  let due := s.sendDue
  { s with sent := s.sent ++ (s.pendSent.filter due).map (·.2), pendSent := s.pendSent.filter fun x => !due x }

/-! ## Event counters (R216) -/

def State.ev (s : State) (c k : Nat) : Word := (s.ctx c).ev.get 0 k

/-- EVSUM (R216). -/
def State.evSum (s : State) (c : Nat) : Word := (s.ctx c).ev.foldl (fun a kv => a + kv.2) 0

/-- One increment; EV0 and EV1 interrupt where FLAGS says so (R352, R372, R385). -/
def State.evAdd (s : State) (c k : Nat) : State :=
  let s := s.modCtx c fun x => { x with ev := x.ev.put 0 k (x.ev.get 0 k + 1) }
  let x := s.ctx c
  if (k == 0 && x.flags.getLsbD 1) || (k == 1 && x.flags.getLsbD 2) then s.msix x.irqPort c else s

/-- A post, with the host interrupt of .irq (R234). -/
def State.evPost (s : State) (c k : Nat) (irq : Bool) : State :=
  let s := s.evAdd c k
  if irq then s.msix (s.ctx c).irqPort c else s

/-! ## Barriers (R257 to R259) -/

def Partition.barrier (p : Partition) (b : Nat) : Barrier := p.barriers.get Barrier.reset b

/-- An arrival: the phase joined with the bit that closed it, and the barrier after it (R258). -/
def Barrier.arrive (x : Barrier) (n : Nat) : Word × Barrier :=
  let expected := if x.arrivals == 0 then (if n == 0 then 1 else n) else x.expected
  let closed := x.arrivals + 1 == expected
  (word (x.phase.toNat + bit closed <<< 16),
   if closed then { phase := x.phase + 1, arrivals := 0, expected := expected }
   else { x with arrivals := x.arrivals + 1, expected := expected })

def State.partByHandle? (s : State) (h : Nat) : Option Partition := s.parts.find? (·.handle == h)

/-- An arrival reaches the configuration unit of a partition. -/
def State.barArrive (s : State) (part b n : Nat) : Word × State :=
  match s.partByHandle? part with
  | none => (0, s)
  | some p =>
    let (v, x) := (p.barrier b).arrive n
    (v, s.modPart part fun p => { p with barriers := p.barriers.put Barrier.reset b x })

/-! ## Collectives (R192, R262) -/

/-- Combines two values of a type, as bit patterns of its width. -/
def collCombine (op : Nat) (t : Ty) (a b : Nat) : Nat :=
  let w := t.lane
  if t == .f32 then
    match op with
    | 0 => faddCode fmtF32 .rne false 0 a b
    | 1 => fminCode fmtF32 a b
    | _ => fmaxCode fmtF32 a b
  else
    let x := intVal w t.isSigned a
    let y := intVal w t.isSigned b
    match op with
    | 0 => (a + b) % 2 ^ w
    | 1 => if y < x then b else a
    | _ => if x < y then b else a

/-- The value that leaves the router of (bx, by): below the first row the local value with the south child's; `n` is
the number of rows left to the south. -/
def collColumn {α : Type} (f : α → α → α) (v : Nat → Nat → α) (bx : Nat) : Nat → Nat → α
  | 0, by_ => v bx by_
  | n + 1, by_ => f (v bx by_) (collColumn f v bx n (by_ + 1))

/-- Along the first row: local, then east, then south. -/
def collRow {α : Type} (f : α → α → α) (v : Nat → Nat → α) (wy : Nat) : Nat → Nat → α
  | 0, bx => if wy ≤ 1 then v bx 0 else f (v bx 0) (collColumn f v bx (wy - 2) 1)
  | n + 1, bx =>
    let local_ := f (v bx 0) (collRow f v wy n (bx + 1))
    if wy ≤ 1 then local_ else f local_ (collColumn f v bx (wy - 2) 1)

/-- Contributions of the lowest open round of a collective. -/
def Partition.openRound (p : Partition) (id : Nat) : List Contrib :=
  let cs := p.colls.filter (·.id == id)
  match cs with
  | [] => []
  | c :: _ =>
    let r := cs.foldl (fun a x => min a x.round) c.round
    cs.filter (·.round == r)

/-- Every participant of the round has contributed (R261, R262). -/
def roundComplete (cs : List Contrib) : Bool :=
  match cs with
  | [] => false
  | c :: _ => (upto c.wx).all fun x => (upto c.wy).all fun y => cs.any fun d => d.bx == x && d.by_ == y

/-- A value with the code that poisons it; of two poisoned children the first in the order of the combination counts, so that
the result does not depend on the order of arrival (R192, R396). -/
abbrev CollVal := Nat × Option Code

/-- No payload of a NaN reaches a result, of one contribution as of many (R72, R262). -/
def collCanon (t : Ty) (x : Nat) : Nat := if t == .f32 then fmtF32.noPayload x else x

/-- The result of a round: value, poison; `none` where contributions differ in descriptor or type (R262). -/
def roundResult (cs : List Contrib) : Option CollVal :=
  match cs with
  | [] => none
  | c :: _ =>
    if cs.any fun d => !(d.wx == c.wx && d.wy == c.wy && d.op == c.op && d.ty == c.ty) then none
    else
      let v (x y : Nat) : CollVal :=
        match cs.find? fun d => d.bx == x && d.by_ == y with
        | some d => (d.val.toNat % 2 ^ c.ty.lane, d.psn)
        | none => (0, none)
      let join (a b : CollVal) : CollVal := (collCombine c.op c.ty a.1 b.1, a.2.or b.2)
      let r := collRow join v c.wy (c.wx - 1) 0
      some (collCanon c.ty r.1, r.2)

/-- A contribution enters its round (R262). -/
def State.contribute (s : State) (part : Nat) (c : Contrib) : State :=
  s.modPart part fun p => { p with colls := p.colls ++ [c] }

end Sys2Proof.Machine
end

