-- ==== Sys2Proof/Machine/Request.lean ====
section
/-! DEFINITION. Requests from a reel to memory: what one waits for, how it is performed (R139 to R158), how its reply
lands, and how an instruction sends it (R147 to R149, R243). -/

namespace Sys2Proof.Machine

/-! ## KV pages (R155, R158) -/

def kvMagic : Nat := 0x4B56
def pageBase (pa : Nat) : Nat := pa / 65536 * 65536

/-- STATE of a KV page; `none` when it is blank. -/
def State.kvState (s : State) (page : Nat) : Option Nat :=
  if s.memWord (65536 * page) 2 == kvMagic then some (s.memWord (65536 * page + 3) 1) else none

/-- The ageing engine that converts the page has stopped new accesses to it (R159). -/
def State.kvClosed (s : State) (page : Nat) : Bool :=
  s.ageing.any fun kv => match kv.2.conv with
    | some c => c.page == page && c.step != .staging
    | none => false

def State.ageing? (s : State) (stack : Nat) : Ageing := s.ageing.get Ageing.reset stack
def State.modAgeing (s : State) (stack : Nat) (f : Ageing → Ageing) : State :=
  { s with ageing := s.ageing.put Ageing.reset stack (f (s.ageing? stack)) }

/-- An access has arrived at a page that a conversion holds it from: it is counted, once (R159, R463). -/
def State.noteHold (s : State) (page key : Nat) : State :=
  if !s.kvClosed page then s
  else s.modAgeing (homeOfDram (65536 * page)).1 fun a =>
    if a.holds.any (·.1 == key) then a
    else { a with heldCount := a.heldCount + 1, holds := a.holds ++ [(key, s.tick)] }

def State.noteHolds (s : State) (key : Nat) (pages : List Nat) : State :=
  pages.eraseDups.foldl (fun s p => s.noteHold p key) s

/-- What a conversion held goes on: the longest of the holds so far is kept (R463). -/
def State.endHolds (s : State) (stack : Nat) : State :=
  s.modAgeing stack fun a =>
    { a with holds := []
             longest := a.holds.foldl (fun n h => BitVec.ofNat 32 (max n.toNat (s.tick - h.2))) a.longest }

inductive Verdict where
  | allow | refuse | wait
  deriving DecidableEq, Repr

/-- The judgement of a write to a KV page (R158): `zero2` for a 2-byte store of zero to bytes 0 and 1. A page that a
reset left in STATE 2 is judged as CONVERTED (R435). -/
def State.kvJudge (s : State) (page : Nat) (zero2 : Bool) : Verdict :=
  if s.kvClosed page then .wait
  else match s.kvState page with
    | none => .allow
    | some 0 => .allow
    | some _ => if zero2 then .allow else .refuse

/-- A blanked page leaves the registry of its ageing engine, which gives up a conversion that is still staging (R158, R159,
R393). -/
def State.kvForget (s : State) (page : Nat) : State :=
  { s with ageing := s.ageing.map fun kv => (kv.1,
      { kv.2 with registry := kv.2.registry.filter fun e => e.1 != page
                  conv := kv.2.conv.filter fun c => c.page != page || c.step != .staging }) }

/-! ## Atomics (R250 to R253) -/

/-- Width in bytes of an atomic (R249). -/
def atomBytes (t : Ty) : Nat :=
  match t with
  | .f16 | .bf16 => 2
  | .i32 | .n32 | .f32 => 4
  | _ => 8

/-- The new value of a single-address atomic; `none` when nothing is written. -/
def atomNew (opc : BitVec 8) (t : Ty) (old x y : Nat) : Option Nat :=
  let w := 8 * atomBytes t
  let lt (a b : Nat) : Bool := decide (intVal w t.isSigned a < intVal w t.isSigned b)
  match opc.toNat with
  | 0x50 => some ((old + x) % 2 ^ w)
  | 0x51 => some (roundTo t.fmt .rne false 0 (sumF .rne [t.dec old, t.dec x]))
  | 0x52 => some (if lt x old then x else old)
  | 0x53 => some (if lt old x then x else old)
  | 0x54 => some (old &&& x)
  | 0x55 => some (old ||| x)
  | 0x56 => some (old ^^^ x)
  | 0x57 => some x
  | _ => if old == x then some y else none

/-- New values of a two-address atomic from the two old ones, and what it returns (R252, R253). -/
def atomNew2 (opc : BitVec 8) (t : Ty) (o1 o2 x y : Nat) : Option (Nat × Nat) × Nat :=
  let w := 8 * atomBytes t
  match opc.toNat with
  | 0x59 =>
    (if o1 == x % 2 ^ 32 && o2 == x / 2 ^ 32 % 2 ^ 32 then some (y % 2 ^ 32, y / 2 ^ 32 % 2 ^ 32) else none, o2 * 2 ^ 32 + o1)
  | 0x5A => (some (x % 2 ^ w, o1), o1)
  | _ => (some ((o1 + x) % 2 ^ w, (o2 + y) % 2 ^ w), if w == 32 then o2 * 2 ^ 32 + o1 else o1)

/-- The type under which an atomic's reply is widened: none where two 32-bit words return together. -/
def replyTy (opc : BitVec 8) (t : Ty) : Ty :=
  if (opc == 0x59 || opc == 0x5B) && atomBytes t == 4 then .none else t

/-- widen(b, T) of R249. -/
def widen (t : Ty) (b : Nat) : Word :=
  let w := match t with | .none => 64 | t => t.lane
  if t.isSigned then wordOfInt (signed w b) else word (b % 2 ^ w)

/-! ## Order among requests -/

/-- The value of a read is fixed: it has reached the reel, or a later access of the strand has begun (R139, R238). -/
def Req.valued (q : Req) : Bool :=
  match q.op with
  | .read _ => q.fixed || q.dst == .none
  | _ => true

def Req.isRead (q : Req) : Bool :=
  match q.op with
  | .read _ => true
  | _ => false

/-- Done for a party that waits at a scope (R139, R153, R374). -/
def State.reqDone (s : State) (q : Req) (scope : Nat) : Bool :=
  q.stage != .sent && q.valued && (scope < 3 || q.lines.all fun l => (s.dir l).pending == 0) &&
    (scope < 4 || q.lines.all fun l => !(s.dir l).snoop)

/-- Requests of a list that a release at a scope still awaits. -/
def State.allDone (s : State) (ids : List Nat) (scope : Nat) : Bool :=
  ids.all fun i => (s.reqs.find? (·.id == i)).all fun q => s.reqDone q scope

/-- First physical address of a request. -/
def Req.homePa (q : Req) : Nat := (q.units.map (·.pa)).headD 0

/-- The port that serves a request on host memory: by the windows at its issue (R373). -/
def State.reqPort (s : State) (q : Req) (pa : Nat) : Option Nat :=
  (windowIn q.wins (pa - hostBase)).map (s.windowPort (pa - hostBase))

/-- A request on host memory waits: no port of its window serves (R399). -/
def State.portDown (s : State) (q : Req) (pa : Nat) : Bool :=
  hostBase ≤ pa && (s.reqPort q pa).any fun p => !(s.hostPort p).serves

/-- Where a request is applied and its record kept: a home, or a configuration unit (R400). -/
def State.reqHome (s : State) (q : Req) : Nat :=
  match q.op with
  | .bara part _ _ | .coll part _ => unitHome part
  | .post c _ _ => counterHome c
  | _ => if hostBase ≤ q.homePa then portField ((s.reqPort q q.homePa).getD 0) else s.homeField q.homePa

def unitSectors (us : List Unit') : List Nat := (us.flatMap fun u => sectorsOf u.pa u.w).eraseDups
def unitLines (us : List Unit') : List Nat := (us.flatMap fun u => linesOf u.pa u.w).eraseDups

def Req.sectors (q : Req) : List Nat := unitSectors q.units

/-- A request that an `after` list names no longer holds the request `q` back; one that follows a refused store never goes
(R386). A release at field scope passes writes to other bytes that the field's far cache has taken (R139, R147). -/
def State.depDone (s : State) (q : Req) (id : Nat) : Bool :=
  match s.reqs.find? (·.id == id) with
  | none => true
  | some d => !d.refused && (s.reqDone d (if q.rel || (q.sync && d.sync) then q.scope else 0) ||
      (q.rel && q.scope == 2 && !d.sync && !d.taken.isEmpty && (unitLines d.left).all d.taken.contains &&
        !d.sectors.any q.sectors.contains))

/-- A unit of the request lies on a KV page (R155). -/
def Req.kv (q : Req) : Bool := q.units.any (·.kv)

/-- Marks of the page of an address that the request touches. -/
def Req.kvAt (q : Req) (pa : Nat) : Bool := q.units.any fun u => u.kv && u.pa / 65536 == pa / 65536
def Req.fcAt (q : Req) (pa : Nat) : Bool := q.units.any fun u => u.fc && u.pa / 65536 == pa / 65536

/-- Reads at a home, atomics among them, wait for the invalidations of a line that another field wrote (R153), and for a write
of their own field that its far cache has taken already (R142). -/
def State.readHeld (s : State) (f pa : Nat) : Bool :=
  pa < dramTop && ((s.dir (pa / 256)).holds f || s.takenBy f 0 (pa / 256))

def Req.stateChanging (q : Req) : Bool :=
  match q.op with
  | .read _ | .fence | .eret _ _ | .cline _ _ => false
  | _ => true

/-- The access may be performed in L1: DRAM, no KV page, strand or reel scope (R135, R139). -/
def Req.inL1 (q : Req) (pa : Nat) : Bool := q.scope < 2 && pa < dramTop && !q.kvAt pa

/-- A read at field scope or narrower may be served by the field's far cache (R139). -/
def State.reqFar (s : State) (q : Req) (pa : Nat) : Bool :=
  !q.kvAt pa && q.scope ≤ 2 && s.farHolds (fieldOfReel q.reel) (q.fcAt pa) pa

/-- What keeps a request from being performed now (R142, R147, R153, R159, R399, R400, R429). -/
def State.reqHeld (s : State) (q : Req) : Bool :=
  let f := fieldOfReel q.reel
  !q.after.all (s.depDone q) || (q.left.any fun u => s.portDown q u.pa || s.busTesting u.pa) ||
  (q.left.any fun u => u.kv && s.kvClosed (u.pa / 65536)) ||
  (match q.op with
   | .read _ => q.left.any fun u => s.readHeld f u.pa && !(s.reqFar q u.pa && s.inFar f (u.pa / 256))
   | .atomic _ => q.left.any fun u => s.readHeld f u.pa
   | .write _ | .writeback => q.left.any fun u => u.pa < dramTop && s.takenBy f q.id (u.pa / 256)
   | _ => false) ||
  (q.stateChanging && s.replayFull q.reel (s.reqHome q))

/-- An L1 write-back of the reel to the range is still on its way (R150). -/
def State.backFlying (s : State) (r pa n : Nat) : Bool :=
  s.reqs.any fun q => q.reel == r && q.op == ReqOp.writeback && q.stage == Stage.sent &&
    q.left.any fun u => u.pa < pa + n && pa < u.pa + u.w

/-- An access of a reel to a translated part of memory, made at its home, must wait: for a page in conversion, a host port, a bus
under test, a place among the home's records, the invalidations and the far copy of its lines (R142, R153, R159, R399, R400,
R429). -/
def State.pieceWaits (s : State) (r : Nat) (read : Bool) (x : Nat × Nat × Word) : Bool :=
  let f := fieldOfReel r
  let ls := linesOf x.1 x.2.1
  (pteKv x.2.2 && s.kvClosed (x.1 / 65536)) || s.hostDown x.1 || s.busTesting x.1 ||
  (!read && s.replayFull r (s.homeField x.1)) ||
  (x.1 < dramTop && ls.any fun n => if read then s.readHeld f (256 * n) else s.takenBy f 0 n)

/-! ## Performing -/

/-- Bytes that a request carries for a unit. -/
def Req.unitBytes (q : Req) (u : Unit') : List PByte := (upto u.w).map fun i => q.byteAt (u.pos + i)

/-- The runs that units of a request write, bytes of later units last (R287). -/
def Req.runs (q : Req) (us : List Unit') : List Run :=
  us.foldl (fun rs u => (upto u.w).foldl (fun rs i => addByte (q.byteAt (u.pos + i)) (u.pa + i) rs) rs) []

/-- Puts a byte into a reply; a poisoned one sets its granule, the first code staying. -/
def replyByte (acc : VWord × BitVec 64) (pos : Nat) (b : PByte) : VWord × BitVec 64 :=
  let g := pos / 4
  if acc.2.getLsbD g then acc
  else match b.2 with
    | some c =>
      ((acc.1 &&& ~~~(0xFFFFFFFF#2048 <<< (32 * g))) ||| (c.zeroExtend 2048 <<< (32 * g)), setBit acc.2 g true)
    | none => (acc.1 ||| (b.1.zeroExtend 2048 <<< (8 * pos)), acc.2)

/-- Joins the bytes of units, each by its physical address, to a reply. -/
def replyOf (acc : VWord × BitVec 64) (us : List Unit') (byte : Nat → PByte) : VWord × BitVec 64 :=
  us.foldl (fun acc u => (upto u.w).foldl (fun acc i => replyByte acc (u.pos + i) (byte (u.pa + i))) acc) acc

def State.setReq (s : State) (q : Req) : State := { s with reqs := listMod (fun x => x.id == q.id) (fun _ => q) s.reqs }
def State.req? (s : State) (id : Nat) : Option Req := s.reqs.find? (·.id == id)

/-- Requests of a reel that touch the same sectors and are not performed. -/
def State.overlaps (s : State) (r : Nat) (ks : List Nat) : List Nat :=
  (s.reqs.filter fun q => q.reel == r && q.stage == .sent && q.sectors.any ks.contains).map (·.id)

/-- A run cut into the 8-byte units in which a write-back is performed (R141). -/
def runUnits (run : Run) : List Unit' :=
  (upto ((run.1 % 8 + run.2.length + 7) / 8)).map fun i =>
    let lo := max run.1 (run.1 / 8 * 8 + 8 * i)
    let hi := min (run.1 + run.2.length) (run.1 / 8 * 8 + 8 * i + 8)
    { pa := lo, w := hi - lo, pos := lo % 128 }

/-- Older write-backs of a sector on their way. -/
def State.backsOf (s : State) (r k : Nat) : List Nat :=
  (s.reqs.filter fun q => q.reel == r && q.stage == .sent && q.op == ReqOp.writeback && q.sectors.contains k).map (·.id)

/-- What the reel has sent to a sector follows a write-back of the bytes that were dirty there before (R140, R142). -/
def State.followBack (s : State) (r k id : Nat) : State :=
  { s with reqs := listMod (fun q => q.reel == r && q.stage == .sent && q.op != ReqOp.writeback && q.sectors.contains k)
                          (fun q => { q with after := q.after ++ [id] }) s.reqs }

/-- Writes back the dirty bytes of sectors of a reel's L1, as requests of the reel's own: after older write-backs, and before
what is still on its way to the sector (R136, R140, R142, R147). -/
def State.writeBackOf (s : State) (r : Nat) (ks : List Nat) : List Nat × State :=
  ks.foldl (fun (acc : List Nat × State) k =>
    let s := acc.2
    let v := (s.reel r).sector k
    if v.dirty == 0 then acc
    else
      let us := ((s.reel r).dirtyRuns k).flatMap runUnits
      let before := s.backsOf r k
      let (id, s) := s.fresh
      let s := s.followBack r k id
      let q : Req :=
        { id := id, reel := r, slot := 8, handle := 0, ctx := 0, task := none, pc := 0, op := .writeback, ty := .none
          units := us, left := us, data := v.data.zeroExtend 2048, dpsn := v.psn.zeroExtend 64, data2 := 0, scope := 3
          acq := false, rel := false, sync := false, dst := .none, after := before, stage := .sent, reply := 0, rpsn := 0
          fixed := false, refused := false, dup := 0, lines := [] }
      (id :: acc.1, { s with reqs := s.reqs ++ [q] }.modReel r fun x => x.clean k)) ([], s)

def State.writeBack (s : State) (ks : List Nat) : List Nat × State := s.writeBackOf s.cur.reel ks

/-- The L1 of a reel gives up a sector: dirty bytes go down as a request, a clean sector is dropped (R136). -/
def State.l1Evict (s : State) (r k : Nat) : State :=
  if ((s.reel r).sector k).dirty == 0 then s.modReel r fun x => x.setSector k Sector.empty
  else (s.writeBackOf r [k]).2

/-- Lines of an L1 of 64 KiB (R135). -/
def l1Lines : Nat := 256

/-- The L1 makes room for a sector's line: another line leaves a full one, one marked to be evicted first where there is one
(R102), and else which no rule names (log entry 2). -/
def State.l1Room (s : State) (r k : Nat) : State :=
  let ls := ((s.reel r).l1.keys.map (· / 2)).eraseDups
  if ls.length < l1Lines || ls.contains (k / 2) then s
  else
    let first := ((SMap.keys ((s.reel r).l1.filter fun (kv : Nat × Sector) => kv.2.ef)).map (· / 2)).eraseDups
    let from_ := if first.isEmpty then ls else first
    let (v, s) := s.drawChoice from_.length
    let l := from_.getD v 0
    [2 * l, 2 * l + 1].foldl (fun s k => (s.l1Evict r k).modReel r fun x => x.setSector k Sector.empty) s

/-- Sectors that an access has allocated in L1 are marked under .ef (R102): `had` tells those that L1 held before. -/
def State.markFirst (s : State) (r : Nat) (ef : Bool) (had : Nat → Bool) (ks : List Nat) : State :=
  if !ef then s
  else ks.foldl (fun s k =>
    if had k || (s.reel r).sector k == Sector.empty then s
    else s.modReel r fun x => x.setSector k { x.sector k with ef := true }) s

/-- Sectors that the L1 of a reel holds. -/
def State.hadL1 (s : State) (r k : Nat) : Bool := (s.reel r).sector k != Sector.empty

/-- Units of a read performed (R136, R139, R140): through L1 with a fill, past L1 under .na, or at the point of its scope.
The reply takes their bytes. -/
def State.performRead (s : State) (q : Req) (us : List Unit') (fill : Bool) : State × Req :=
  let r := q.reel
  let f := fieldOfReel r
  let filled := if fill then (unitSectors us).filter fun k => q.inL1 (128 * k) else []
  let s := (filled.foldl (fun s k => (s.l1Room r k).l1Fill r (q.fcAt (128 * k)) k) s).markFirst r q.ef (s.hadL1 r) filled
  let s := (unitLines us).foldl (fun s n =>
    if q.inL1 (256 * n) && fill || q.kvAt (256 * n) then s
    else if s.reqFar q (256 * n) && !s.inFar f n then s.farFill f n else s.homeTouch false n) s
  let byte (pa : Nat) : PByte :=
    if q.inL1 pa && (s.reel r).l1Valid pa then (s.reel r).l1Byte pa
    else if q.inL1 pa then s.lowerByte r (s.reqFar q pa) pa
    else s.belowByte f (s.reqFar q pa) pa
  let rep := replyOf (q.reply, q.rpsn) us byte
  let s := if q.scope < 2 then s
    else s.modReel r fun x => ((unitSectors us).filter fun k => !q.kvAt (128 * k)).foldl Reel.dropSector x
  (s, { q with reply := rep.1, rpsn := rep.2 })

/-- A store goes into L1 where the access may be performed there, unless .na would allocate a sector (R102, R136). -/
def State.storesInL1 (s : State) (q : Req) (alloc : Bool) (pa : Nat) : Bool :=
  q.inL1 pa && (alloc || (s.reel q.reel).sector (pa / 128) != Sector.empty)

/-- A run cut at the sectors' boundaries. -/
def Run.bySector (run : Run) : List Run :=
  (sectorsOf run.1 run.2.length).map fun k =>
    let lo := max run.1 (128 * k)
    let hi := min (run.1 + run.2.length) (128 * k + 128)
    (lo, (run.2.drop (lo - run.1)).take (hi - lo))

/-- Units of a write performed: into L1 for a plain one, else at the home with any L1 copy following (R140). -/
def State.performWrite (s : State) (q : Req) (us : List Unit') (alloc : Bool) : State :=
  let had := s.hadL1 q.reel
  let stored := (unitSectors us).filter fun k => s.storesInL1 q alloc (128 * k)
  (((q.runs us).flatMap Run.bySector).foldl (fun s run =>
    if s.storesInL1 q alloc run.1 then (s.l1Room q.reel (run.1 / 128)).l1Store q.reel (q.fcAt run.1) run.1 run.2
    else
      let s := s.homeWrite (fieldOfReel q.reel) true run.1 run.2
      if q.kvAt run.1 then s else (s.homeTouch true (run.1 / 256)).l1Follow q.reel run.1 run.2) s).markFirst q.reel q.ef had stored

/-- Units of a write-back performed. -/
def State.performBack (s : State) (q : Req) (us : List Unit') : State :=
  ((q.runs us).flatMap Run.bySector).foldl (fun s run =>
    (s.homeWrite (fieldOfReel q.reel) true run.1 run.2).homeTouch true (run.1 / 256)) s

/-- An atomic at its home; a poisoned location leaves every location as it is (R250 to R254). -/
def State.performAtomic (s : State) (q : Req) (opc : BitVec 8) : State × Req :=
  let f := fieldOfReel q.reel
  let old := q.units.map fun u => s.memBytes u.pa u.w
  let val (k : Nat) : Nat := natOfBytes (plainBytes (old.getD k []))
  let x := bitsOf q.data 0 64
  let y := bitsOf q.data2 0 64
  let w := 2 ^ (8 * atomBytes q.ty)
  let put (s : State) (k : Nat) (v : Nat) : State :=
    let u := q.units.getD k { pa := 0, w := 0, pos := 0 }
    (s.homeWrite f true u.pa ((bytesOf (BitVec.ofNat 64 v) u.w).map fun b => (b, none))).homeTouch true (u.pa / 256)
  let (s, ret) := match old.findSome? firstCode with
    | some c => (s, (BitVec.ofNat 2048 c.toNat, 1#64))
    | none =>
      if q.units.length == 2 then
        let (new, ret) := atomNew2 opc q.ty (val 0) (val 1) x y
        ((match new with
          | some (a, b) => put (put s 0 a) 1 b
          | none => s), (BitVec.ofNat 2048 ret, 0#64))
      else ((match atomNew opc q.ty (val 0) (x % w) (y % w) with
          | some a => put s 0 a
          | none => s), (BitVec.ofNat 2048 (val 0), 0#64))
  (s.modReel q.reel fun r => q.sectors.foldl Reel.dropSector r, { q with reply := ret.1, rpsn := ret.2 })

/-- An acquire at a scope where nothing is left to wait for (R29, R148, R217). -/
def State.acquireNow (s : State) (r : StrandRef) (scope : Nat) : State :=
  if 2 ≤ scope then s.modReel r.reel Reel.dropClean else s

/-- An acquire is performed: L1 drops its clean bytes at field scope or wider, and the strand goes on (R148). -/
def State.acquired (s : State) (q : Req) : State :=
  let s := if 2 ≤ q.scope then s.modReel q.reel Reel.dropClean else s
  match s.slotOf? q.reel q.slot q.handle with
  | some r => s.modSlot r fun t => { t with acqs := t.acqs.filter (· != q.id) }
  | none => s

/-- A fence that later writes await is performed (R143). -/
def State.fenced (s : State) (q : Req) : State :=
  match q.op, s.slotOf? q.reel q.slot q.handle with
  | .fence, some r => s.modSlot r fun t => { t with fences := t.fences.filter (· != q.id) }
  | _, _ => s

/-- ERET (R227): the status of the answer, and the state in which the strand goes on. -/
def State.eret (s : State) (ctx h : Nat) (skip : Bool) : Word × State :=
  match s.strand? ctx h with
  | some r =>
    if (s.slot r).phase != .faulted then (statusWord 0x0102 0, s)
    else (0, ((s.resumeFaulted r skip).settleDraining r).acquireNow r 3)
  | none => (statusWord (if (s.savedAt? h).any fun x => x.1.ctx == ctx then 0x0102 else 0x0101) 0, s)

/-- CLINE on a line of a reel (R246): write back, discard from the data L1, the instruction L1 or the far cache. -/
def State.cline (s : State) (r op line : Nat) : State :=
  let ks := [2 * line, 2 * line + 1]
  if op == 2 then s.modReel r fun x => { x with icache := x.icache.clear (32 * line) 32 }
  else
    let s := (s.writeBackOf r ks).2
    let s := if op == 0 then s else s.modReel r fun x => ks.foldl Reel.dropSector x
    if op == 3 then s.farDrop (fieldOfReel r) line else s

/-- A write to KV pages is refused: one of its pages refuses it, except a 2-byte zero that blanks the page (R158). A home
judges each of its pages; the parts of a request on several pages are judged before any is written (R237). The page that
refuses. -/
def State.kvRefusal? (s : State) (q : Req) : Option Nat :=
  let zero2 := match q.units with
    | [u] => u.w == 2 && u.pa % 65536 == 0 && (q.unitBytes u).all fun b => b.1 == 0 && b.2.isNone
    | _ => false
  (q.units.find? fun u => u.kv && s.kvJudge (u.pa / 65536) zero2 == Verdict.refuse).map (·.pa / 65536)

/-- Units of a store are performed, unless a KV page refuses it, whose number is then the reply: that is judged before any of them
is written (R158, R237). A page that they blank leaves its registry. -/
def State.performStore (s : State) (q : Req) (us : List Unit') (alloc : Bool) : State × Req :=
  match if q.left.length < q.units.length then none else s.kvRefusal? q with
  | some p => (s, { q with refused := true, reply := BitVec.ofNat 2048 p })
  | none =>
    let known := (((us.filter (·.kv)).map (·.pa / 65536)).eraseDups).filter fun p => (s.kvState p).isSome
    let below := us.filter fun u => !s.storesInL1 q alloc u.pa
    let s := s.performWrite q us alloc
    let s := known.foldl (fun s p => if (s.kvState p).isNone then s.kvForget p else s) s
    (s, { q with lines := (q.lines ++ unitLines below).eraseDups })

/-- What a request does at its point: the units that are left of it, and its reply (R139, R140, R151, R158). -/
def State.performOp (s : State) (q : Req) : State × Req :=
  match q.op with
  | .read fill => s.performRead q q.left fill
  | .write alloc => s.performStore q q.left alloc
  | .writeback => (s.performBack q q.left, { q with lines := unitLines q.units })
  | .atomic opc => let (s, q) := s.performAtomic q opc; (s, { q with lines := unitLines q.units })
  | .fence => (s, q)
  | .bara part b n => let (v, s) := s.barArrive part b n; (s, { q with reply := v.zeroExtend 2048 })
  | .coll part c => (s.contribute part c, q)
  | .post c k irq => let s := s.evPost c k irq; (s, { q with reply := (s.ev c k).zeroExtend 2048 })
  | .eret h skip => let (w, s) := s.eret q.ctx h skip; (s, { q with reply := w.zeroExtend 2048 })
  | .cline op line => (s.cline q.reel op line, q)

/-- An access that goes past the L1 finds dirty bytes of its sectors there: they are written back first (R140, R151). -/
def State.mustFlush (s : State) (q : Req) : Bool :=
  (2 ≤ q.scope || (match q.op with | .atomic _ => true | _ => false)) &&
  q.op != ReqOp.writeback && q.sectors.any fun k => 128 * k < dramTop && ((s.reel q.reel).sector k).dirty != 0

/-- The write-back that the request awaits. -/
def State.flush (s : State) (q : Req) : State := (s.writeBackOf q.reel (q.sectors.filter fun k => 128 * k < dramTop)).2

/-- A request is performed, and the home keeps a record of it (R400). A read that acquires does so when its value is fixed (R139,
R148, R238). -/
def State.perform (s : State) (q : Req) : State :=
  let (s, q) := s.performOp q
  let s := s.setReq { q with stage := .applied, left := [] }
  let s := if q.stateChanging then s.keepReplay q.reel (s.reqHome q) q.id else s
  let s := s.fenced q
  if q.acq && !q.isRead then s.acquired q else s

/-! ## Replies -/

/-- The code that a scalar's data carry: of its first poisoned granule (R395). -/
def replyCode (rep : VWord × BitVec 64) : Option Code :=
  (upto 2).findSome? fun g => if rep.2.getLsbD g then some (rep.1.extractLsb' (32 * g) 32) else none

/-- Data lands in a register: a scalar widened, or the bytes of the enabled elements of a vector (R44, R240, R395). -/
def Slot.land (c : Nat) (t : Slot) (dst : ReqDst) (ty : Ty) (units : List Unit') (rep : VWord × BitVec 64) : Slot :=
  match dst with
  | .none => t
  | .s n =>
    t.setS n (SReg.of [replyCode rep] (widen ty (bitsOf rep.1 0 64)))
  | .v n =>
    let x := t.getV n
    let y := units.foldl (fun (x : VReg) u =>
      let m := (BitVec.allOnes (8 * u.w)).zeroExtend 2048 <<< (8 * u.pos)
      let g := u.pos / 4
      -- a granule whose earlier element came poisoned stays so
      if x.psn.getLsbD g && u.w < 4 then x
      else { val := (x.val &&& ~~~m) ||| (rep.1 &&& m), psn := setBit x.psn g (rep.2.getLsbD g) }) x
    -- a granule with poison holds the code whole
    let y := (onesOf rep.2).foldl (fun (y : VReg) g => y.setGranule g (rep.1.extractLsb' (32 * g) 32) true) y
    t.arriveV c n y

def ReqDst.reg : ReqDst → Option Reg
  | .none => Option.none
  | .s n => some (.s n)
  | .v n => some (.v n)

/-- The type under which a request's reply is widened. -/
def Req.wideTy (q : Req) : Ty :=
  match q.op with
  | .atomic opc => replyTy opc q.ty
  | _ => q.ty

/-- The reply reaches the reel: its data lands where a register waits for it, which is no longer pending (R46, R240). -/
def State.landReply (s : State) (q : Req) : State :=
  match s.slotOf? q.reel q.slot q.handle with
  | some r =>
    let t := s.slot r
    let u := if t.pend.any (·.2 == q.id) then t.land (s.reel r.reel).cycle q.dst q.wideTy q.units (q.reply, q.rpsn) else t
    s.setSlot r { u with pend := u.pend.filter (·.2 != q.id) }
  | none => s

/-- A unit of a read that has hit L1 takes its bytes anew, before the result's latency is over (R48, R141). -/
def State.rereadUnit (s : State) (q : Req) (u : Unit') : State :=
  match q.hit, q.dst.reg, s.slotOf? q.reel q.slot q.handle with
  | some d, some g, some r =>
    let x := s.reel q.reel
    if q.fixed || d ≤ x.cycle || !((s.slot r).readyAt.contains (g, d)) || !((upto u.w).all fun i => x.l1Valid (u.pa + i)) then s
    else
      let old := if q.rpsn.getLsbD (u.pos / 4) then q.reply
        else q.reply &&& ~~~((BitVec.allOnes (8 * u.w)).zeroExtend 2048 <<< (8 * u.pos))
      let rep := replyOf (old, q.rpsn) [u] x.l1Byte
      (s.setReq { q with reply := rep.1, rpsn := rep.2 }).modSlot r fun t =>
        let y := t.land x.cycle q.dst q.wideTy q.units rep
        { t with s := y.s, v := y.v }
  | _, _, _ => s

/-- A group of vector elements on a KV page, which its home performs at one instant (R288). -/
def Req.whole (q : Req) : Bool := q.kv && q.ty == .none

/-- One unit of a request is performed while others are left: those of a read, of a store, of a write-back have no order among
themselves, but that a later element replaces an earlier one (R141, R287). -/
def State.performUnit (s : State) (q : Req) (k : Nat) : State :=
  match q.left.drop k with
  | [] => s
  | u :: _ =>
    let one := { q with left := [u] }
    let rest := q.left.eraseIdx k
    if q.hit.isSome then s.rereadUnit q u
    else if rest.isEmpty || q.whole || ((q.left.take k).any fun v => v.pa < u.pa + u.w && u.pa < v.pa + v.w) || s.reqHeld one then s
    else if s.mustFlush one then s.flush q
    else match q.op with
      | .read fill => let (s, q) := s.performRead q [u] fill; s.setReq { q with left := rest }
      | .write alloc =>
        let (t, x) := s.performStore q [u] alloc
        if x.refused then s.perform q else t.setReq { x with left := rest }
      | .writeback => (s.performBack q [u]).setReq { q with left := rest }
      | _ => s

/-- The far cache of the writer's field takes the bytes of a write on its way to the home, of lines that it holds; the home
applies them later (R137, R139). -/
def State.farTake (s : State) (q : Req) : State :=
  let f := fieldOfReel q.reel
  let lines := (unitLines q.left).filter fun n => s.farHolds f (q.fcAt (256 * n)) (256 * n) && s.inFar f n
  let below := match q.op with
    | .write _ => 2 ≤ q.scope
    | .writeback => true
    | _ => false
  if !below || q.stage != .sent || q.kv || !q.taken.isEmpty || s.reqHeld q || s.mustFlush q then s
  else
    let put (s : State) (run : Run) : State :=
      (linesOf run.1 run.2.length).foldl (fun s n =>
        if lines.contains n then s.modField f fun x =>
          { x with far := listMod (·.1 == n) (fun kv => (kv.1, kv.2.write (run.1 - 256 * n) run.2)) x.far }
        else s) s
    ((q.runs q.left).flatMap Run.bySector).foldl put (s.setReq { q with taken := lines })

/-- A reply arrives, and fixes the value of a read (R139, R148). The requester forgets the request once no later release can wait
for it (R147, R400). -/
def State.reply (s : State) (q : Req) : State :=
  let x := { q with dst := .none }
  let done := s.reqDone x 4
  let s := s.landReply q
  let s := if done then { s with reqs := s.reqs.filter (·.id != q.id) } else s.setReq x
  if q.acq && q.isRead && q.dst != .none then s.acquired q else s

/-! ## Sending -/

/-- An access of the strand that issues, translated. -/
structure Acc where
  op : ReqOp
  ty : Ty := .none
  units : List Unit'
  data : VWord := 0
  dpsn : BitVec 64 := 0
  data2 : VWord := 0
  scope : Nat := 0
  acq : Bool := false
  rel : Bool := false
  sync : Bool := false
  dst : ReqDst := .none
  /-- What it allocates in L1 is the first to be evicted (R102). -/
  ef : Bool := false
  deriving DecidableEq, Repr

def Acc.isWrite (a : Acc) : Bool :=
  match a.op with
  | .read _ | .eret _ _ | .cline _ _ => false
  | .fence => a.rel
  | _ => true

def Acc.sectors (a : Acc) : List Nat := unitSectors a.units

/-- The request of an access, as the strand that issues sends it. -/
def State.reqOf (s : State) (a : Acc) (id : Nat) (after : List Nat) : Req :=
  let t := s.me
  { id := id, reel := s.cur.reel, slot := s.cur.slot, handle := t.handle, ctx := t.ctx, task := t.task, pc := t.pc, op := a.op
    ty := a.ty, units := a.units, left := a.units, data := a.data, dpsn := a.dpsn, data2 := a.data2, scope := a.scope
    acq := a.acq, rel := a.rel, sync := a.sync, dst := a.dst, after := after, stage := .sent, reply := 0, rpsn := 0
    fixed := false, refused := false, dup := 0, lines := [], ef := a.ef, tctx := s.tableCtx s.cur.reel t.ctx t.mode
    wins := if a.units.any fun u => hostBase ≤ u.pa then s.hostWins else [] }

/-- Requests of the strand that issues. -/
def State.mine (s : State) : List Req := s.reqs.filter fun q => q.handle == (s.me).handle

/-- A request enters the list; its place in the strand's order is in `after`. -/
def State.send (s : State) (a : Acc) (after : List Nat) : Nat × State :=
  let (id, s) := s.fresh
  (id, { s with reqs := s.reqs ++ [s.reqOf a id after] })

/-- Stores of a reel that are still on their way to its L1 are performed below it instead (R147, R404). -/
def State.sinkStores (s : State) (r : Nat) : State :=
  let plain (q : Req) : Bool :=
    q.reel == r && q.stage == Stage.sent && q.scope < 2 && (match q.op with | .write _ => true | _ => false)
  { s with reqs := listMod plain (fun q => { q with scope := 2 }) s.reqs }

/-- Every dirty sector of the reel's L1, for a release at field scope or wider; stores still on their way to L1 go behind the
older bytes of their sectors (R142, R147). -/
def State.writeBackAll (s : State) : List Nat × State :=
  (s.sinkStores s.cur.reel).writeBack ((s.reel s.cur.reel).l1.keys)

/-- What a release at a scope awaits: write-backs it starts, what the strand sent before that is not yet done at the scope,
and at device scope or wider what the strand may have observed of others: writes applied by reels of its field or taken by its
far cache, and at system scope by any, whose acknowledgements are still out (R144, R147). -/
def State.releaseDeps (s : State) (scope : Nat) : List Nat × State :=
  let (w, s) := if 2 ≤ scope then s.writeBackAll else ([], s)
  let back (q : Req) : Bool := q.reel == s.cur.reel && q.op == ReqOp.writeback
  let seen (q : Req) : Bool :=
    3 ≤ scope && (q.stage != .sent || !q.taken.isEmpty) && !q.isRead && (4 ≤ scope || fieldOfReel q.reel == fieldOfReel s.cur.reel)
  let old := (s.mine ++ s.reqs.filter fun q => back q || seen q).filter fun q => !s.reqDone q scope
  ((w ++ old.map (·.id)).eraseDups, s)

/-- What the access waits for in the strand's order (R142, R143, R147, R243). -/
def State.orderOf (s : State) (a : Acc) : List Nat :=
  s.overlaps s.cur.reel a.sectors ++ (if a.isWrite then (s.me).fences else []) ++
  (if a.sync then (s.mine.filter fun q => q.sync && a.scope ≤ q.scope).map (·.id) else [])

/-- Reads of a strand that were performed before its access to the same sectors keep the service they had (R142, R238). -/
def State.fixReads (s : State) (h : Nat) (ks : List Nat) : State :=
  { s with reqs := listMod (fun q => q.handle == h && q.stage != .sent && q.sectors.any ks.contains)
                          (fun q => { q with fixed := true }) s.reqs }

/-- The access may be performed in L1 at once: it may be performed there at all, and hits (R102, R136, R149). -/
def State.hitsL1 (s : State) (a : Acc) : Bool :=
  let q := s.reqOf a 0 []
  a.units.all fun u => match a.op with
    | .read _ => q.inL1 u.pa && (upto u.w).all fun i => (s.reel q.reel).l1Valid (u.pa + i)
    | .write alloc => s.storesInL1 q alloc u.pa && s.storesInL1 q alloc (u.pa + u.w - 1)
    | _ => false

/-- Whether an access that hits L1 is performed there whole as it issues: one unit is, and of several no rule says (R141, log
entry 11). -/
def State.atOnce (s : State) (a : Acc) : Bool × State :=
  if a.units.length < 2 then (true, s) else let (k, s) := s.drawChoice 2; (k == 0, s)

/-- A read that hits L1: its result has the latency of R48, and of several units each may still take its bytes until then, unless
`whole` (R141, log entry 11). -/
def State.hitRead (s : State) (a : Acc) (whole : Bool) : State :=
  let rep := replyOf (0, 0) a.units (s.reel s.cur.reel).l1Byte
  let c := s.now
  let s := s.modMe fun t =>
    let t := t.land c a.dst a.ty a.units rep
    match a.dst.reg with
    | some g => { t with readyAt := (g, c + 8) :: t.readyAt }
    | none => t
  if whole then s
  else
    let (id, s) := s.fresh
    { s with reqs := s.reqs ++ [{ s.reqOf a id [] with stage := .applied, reply := rep.1, rpsn := rep.2, hit := some (c + 8) }] }

/-- An access that is sent: its register waits, and later operations where it acquires or fences (R46, R143, R148). -/
def State.sendAccess (s : State) (a : Acc) (after : List Nat) : State :=
  let (id, s) := s.send a after
  let s := match a.dst.reg with
    | some g =>
      let s := s.setPend g id
      (match g with | .v n => s.modMe fun t => t.revive n | _ => s)
    | none => s
  if a.acq then s.modMe fun t => { t with acqs := id :: t.acqs }
  else if a.op == .fence then s.modMe fun t => { t with fences := id :: t.fences }
  else s

/-- Sends an access, or performs it in L1 where it hits there (R136, R149). -/
def State.access (s : State) (a : Acc) : State :=
  let (w1, s) := if a.rel then s.releaseDeps a.scope else ([], s)
  let home := 2 ≤ a.scope || (match a.op with | .atomic _ => true | _ => false)
  let (w2, s) := if home then s.writeBack (a.sectors.filter fun k => 128 * k < dramTop) else ([], s)
  let after := w1 ++ w2 ++ s.orderOf a
  let s := s.fixReads (s.me).handle a.sectors
  if after.isEmpty && s.hitsL1 a then
    let (whole, s) := s.atOnce a
    match a.op with
    | .write alloc => if whole then s.performWrite (s.reqOf a 0 []) a.units alloc else s.sendAccess a []
    | _ => s.hitRead a whole
  else s.sendAccess a after

/-- A fence with nothing before it is performed at once; at strand scope it has no action (R147, R148, R247). -/
def State.fence (s : State) (scope : Nat) (acq rel : Bool) : State :=
  if scope == 0 then s
  else
    let reads := s.mine.filter fun q => !s.reqDone q 0 && match q.op with
      | .read _ | .atomic _ => true
      | _ => false
    let (after, s) := if rel then s.releaseDeps scope else (reads.map (·.id), s)
    if after.isEmpty then (if acq then s.acquireNow s.cur scope else s)
    else
      let (id, s) := s.send { op := .fence, units := [], scope := scope, acq := acq, rel := rel } after
      if acq then s.modMe fun t => { t with acqs := id :: t.acqs }
      else s.modMe fun t => { t with fences := id :: t.fences }

/-- An operation behind what `after` names: at once where that is done and the home has a place for its record, which it
keeps; else as a request of its own (R400). -/
def State.whenReady (s : State) (a : Acc) (after : List Nat) (now : State → State) (later : Nat → State → State) : State :=
  let (id, s) := s.fresh
  let q := s.reqOf a id after
  if after.isEmpty && !s.reqHeld q then
    let home := s.reqHome q
    let s := now s
    if q.stateChanging then s.keepReplay q.reel home id else s
  else later id { s with reqs := s.reqs ++ [q] }

/-- An operation whose value a register takes, at once or with the reply of its request. -/
def State.answerReady (s : State) (a : Acc) (after : List Nat) (dst : BitVec 6) (now : State → Word × State) : State :=
  s.whenReady { a with dst := .s dst.toNat } after (fun s => let (w, s) := now s; s.setRs dst (SReg.clean w))
    fun id s => s.setPend (.s dst.toNat) id

/-- An operation that follows a release (R29, R227, R234, R258). -/
def State.afterRelease (s : State) (scope : Nat) (op : ReqOp) (dst : BitVec 6) (now : State → Word × State) : State :=
  let (after, s) := s.releaseDeps scope
  s.answerReady { op := op, units := [], scope := scope, rel := true } after dst now

end Sys2Proof.Machine
end

