-- ==== Sys2Proof/Machine/Fetch.lean ====
section
/-! DEFINITION. Fetching a strand's next word through the instruction L1 (R86, R113, R211, R386). -/

namespace Sys2Proof.Machine

/-! ## Fetch -/

/-- How the fetch of the next word ends. -/
inductive Fetch where
  | word (w : Word)
  /-- The word is in memory at this place and not yet in the instruction L1. -/
  | fill (pa : Nat) (e : Word)
  | walk
  | fail (f : FetchFail)
  deriving DecidableEq, Repr

/-- The word at the strand's pc, through the instruction L1 (R113, R211). -/
def State.fetch (s : State) (r : StrandRef) : Fetch :=
  let t := s.slot r
  match t.fetchFail with
  | some f => .fail f
  | none => match s.translate r.reel t.ctx t.pc .fetch t.mode with
    | .fault x => .fail { poison := false, sub := x.sub, level := x.info.toNat, code := 0 }
    | .miss => .walk
    | .ok pa e => match (s.reel r.reel).icache.find? (·.1 == pa / 8) with
      | some (_, w) => .word w
      | none => .fill pa e

/-- A byte that the instruction L1 reads: the reel's own dirty byte, else what lies below (R113, R137). -/
def State.fetchByte (s : State) (r : Nat) (fc : Bool) (pa : Nat) : PByte :=
  if pa < dramTop && (s.reel r).l1Dirty pa then (s.reel r).l1Byte pa
  else s.lowerByte r (s.farHolds (fieldOfReel r) fc pa) pa

/-- What the reel has sent to a line and is not performed yet may still change its words: a word that is missing is not taken
before, so that a CLINE .iinv is completed as it issues (R113, R246). -/
def State.changing (s : State) (r pa : Nat) : Bool :=
  s.reqs.any fun q => q.reel == r && q.stage == Stage.sent && q.stateChanging && (unitLines q.units).contains (pa / 256)

/-- Fills what is missing of a sector of the instruction L1; poisoned words are not taken. -/
def State.icacheFill (s : State) (r pa : Nat) (fc : Bool) : State :=
  (upto 16).foldl (fun s k =>
    let a := pa / 128 * 128 + 8 * k
    let bs := (upto 8).map fun i => s.fetchByte r fc (a + i)
    if (firstCode bs).isSome || (s.reel r).icache.any (·.1 == a / 8) then s
    else s.modReel r fun x => { x with icache := x.icache.ins (a / 8) (word (natOfBytes (plainBytes bs))) }) s

/-- The word at the pc, if the strand has fetched it. -/
def Slot.fetched (t : Slot) : Option Word := t.ir.bind fun x => if x.1 == t.pc then some x.2 else none

/-- The word at the pc as the reel would find it now. -/
def State.peekWord (s : State) (r : StrandRef) : Word :=
  match s.fetch r with
  | .word w => w
  | .fill pa e => word (natOfBytes (plainBytes ((upto 8).map fun i => s.fetchByte r.reel (pteFc e) (pa + i))))
  | _ => 0

/-- The word at which the strand is held, for a record (R384). -/
def State.heldWord (s : State) (r : StrandRef) : Word := ((s.slot r).fetched).getD (s.peekWord r)

/-- The code of a poisoned word, if its fetch meets one (R384). -/
def State.fetchCode (s : State) (r pa : Nat) (fc : Bool) : Option Code :=
  firstCode ((upto 8).map fun i => s.fetchByte r fc (pa / 8 * 8 + i))

end Sys2Proof.Machine
end

