-- ==== Sys2Proof/Machine/ScalarMem.lean ====
section
/-! DEFINITION. Scalar loads and stores, the local store, prefetch, cache maintenance, the fence, the local-store kill
(R236 to R248). -/

namespace Sys2Proof.Machine

/-! ## Shared steps of memory instructions -/

/-- Translated pieces of an access: physical address, length, entry; or a page that is not cached; or a fault. -/
inductive XlAll where
  | ok (l : List (Nat × Nat × Word))
  | miss (va : Word)
  | fault (t : Trap)
  deriving DecidableEq, Repr

/-- Parts of a range, cut at 64 KiB boundaries, which every page boundary is. -/
def pageParts (va : Word) (n : Nat) : List (Word × Nat) :=
  if n == 0 then []
  else (upto ((va.toNat % 65536 + n - 1) / 65536 + 1)).map fun i =>
    let lo := if i == 0 then 0 else 65536 * i - va.toNat % 65536
    (va + word lo, min (n - lo) (65536 - (va + word lo).toNat % 65536))

/-- Translates every part in order, before any byte is read or written (R237). -/
def State.xlParts (s : State) (acc : Access) (m : Mode) : List (Word × Nat) → XlAll
  | [] => .ok []
  | (va, n) :: rest =>
    match s.translate s.cur.reel (s.me).ctx va acc m with
    | .fault t => .fault t
    | .miss => .miss va
    | .ok pa e => match s.xlParts acc m rest with
      | .ok l => .ok ((pa, n, e) :: l)
      | x => x

/-- Goes on once every part is translated; a miss starts a walk and holds the instruction (R403). -/
def State.translated (s : State) (acc : Access) (parts : List (Word × Nat)) (k : List (Nat × Nat × Word) → Eff) : Eff :=
  match s.xlParts acc (s.me).mode parts with
  | .fault t => .trap t
  | .miss va => .hold (s.awaitWalk va acc)
  | .ok l => k l

def misalignTrap (ea : Word) (wrote : Bool) : Eff := .trap { cls := clsMisalign, wrote := wrote, addr := ea }

/-- Units of a translated part: one at its natural alignment, else its bytes (R141). -/
def partUnits (whole : Bool) (pos : Nat) (x : Nat × Nat × Word) : List Unit' :=
  if whole then [{ pa := x.1, w := x.2.1, pos := pos, kv := pteKv x.2.2, fc := pteFc x.2.2 }]
  else (upto x.2.1).map fun i => { pa := x.1 + i, w := 1, pos := pos + i, kv := pteKv x.2.2, fc := pteFc x.2.2 }

/-- Units of consecutive translated parts. -/
def unitsOf (whole : Bool) : Nat → List (Nat × Nat × Word) → List Unit'
  | _, [] => []
  | pos, x :: rest => partUnits whole pos x ++ unitsOf whole (pos + x.2.1) rest

def Acc.kv (a : Acc) : Bool := a.units.any (·.kv)

/-- A store waits for its judgement: the pc has moved on, and the next instruction is held (R46, R242). -/
def Slot.kvIssue (tick : Nat) (k : KvHold) (t : Slot) : Slot := { t with pc := k.pc + 8, readyTick := tick, kvHold := some k }

/-- Stores, of which some touch KV pages: those go to their homes to be judged, the others behind them, and the strand
issues nothing until it is judged; then the instruction retires or faults (R242, R288). `va` gives the virtual address that
the refusal of a physical page names. -/
def State.storeParts (a b : State) (i : Instr) (accs : List Acc) (va : Nat → Word) : Eff :=
  let kv := accs.filter (·.kv)
  if kv.isEmpty then .done (accs.foldl State.access b)
  else
    let put (after : List Nat) (x : List Nat × State) (p : Acc) : List Nat × State :=
      let (id, s) := (x.2.fixReads (x.2.me).handle p.sectors).send p (after ++ x.2.orderOf p)
      (x.1 ++ [id], s)
    let (w, a) := if kv.any (·.rel) then a.releaseDeps ((kv.map (·.scope)).headD 0) else ([], a)
    let (ids, a) := kv.foldl (put w) ([], a)
    let (rest, a) := (accs.filter fun x => !x.kv).foldl (put ids) ([], a)
    let pages := (kv.flatMap fun x => x.units.map (·.pa / 65536)).eraseDups
    .done (a.modMe fun t => t.kvIssue a.tick
      { pc := t.pc, word := wordOf i, ids := ids, rest := rest, vas := pages.map fun p => (p, va p) })

/-- Width in bytes of a scalar access (R239). -/
def Ty.bytes (t : Ty) : Nat := t.bits / 8

def eaOf (s : State) (f : MF) : Word := effAddr (s.rs f.base).val (s.rs f.idx).val f.scl f.off

/-- LD and LDACQ (R240, R241, R243). -/
def loadScalar (f : MF) (acq sync : Bool) (a b : State) : Eff :=
  Eff.consume [(a.rs f.base).code, (a.rs f.idx).code] <|
    let ea := eaOf a f
    let w := f.ty.bits / 8
    if acq && ea.toNat % w != 0 then misalignTrap ea false
    else a.translated .read (pageParts ea w) fun l =>
      .done (b.access { op := .read (f.cache != 2), ty := f.ty, units := unitsOf (ea.toNat % w == 0) 0 l
                        scope := f.scope.toNat, acq := acq, sync := sync, dst := .s f.dst.toNat, ef := f.cache == 1 })

/-- ST and STREL (R240 to R243). -/
def storeScalar (i : Instr) (f : MF) (rel sync : Bool) (a b : State) : Eff :=
  Eff.consume [(a.rs f.base).code, (a.rs f.idx).code] <|
    let ea := eaOf a f
    let w := f.ty.bits / 8
    if rel && ea.toNat % w != 0 then misalignTrap ea true
    else a.translated .write (pageParts ea w) fun l =>
      let d := a.rs f.dst
      match d.code with
      | some c => .trap { poisonTrap c with wrote := true, addr := ea }
      | none =>
        a.storeParts b i [{ op := .write (f.cache != 2), ty := f.ty, units := unitsOf (ea.toNat % w == 0) 0 l
                            data := d.val.zeroExtend 2048, scope := f.scope.toNat, rel := rel, sync := sync, ef := f.cache == 1 }] fun _ => ea

/-! ## Meanings -/

def execLd (f : MF) (s : State) : Host.Outcome State Fault Refusal :=
  issue (.ld f) s (loadScalar f (f.ord == 1) false)
def execSt (f : MF) (s : State) : Host.Outcome State Fault Refusal :=
  issue (.st f) s (storeScalar (.st f) f (f.ord == 2) false)
def execLdacq (f : MF) (s : State) : Host.Outcome State Fault Refusal :=
  issue (.ldacq f) s (loadScalar f true true)
def execStrel (f : MF) (s : State) : Host.Outcome State Fault Refusal :=
  issue (.strel f) s (storeScalar (.strel f) f true true)

/-- LDL (R244). -/
def execLdl (f : MF) (s : State) : Host.Outcome State Fault Refusal :=
  issue (.ldl f) s fun a b =>
    Eff.consume [(a.rs f.base).code, (a.rs f.idx).code] <|
      let ea := eaOf a f
      let w := f.ty.bits / 8
      let x := a.reel a.cur.reel
      if ea.toNat % w != 0 then misalignTrap ea false
      else if lsSize < ea.toNat + w then .trap { cls := clsXlate, addr := ea }
      else if !x.lsReadable ea.toNat w then .trap { cls := clsDeadls, addr := ea }
      else
        let v := widen f.ty (natOfBytes (x.lsBytes ea.toNat w))
        let codes := [x.lsCode (ea.toNat / 4), x.lsCode ((ea.toNat + w - 1) / 4)]
        .done ((b.modReel b.cur.reel fun x => x.lsTouch ea.toNat w).setRs f.dst (SReg.of codes v))

/-- STL (R244). -/
def execStl (f : MF) (s : State) : Host.Outcome State Fault Refusal :=
  issue (.stl f) s fun a b =>
    Eff.consume [(a.rs f.base).code, (a.rs f.idx).code] <|
      let ea := eaOf a f
      let w := f.ty.bits / 8
      let d := a.rs f.dst
      if ea.toNat % w != 0 then misalignTrap ea true
      else if lsSize < ea.toNat + w then .trap { cls := clsXlate, wrote := true, addr := ea }
      else match d.code with
        | some c => .trap { poisonTrap c with wrote := true, addr := ea }
        | none => .done (b.modReel b.cur.reel fun x => x.lsWrite ea.toNat (bytesOf d.val w) fun _ => none)

/-- The sector that holds an address may be filled: DRAM, no KV page, nothing of the reel or the directory against it. -/
def State.mayFill (s : State) (pa : Nat) (e : Word) : Bool :=
  pa < dramTop && !pteKv e && (s.overlaps s.cur.reel [pa / 128]).isEmpty && !s.readHeld (fieldOfReel s.cur.reel) pa

/-- PREF: a hint that is dropped where it cannot be followed; .na keeps it out of L1 (R102, R245). -/
def execPref (f : MF) (s : State) : Host.Outcome State Fault Refusal :=
  issue (.pref f) s fun a b =>
    let ea := eaOf a f
    let clean := (a.rs f.base).code.isNone && (a.rs f.idx).code.isNone
    match a.translate a.cur.reel (a.me).ctx ea .read (a.me).mode with
    | .ok pa e =>
      if !clean || !b.mayFill pa e then .done b
      else match f.dst.toNat with
        | 0 =>
          let r := b.cur.reel
          let k := pa / 128
          if f.cache == 2 then .done b
          else .done (((b.l1Room r k).l1Fill r (pteFc e) k).markFirst r (f.cache == 1) (b.hadL1 r) [k])
        | 1 =>
          let fld := fieldOfReel b.cur.reel
          if b.farHolds fld (pteFc e) pa && !b.inFar fld (pa / 256) then .done (b.farFill fld (pa / 256))
          else .done b
        | 2 => .done (b.homeTouch false (pa / 256))
        | _ => .done b
    | _ => .done b

/-- CLINE (R246), behind what the strand has sent to the line. -/
def execCline (f : MF) (s : State) : Host.Outcome State Fault Refusal :=
  issue (.cline f) s fun a b =>
    Eff.consume [(a.rs f.base).code, (a.rs f.idx).code] <|
      let ea := eaOf a f
      -- the page is present; nothing else is checked
      match a.translate a.cur.reel (a.me).ctx ea .read .supervisor with
      | .fault t => .trap t
      | .miss => .hold (a.awaitWalk ea .read)
      | .ok pa _ =>
        let line := pa / 256
        let op := f.dst.toNat
        let mine := a.mine.filter fun q => q.stage == Stage.sent && q.sectors.any [2 * line, 2 * line + 1].contains
        if op == 2 || mine.isEmpty then .done (b.cline b.cur.reel op line)
        else .done (b.send { op := .cline op line, units := [{ pa := 256 * line, w := 256, pos := 0 }] } (mine.map (·.id))).2

/-- FENCE (R145, R147, R148, R247). -/
def execFence (f : MF) (s : State) : Host.Outcome State Fault Refusal :=
  issue (.fence f) s fun _ b => .done (b.fence f.scope.toNat (f.ord != 2) (f.ord != 1))

/-- SPKILL (R248). -/
def execSpkill (f : MF) (s : State) : Host.Outcome State Fault Refusal :=
  issue (.spkill f) s fun a b =>
    let n := (a.rs f.dst).val.toNat
    Eff.consume [(a.rs f.base).code, (a.rs f.idx).code, (a.rs f.dst).code] <|
      let ea := eaOf a f
      if ea.toNat % 1024 != 0 || n % 1024 != 0 then misalignTrap ea false
      else if n == 0 then .done b
      else if lsSize < ea.toNat + n then .trap { cls := clsXlate, addr := ea }
      else .done (b.modReel b.cur.reel fun x => (slabsOf ea.toNat n).foldl Reel.killSlab x)

end Sys2Proof.Machine
end

