-- ==== Sys2Proof/Machine/Atomic.lean ====
section
/-! DEFINITION. Atomics, WAITA, hardware barriers and collectives (R249 to R262), with the events that end their
waits. -/

namespace Sys2Proof.Machine

/-! ## Atomics (R249 to R254) -/

/-- Two byte ranges overlap. -/
def rangesMeet (a b n : Nat) : Bool := a < b + n && b < a + n

/-- An atomic: `two` for the two-address forms, `useC` where SC is data. -/
def atomic (opc : BitVec 8) (two useC : Bool) (f : AF) (a b : State) : Eff :=
  let addrs := if two then [a.rs f.addr, a.rs f.addr2] else [a.rs f.addr]
  let x := a.rs f.sb
  let y := a.rs f.sc
  let w := atomBytes f.ty
  Eff.consume (addrs.map (·.code)) <|
    match (addrs.map (·.val)).find? fun v => v.toNat % w != 0 with
    | some v => misalignTrap v true
    | none =>
      let v1 := (a.rs f.addr).val
      let v2 := (a.rs f.addr2).val
      if two && rangesMeet v1.toNat v2.toNat w then misalignTrap v1 true
      else a.translated .write (addrs.map fun v => (v.val, w)) fun l =>
        let pas := l.map (·.1)
        match l.zip addrs |>.find? fun z => two && a.memKind? z.1.1 == some .host with
        | some z => .trap (xlTrap 6 (pteSz z.1.2.2 + 1) .write z.2.val)
        | none =>
          if two && rangesMeet (pas.getD 0 0) (pas.getD 1 0) w then misalignTrap v1 true
          else match [x.code, if useC then y.code else none].findSome? id with
            | some c => .trap { poisonTrap c with wrote := true, addr := v1 }
            | none =>
              match l.zip addrs |>.find? fun z => pteKv z.1.2.2 with
              | some z => .trap { cls := clsKvformat, wrote := true, addr := z.2.val }
              | none =>
                .done (b.access { op := .atomic opc, ty := f.ty, units := unitsOf true 0 l, data := x.val.zeroExtend 2048
                                  data2 := y.val.zeroExtend 2048, scope := f.scope.toNat
                                  acq := f.ord == 1 || f.ord == 3, rel := f.ord == 2 || f.ord == 3
                                  dst := .s f.dst.toNat })

def execAadd (f : AF) (s : State) : Host.Outcome State Fault Refusal := issue (.aadd f) s (atomic 0x50 false false f)
def execAfadd (f : AF) (s : State) : Host.Outcome State Fault Refusal := issue (.afadd f) s (atomic 0x51 false false f)
def execAmin (f : AF) (s : State) : Host.Outcome State Fault Refusal := issue (.amin f) s (atomic 0x52 false false f)
def execAmax (f : AF) (s : State) : Host.Outcome State Fault Refusal := issue (.amax f) s (atomic 0x53 false false f)
def execAand (f : AF) (s : State) : Host.Outcome State Fault Refusal := issue (.aand f) s (atomic 0x54 false false f)
def execAor (f : AF) (s : State) : Host.Outcome State Fault Refusal := issue (.aor f) s (atomic 0x55 false false f)
def execAxor (f : AF) (s : State) : Host.Outcome State Fault Refusal := issue (.axor f) s (atomic 0x56 false false f)
def execAxchg (f : AF) (s : State) : Host.Outcome State Fault Refusal := issue (.axchg f) s (atomic 0x57 false false f)
def execAcas (f : AF) (s : State) : Host.Outcome State Fault Refusal := issue (.acas f) s (atomic 0x58 false true f)
def execAdcas (f : AF) (s : State) : Host.Outcome State Fault Refusal := issue (.adcas f) s (atomic 0x59 true true f)
def execAmove (f : AF) (s : State) : Host.Outcome State Fault Refusal := issue (.amove f) s (atomic 0x5A true false f)
def execAadd2 (f : AF) (s : State) : Host.Outcome State Fault Refusal := issue (.aadd2 f) s (atomic 0x5B true true f)

/-! ## WAITA (R255, R256) -/

/-- A timeout as a deadline: none for all ones (R217, R255). -/
def deadlineOf (tick : Nat) (t : Word) : Option Nat := if t == BitVec.allOnes 64 then none else some (tick + t.toNat)

def duePassed (tick : Nat) (d : Option Nat) : Bool :=
  match d with
  | some d => d ≤ tick
  | none => false

/-- A wait ends: the destination is written and the strand goes on behind the instruction (R218). -/
def State.endWait (s : State) (r : StrandRef) (dst : Nat) (x : SReg) : State :=
  s.modSlot r fun t => { t.setS dst x with wait := .none, pc := t.pc + 8, readyTick := s.tick }

/-- The read of a WAITA: a relaxed read at its scope, which leaves nothing in L1 (R140, R255). -/
def State.waitaReq (s : State) (r : StrandRef) (x : WaitWord) : Req :=
  { State.reqOf { s with cur := r } { op := .read false, scope := x.scope
                                      units := [{ pa := x.pa, w := x.w, pos := 0, kv := x.kv, fc := x.fc }] } 0 x.after with
    reel := r.reel }

/-- Every strand of the device, with its slot. -/
def State.strands (s : State) : List (StrandRef × Slot) :=
  s.reels.flatMap fun rx => rx.2.slots.filterMap fun kt =>
    if kt.2.phase == .free then none else some ({ reel := rx.1, slot := kt.1 }, kt.2)

/-- Strands in WAITA on a line. -/
def State.watchers (s : State) (line : Nat) : List StrandRef :=
  s.strands.filterMap fun x => match x.2.wait with
    | .waita w => if w.pa / 256 == line && x.2.phase == .live then some x.1 else none
    | _ => none

/-- Lines that a port's field watches (R375). -/
def watchLines : Nat := 4096

/-- The port of a host line takes it shared for a watch, where one of its watches is free or no longer waited on; a waiter
beyond them reads again each microsecond (R256, R375). -/
def State.watch (s : State) (pa : Nat) : State :=
  match if pa < hostBase then none else s.hostPort? (pa - hostBase) with
  | none => s
  | some p =>
    let line := pa / 256
    s.modHostPort p fun h =>
      if h.watched.contains line then h
      else
        let ls := if h.watched.length < watchLines then h.watched else h.watched.filter fun l => !(s.watchers l).isEmpty
        if ls.length < watchLines then { h with watched := ls ++ [line] } else h

/-- Reads the word of a strand in WAITA at its physical address, once the reel's own dirty bytes of it are written back; the
wait ends on a change, on poison, or on its deadline, and the read that ends it is the acquire of .acq (R140, R255). -/
def State.readWaita (s : State) (r : StrandRef) (x : WaitWord) : State :=
  let (ids, s) := if 2 ≤ x.scope && x.pa < dramTop && !x.kv then s.writeBackOf r.reel [x.pa / 128] else ([], s)
  let x := { x with after := ids ++ s.overlaps r.reel [x.pa / 128] }
  let q := s.waitaReq r x
  if s.reqHeld q then
    (s.modSlot r fun t => { t with wait := .waita x }).noteHolds (2 ^ 70 + (s.slot r).handle) (if x.kv then [x.pa / 65536] else [])
  else
    let (s, q) := (s.fixReads (s.slot r).handle [x.pa / 128]).performRead q q.units false
    let code := replyCode (q.reply, q.rpsn)
    let v := bitsOf q.reply 0 (8 * x.w)
    let changed := v != x.seen.toNat % 2 ^ (8 * x.w) || code.isSome
    if changed || x.once || duePassed s.tick x.deadline then
      let s := if x.acq then s.acquireNow r x.scope else s
      s.endWait r x.dst (SReg.of [code] (widen x.ty v))
    else s.watch x.pa

/-- A strand in WAITA reads its word, whose address is translated again where its translation has been removed (R230, R255). -/
def State.checkWaita (s : State) (r : StrandRef) : State :=
  match (s.slot r).wait with
  | .waita x =>
    if !x.stale then s.readWaita r x
    else
      let t := s.slot r
      let again (s : State) : State := s.modSlot r fun t => { t with recheck := true }
      if t.walk.isSome then again s
      else match s.translate r.reel t.ctx (word x.va) .read t.mode with
        | .fault f => s.takeFault r f (s.heldWord r)
        | .miss => again (({ s with cur := r }).awaitWalk (word x.va) .read)
        | .ok pa e => s.readWaita r { x with pa := pa, kv := pteKv e, fc := pteFc e, stale := false }
  | _ => s

def execWaita (f : AF) (s : State) : Host.Outcome State Fault Refusal :=
  issue (.waita f) s fun a b =>
    let va := (a.rs f.addr).val
    let seen := a.rs f.sb
    let lim := a.rs f.sc
    let w := atomBytes f.ty
    Eff.consume [(a.rs f.addr).code, seen.code, lim.code] <|
      if va.toNat % w != 0 then misalignTrap va false
      else a.translated .read [(va, w)] fun l =>
        let part := l.headD (0, 0, 0)
        let wait : WaitWord :=
          { va := va.toNat, pa := part.1, w := w, seen := seen.val, deadline := deadlineOf a.tick lim.val
            once := lim.val == 0, scope := f.scope.toNat, acq := f.ord == 1, ty := f.ty, dst := f.dst.toNat
            kv := pteKv part.2.2, fc := pteFc part.2.2, after := [] }
        .done (State.checkWaita (b.modMe fun t => { t with wait := .waita wait, pc := (a.me).pc }) b.cur)

/-- WAITA_WAKE: the word is read again after a write to it (R255). -/
def execWaitaWake (r : StrandRef) (s : State) : Host.Outcome State Fault Refusal :=
  .next (if (s.slot r).phase == .live then s.checkWaita r else s)

/-- WATCH_REREAD: where watches are full, a waiter reads again each microsecond (R256, R375). -/
def execWatchReread (r : StrandRef) (s : State) : Host.Outcome State Fault Refusal :=
  .next (if (s.slot r).phase == .live then s.checkWaita r else s)

/-! ## Barriers (R257 to R260) -/

/-- The partition whose barriers and collectives a strand reaches: granted to its context (R257). -/
def State.myPart? (s : State) : Option Partition :=
  match s.partOfReel? s.cur.reel with
  | some p => if p.ctx == (s.me).ctx then some p else none
  | none => none

def privTrap : Eff := .trap { cls := clsPriv }

/-- BARA: the arrival, behind a release where ORD asks for one, under a record of the configuration unit (R258, R260, R400). -/
def execBara (f : AF) (s : State) : Host.Outcome State Fault Refusal :=
  issue (.bara f) s fun a b =>
    let n := a.rs f.addr
    let c := a.rs f.sb
    Eff.consume [n.code, c.code] <|
      match a.myPart? with
      | none => privTrap
      | some p =>
        let bar := bitsOf n.val 0 6
        let cnt := bitsOf c.val 0 16
        let (after, b) := if f.ord == 2 then b.releaseDeps f.scope.toNat else ([], b)
        .done (b.answerReady { op := .bara p.handle bar cnt, units := [], scope := f.scope.toNat, rel := f.ord == 2 } after f.dst
          fun s => s.barArrive p.handle bar cnt)

/-- A strand in BARW ends once the phase differs (R259, R260). -/
def State.checkBarw (s : State) (r : StrandRef) : State :=
  match (s.slot r).wait with
  | .barw part b phase scope acq dst =>
    match s.partByHandle? part with
    | none => s
    | some p =>
      let now := (p.barrier b).phase
      if now == phase then s
      else
        let s := if acq then s.acquireNow r scope else s
        s.endWait r dst (SReg.clean (now.zeroExtend 64))
  | _ => s

def execBarw (f : AF) (s : State) : Host.Outcome State Fault Refusal :=
  issue (.barw f) s fun a b =>
    let n := a.rs f.addr
    let c := a.rs f.sb
    Eff.consume [n.code, c.code] <|
      match a.myPart? with
      | none => privTrap
      | some p =>
        let wait := Wait.barw p.handle (bitsOf n.val 0 6) (BitVec.ofNat 16 (bitsOf c.val 0 16)) f.scope.toNat (f.ord == 1)
          f.dst.toNat
        .done (State.checkBarw (b.modMe fun t => { t with wait := wait, pc := (a.me).pc }) b.cur)

/-- BARRIER_RELEASE: strands waiting on a closed phase go on (R259). -/
def execBarrierRelease (part b : Nat) (s : State) : Host.Outcome State Fault Refusal :=
  .next <| s.strands.foldl (fun s x => match x.2.wait with
    | .barw p k _ _ _ _ => if p == part && k == b && x.2.phase == .live then s.checkBarw x.1 else s
    | _ => s) s

/-! ## Collectives (R261, R262) -/

/-- Contributions of a reel to a collective that have not entered the tree: a later one follows them (R262). -/
def State.earlierColls (s : State) (r part id : Nat) : List Nat :=
  (s.reqs.filter fun q => q.reel == r && q.stage == .sent &&
    (match q.op with | .coll p c => p == part && c.id == id | _ => false)).map (·.id)

def execColl (f : AF) (s : State) : Host.Outcome State Fault Refusal :=
  issue (.coll f) s fun a b =>
    let d := a.rs f.addr
    let x := a.rs f.sb
    let r := a.cur.reel
    let op := bitsOf d.val 4 2
    let id := bitsOf d.val 0 4
    let wx := bitsOf d.val 16 16
    let wy := bitsOf d.val 32 16
    let scope := f.scope.toNat
    Eff.consume [d.code] <|
      if op == 3 then .trap { cls := clsIllegal }
      else match a.myPart? with
      | none => privTrap
      | some p =>
        if wx == 0 || 11 * p.w < wx || wy == 0 || 11 * p.h < wy || wx ≤ p.bx r || wy ≤ p.by_ r then privTrap
        else
          let acq := f.ord == 1 || f.ord == 3
          let (pend, b) := b.fresh
          let round := (b.reel r).collRound.get 0 id
          let b := b.modReel r fun x => { x with collRound := x.collRound.put 0 id (round + 1) }
          let c : Contrib :=
            { id := id, round := round, reel := r, slot := a.cur.slot, handle := (a.me).handle, task := (a.me).task
              dst := f.dst.toNat, bx := p.bx r, by_ := p.by_ r, wx := wx, wy := wy, op := op, ty := f.ty, val := x.val, psn := x.code
              acq := acq, scope := scope, pendId := pend }
          let (after, b) := if f.ord == 2 || f.ord == 3 then b.releaseDeps scope else ([], b)
          let b := b.whenReady { op := .coll p.handle c, units := [], scope := scope, rel := true }
            (after ++ b.earlierColls r p.handle id)
            (State.contribute · p.handle c) fun _ s => s
          let b := b.setPend (.s f.dst.toNat) pend
          .done (if acq then b.modMe fun t => { t with acqs := pend :: t.acqs } else b)

end Sys2Proof.Machine
end

