-- ==== Sys2Proof/Machine/Ras.lean ====
section
/-! DEFINITION. The RAS log (R466 to R468) and origin codes (R394). -/

namespace Sys2Proof.Machine

/-- An origin code: KIND, field, serial of the detection (R394). -/
def originCode (kind field serial : Nat) : Code := BitVec.ofNat 32 ((kind % 16) <<< 28 + (field % 64) <<< 22 + serial % 2 ^ 22)

/-- Entries that Quedon keeps (R466). -/
def rasDepth : Nat := 65536

/-- Joins an entry to the log; the oldest goes when the log is full, and one not read is counted (R466). -/
def Quedon.append (q : Quedon) (e : RasEntry) : Quedon :=
  if q.ras.length < rasDepth then { q with ras := q.ras ++ [e], rasNext := q.rasNext + 1 }
  else { q with ras := q.ras.drop 1 ++ [e], rasNext := q.rasNext + 1
                rasLost := q.rasLost + bit (q.ras.any fun o => (q.ras.head?.map (·.serial)) == some o.serial && !o.read) }

/-- Vector 65 on every host port (R468). -/
def State.rasInterrupt (s : State) (severity : Nat) : State :=
  if severity == 1 || severity == 2 then (upto 4).foldl (fun s p => s.msix p 65) s else s

/-- One detection is logged: its entry, the interrupt, and the origin code it creates where it poisons (R394, R466). -/
def State.rasAppend (s : State) (kind field severity : Nat) (poisons : Bool) (pa loc : Word) : Code × State :=
  let n := s.quedon.rasNext
  let code := if poisons then originCode kind field n else 0
  let e : RasEntry := { serial := n, tick := s.tick, kind := kind, field := field, severity := severity, code := code
                        pa := pa, loc := loc, merged := 1, read := false }
  (code, { s with quedon := s.quedon.append e }.rasInterrupt severity)

/-- An event of the log (R466). -/
def State.rasEvent (s : State) (kind field : Nat) (pa loc : Word) : State := (s.rasAppend kind field 3 false pa loc).2

/-- A corrected error joins the entry of the last second at its location, of whatever severity, else makes one (R466). -/
def State.rasCorrected (s : State) (kind field : Nat) (pa loc : Word) : State :=
  let same (e : RasEntry) : Bool :=
    e.kind == kind && e.field == field && e.pa == pa && e.loc == loc && s.tick ≤ e.tick + 1000000000
  match s.quedon.ras.reverse.find? same with
  | some e =>
    let ras := listMod (fun x => x.serial == e.serial) (fun x => { x with merged := x.merged + 1 }) s.quedon.ras
    { s with quedon := { s.quedon with ras := ras } }
  | none => (s.rasAppend kind field 0 false pa loc).2

end Sys2Proof.Machine
end

