-- ==== Sys2Proof/Machine/MemEvents.lean ====
section
/-! DEFINITION. Steps of the memory system (R136, R137, R140, R153, R374, R400), writes of the host at their homes (R154),
and the appending of fault records (R385). A step whose condition does not hold leaves the state as it is. -/

namespace Sys2Proof.Machine

/-- A repeated read is served afresh: the reel takes whichever service reaches it first, which fixes the value, and discards the
other; a later access of the strand has fixed it before (R142, R238). -/
def State.serveAgain (s : State) (q : Req) : State :=
  match q.op with
  | .read fill =>
    let again := { q with left := q.units, reply := 0, rpsn := 0 }
    if s.reqHeld again then s
    else
      let (first, s) := s.drawChoice 2
      if first == 0 || q.fixed || q.dst == .none then s.setReq { q with dup := q.dup - 1 }
      else
        let (s, x) := s.performRead again q.units fill
        s.setReq { q with dup := q.dup - 1, reply := x.reply, rpsn := x.rpsn }
  | _ => s.setReq { q with dup := q.dup - 1 }

/-- HOME_REQUEST: a request is performed at its point once nothing holds it; a duplicate that changes state finds the
record of the first and is not applied again (R140, R238, R400). -/
def execHomeRequest (id : Nat) (s : State) : Host.Outcome State Fault Refusal :=
  .next <| match s.req? id with
    | none => s
    | some q =>
      if q.stage == .sent then
        if s.reqHeld q then s.noteHolds id ((q.left.filter (·.kv)).map (·.pa / 65536)) else if s.mustFlush q then s.flush q else s.perform q
      else if q.dup == 0 then s
      else s.serveAgain q

/-- A strand waits for the home's judgement of the request (R242). -/
def State.judged (s : State) (q : Req) : Bool :=
  (s.slotOf? q.reel q.slot q.handle).any fun r => (s.slot r).kvHold.any fun k => k.ids.contains q.id

/-- The reply can be taken: the request is performed, and either carries data still to land or can be forgotten. -/
def State.replyDue (s : State) (q : Req) : Bool :=
  q.stage != .sent && (q.dst != .none || s.reqDone q 4) && !s.judged q

/-- LOAD_DATA_ARRIVAL: a reply reaches its reel, once its clocks run if it carries data (R46, R240, R450). -/
def execLoadDataArrival (id : Nat) (s : State) : Host.Outcome State Fault Refusal :=
  .next <| match s.req? id with
    | none => s
    | some q => if s.replyDue q && (q.dst == .none || s.reelRuns q.reel) then s.reply q else s

/-- L1_WRITEBACK: a dirty sector is written back, a clean one dropped (R136). -/
def execL1Writeback (reel sector : Nat) (s : State) : Host.Outcome State Fault Refusal := .next (s.l1Evict reel sector)

/-- FAR_CACHE_DROP: a clean line goes without the home being told (R137). -/
def execFarCacheDrop (field line : Nat) (s : State) : Host.Outcome State Fault Refusal := .next (s.farDrop field line)

/-! ## Writes of the host (R154, R158, R374) -/

/-- Pages of a range. -/
def pagesOf (pa n : Nat) : List Nat := (upto ((pa + n - 1) / 65536 - pa / 65536 + 1)).map (· + pa / 65536)

/-- Worst judgement of a host write over the pages it touches (R158). -/
def State.hostJudge (s : State) (pa : Nat) (l : List PByte) : Verdict :=
  let zero2 := pa % 65536 == 0 && l == cleanBytes [0, 0]
  let vs := (pagesOf pa l.length).map fun p => s.kvJudge p zero2
  if vs.contains .wait then .wait else if vs.contains .refuse then .refuse else .allow

/-- A write of a host port is applied at its home, or dropped where a KV page refuses it; `none` while an earlier ordered
write is not yet performed at device scope, or a page is being converted. -/
def State.hostApply (s : State) (port : Nat) (w : HostWrite) : Option State :=
  let open_ := (s.hostPort port).order.filter fun l => (s.dir l).pending != 0
  if !w.relaxed && !open_.isEmpty then none
  else match s.hostJudge w.pa w.bytes with
    | .wait => none
    | .refuse => some (s.rasEvent 11 63 (word w.pa) 0)
    | .allow =>
      let known := (pagesOf w.pa w.bytes.length).filter fun p => (s.kvState p).isSome
      let s := (linesOf w.pa w.bytes.length).foldl (State.homeTouch · true) (s.homeWrite noField false w.pa w.bytes)
      let s := (known.filter fun p => (s.kvState p).isNone).foldl (fun s p => s.kvForget p) s
      some <| if w.relaxed then s
        else s.modHostPort port fun h => { h with order := open_ ++ linesOf w.pa w.bytes.length }

/-- Applies what it can of a port's writes and answers the rest; an ordered write does not pass an earlier one. -/
def State.hostDrain (s : State) (port : Nat) (blocked : Bool) : List HostWrite → State × List HostWrite
  | [] => (s, [])
  | w :: rest =>
    match if blocked && !w.relaxed then none else s.hostApply port w with
    | some s => hostDrain s port blocked rest
    | none =>
      let (s, left) := hostDrain (s.noteHolds w.id (pagesOf w.pa w.bytes.length)) port (blocked || !w.relaxed) rest
      (s, w :: left)

/-- Writes of the host that nothing holds any more are applied, and messages that may leave now do. -/
def State.settleHost (s : State) : State :=
  ((upto 4).foldl (fun s p =>
    if (s.hostPort p).writes.isEmpty then s
    else
      let (s, left) := s.hostDrain p false (s.hostPort p).writes
      s.modHostPort p fun h => { h with writes := left }) s).settleSent

/-- INVALIDATION_ACK: the field no longer holds the line (R153). -/
def execInvalidationAck (line field : Nat) (s : State) : Host.Outcome State Fault Refusal :=
  let d := s.dir line
  .next <| if d.pending.getLsbD field then ((s.farDrop field line).setDir line (d.acked field)).settleHost else s

/-- DIRECTORY_EVICT: a dropped entry first invalidates every sharer (R153). -/
def execDirectoryEvict (line : Nat) (s : State) : Host.Outcome State Fault Refusal :=
  let d := s.dir line
  .next (s.setDir line { d.await noField d.sharers with sharers := 0 })

/-- HOST_SNOOP_RESPONSE: the host answers a back-invalidate snoop (R374). -/
def execHostSnoopResponse (line : Nat) (s : State) : Host.Outcome State Fault Refusal :=
  .next (s.setDir line { s.dir line with snoop := false }).settleHost

/-- REQUEST_RESEND: a request whose reply has not arrived is sent again with its tag (R400). -/
def execRequestResend (id : Nat) (s : State) : Host.Outcome State Fault Refusal :=
  .next <| match s.req? id with
    | none => s
    | some q => if q.hit.isSome then s else s.setReq { q with dup := q.dup + 1 }

/-- REPLY_ACK: the home drops the record of an acknowledged reply (R400). -/
def execReplyAck (id : Nat) (s : State) : Host.Outcome State Fault Refusal :=
  .next { s with replays := s.replays.filter (·.req != id) }

/-- Records of the context wait on the device: the queue is full, its next slot lies in no memory, or in host memory that no
port reaches (R385, R399). -/
def State.faultBlocked (s : State) (c : Nat) : Bool := s.faultRoom c == 0 || s.hostDown (s.faultSlot c)

/-- The 64 bytes of a record (R384). -/
def Record.bytes (r : Record) (seq : Word) : List Byte :=
  [r.w0, r.handle, r.pc, r.addr, r.word, r.info, r.tick, seq].flatMap fun w => bytesOf w 8

/-- FAULT_RECORD_APPEND: the oldest waiting record is written, and EV0 advances once that write is performed at system
scope (R385). -/
def execFaultRecordAppend (ctx : Nat) (s : State) : Host.Outcome State Fault Refusal :=
  .next <| match (s.ctx ctx).records with
    | [] => s
    | r :: rest =>
      let slot := s.faultSlot ctx
      let open_ := (s.ctx ctx).fqOpen
      if !open_ && s.faultBlocked ctx then s
      else
        let s := if open_ then s
          else s.homeWrite noField true slot ((r.bytes (s.ev ctx 0 + 1)).map fun b => (b, none))
        if s.lineDone (slot / 256) then
          (s.modCtx ctx fun x => { x with records := rest, fqOpen := false }).evAdd ctx 0
        else s.modCtx ctx fun x => { x with fqOpen := true }

end Sys2Proof.Machine
end

