-- ==== Sys2Proof/Machine/Clock.lean ====
section
/-! DEFINITION. Row domains, their dividers and stretches, base clocks (R6, R174, R450 to R452), and the placement of
partitions (R18, R41). -/

namespace Sys2Proof.Machine

/-! ## Row domains (R6, R174) -/

/-- Row domain of a reel: 11 · field + row. -/
def rdOfReel (r : Nat) : Nat := 11 * fieldOfReel r + blockOfReel r / 11

/-- Row domains that a kite touches; a kite of a suspended partition joins none and asks for no divider (DESIGN CHOICE, log
entry 103). -/
def State.kiteRows (s : State) (k : Kite) : List Nat :=
  match s.parts.find? fun p => p.handle == k.part && !p.suspended with
  | none => []
  | some p =>
    (upto k.bh).flatMap fun j =>
      let y := k.by_ + j
      (upto ((k.bx + k.bw - 1) / 11 - k.bx / 11 + 1)).map fun i =>
        11 * (7 * (p.fy + y / 11) + p.fx + k.bx / 11 + i) + y % 11

/-- The clock group of a row domain: the domains that kites join to it. -/
def State.clockGroup (s : State) (rd : Nat) : List Nat :=
  foldUpto s.kites.length (fun _ g =>
    s.kites.foldl (fun g k =>
      let rs := s.kiteRows k
      if rs.any g.contains then (g ++ rs).eraseDups else g) g) [rd]

/-- A change in every domain of a row domain's clock group. -/
def State.modGroup (s : State) (rd : Nat) (g : Field → Nat → Field) : State :=
  (s.clockGroup rd).foldl (fun (s : State) d => s.modField (d / 11) fun x => g x (d % 11)) s

/-- The stretch of a domain's clock group: the deepest of its domains, those that a kite has joined to it among them
(R174). -/
def State.groupStretch (s : State) (rd : Nat) : Nat :=
  (s.clockGroup rd).foldl (fun n d => max n ((s.field (d / 11)).stretch.get 0 (d % 11))) 0

/-- Divider that a row domain asks for itself: power manager, held divider, heat (R445, R449, R451). -/
def State.ownDivider (s : State) (rd : Nat) : Nat :=
  let f := s.field (rd / 11)
  max (max (f.pmDiv.get 1 (rd % 11)) (f.divHold.get 1 (rd % 11))) (if f.crit then 8 else 1)

/-- Divider in force: the largest of the group's and its kites' requests (R174, R450), which count for nothing in bring-up
service (R412). -/
def State.divider (s : State) (rd : Nat) : Nat :=
  let g := s.clockGroup rd
  let ks := if s.fw.devMode == .bringup then [] else s.kites.filter fun k => (s.kiteRows k).any g.contains
  (g.map s.ownDivider ++ ks.map fun k => k.clkReq.getD 1).foldl max 1

/-- Lease of the context that a field is granted to. -/
def State.fieldLease (s : State) (f : Nat) : Option Lease :=
  match s.parts.find? fun p => p.hasField f && !p.suspended with
  | none => none
  | some p => match (s.ctx p.ctx).lease with
    | some l => if l.kept.isNone then some l else none
    | none => none

/-- Base clock b of a field (R450, R454); step 3 of R445 takes a lease's clock away. -/
def State.baseMHz (s : State) (f : Nat) : Nat :=
  if s.fw.devMode != .full then 750
  else match s.fieldLease f with
    | some l => if s.power.steps.any (·.1 == 3) then 1500 else l.mhz
    | none => 1500

/-- CLKSTAT (R452). -/
def State.clkstat (s : State) (r : Nat) : Word :=
  let rd := rdOfReel r
  word (s.divider rd % 16 + (s.groupStretch rd % 8) <<< 4 + (s.baseMHz (rd / 11) % 65536) <<< 16)

/-! ## Placement (R18, R41, R421) -/

/-- A field may be granted. -/
def State.mayGrant (s : State) (f : Nat) : Bool :=
  let x := s.field f
  x.healthy && x.offered && !x.retired && !x.testing && !(s.fw.withhold && x.suspect) &&
    !s.parts.any fun p => p.hasField f && !p.evicted

/-- Fields that are granted to some context. -/
def State.grantedFields (s : State) : List Nat :=
  (upto 42).filter fun f => s.parts.any fun p => p.hasField f && !p.evicted

/-- Rectangles of fields, by rising fy and then fx. -/
def placements (w h : Nat) : List (Nat × Nat) :=
  (upto (7 - h)).flatMap fun y => (upto (8 - w)).map fun x => (x, y)

def rectFields (x y w h : Nat) : List Nat :=
  (upto h).flatMap fun j => (upto w).map fun i => 7 * (y + j) + x + i

/-- Field edges that a rectangle shares with granted fields. -/
def sharedEdges (granted : List Nat) (x y w h : Nat) : Nat :=
  (rectFields x y w h).foldl (fun n f =>
    n + (granted.filter fun g =>
      (fieldX f == fieldX g && (fieldY f == fieldY g + 1 || fieldY g == fieldY f + 1)) ||
      (fieldY f == fieldY g && (fieldX f == fieldX g + 1 || fieldX g == fieldX f + 1))).length) 0

/-- Chebyshev distance of two fields. -/
def fieldDistance (f g : Nat) : Nat :=
  let d (a b : Nat) : Nat := if a < b then b - a else a - b
  max (d (fieldX f) (fieldX g)) (d (fieldY f) (fieldY g))

/-- Smallest distance to a granted field; 7 where none is granted. -/
def spreadScore (granted : List Nat) (x y w h : Nat) : Nat :=
  (rectFields x y w h).foldl (fun n f => granted.foldl (fun n g => min n (fieldDistance f g)) n) 7

/-- The candidate that R41 chooses: the best score, the first of equals. -/
def State.place (s : State) (ctx w h : Nat) : Option (Nat × Nat) :=
  if w == 0 || 7 < w || h == 0 || 6 < h then none
  else
    let granted := s.grantedFields
    let cands := (placements w h).filter fun c => (rectFields c.1 c.2 w h).all s.mayGrant
    let score (c : Nat × Nat) : Nat :=
      if (s.ctx ctx).flags.getLsbD 0 then spreadScore granted c.1 c.2 w h else sharedEdges granted c.1 c.2 w h
    match cands with
    | [] => none
    | c :: cs => some (cs.foldl (fun best c => if score best < score c then c else best) c)

/-- A partition just granted: nothing fused, routed or arrived (R15, R18, R257). -/
def Partition.new (h ctx x y w k : Nat) : Partition :=
  { handle := h, ctx := ctx, fx := x, fy := y, w := w, h := k, suspended := false, evicted := false, claimant := none
    claimed := [], saveArea := 0, saved := [], barriers := [], colls := [], cfgQ := [] }

/-- Grants a partition: its handle, or 0 where no candidate exists (R41, R235); to a context that does not exist too (log entry
85). -/
def State.grant (s : State) (ctx w h : Nat) : Nat × State :=
  match s.place ctx w h with
  | none => (0, s)
  | some (x, y) =>
    let (k, s) := s.freshHandle
    (k, { s with parts := s.parts ++ [Partition.new k ctx x y w h] })

/-- The slots of a reel are the partition's: of a victim until the reel is scanned out, then of its claimant (R407). -/
def State.ownsSlots (s : State) (p : Partition) (r : Nat) : Bool :=
  p.hasReel r && !p.evicted && (if p.suspended then !p.claimed.contains (.reel r) else s.reelFree r)

/-- A slot of the partition is occupied, a device-mode strand's too, or a hardware queue targets it (R225, R235). A device-mode
strand of the partition that runs on where EVICT has returned the fields still counts, which no rule says (R406; DESIGN CHOICE,
log entry 120). -/
def State.partBusy (s : State) (p : Partition) : Bool :=
  (s.queues.any fun q => q.2.state != .disabled && q.2.part == p.handle) ||
  (s.reels.any fun rx => rx.2.slots.any fun t => t.2.phase != .free &&
    (t.2.part == p.handle || (t.2.mode == .device && s.ownsSlots p rx.1))) ||
  p.saved.any fun ix => ix.2.slots.any fun t => t.2.phase != .free

/-- Releases a partition with its fabric (R15, R235). -/
def State.release (s : State) (h : Nat) : State :=
  { s with parts := s.parts.filter (·.handle != h), kites := s.kites.filter (·.part != h)
           lines := s.lines.filter (·.part != h) }

/-- ALLOCQ.free: a status of R225. -/
def State.freePart (s : State) (ctx : Nat) (handle : Word) : Nat × State :=
  match s.part? ctx handle.toNat with
  | none => (0x0101, s)
  | some p => if s.partBusy p then (0x0104, s) else (0, s.release p.handle)

end Sys2Proof.Machine
end

