-- ==== Sys2Proof/Machine/Control.lean ====
section
/-! DEFINITION. Transfers, loops and strand control (R209 to R223), with the events that answer a SPAWN, end a WAITQ
or a deadline, and raise WATCHDOG (R28, R36, R389). -/

namespace Sys2Proof.Machine

/-! ## A strand's start (R23, R28) -/

/-- Top of a strand's priority band (R23). -/
def State.topPrio (s : State) (m : Mode) (c : Nat) : Nat :=
  match m with
  | .user => min (s.ctx c).ceil 19
  | .supervisor => 21
  | .device => 23

def State.clampPrio (s : State) (m : Mode) (c p : Nat) : Nat := min p (s.topPrio m c)

/-- Lowest-numbered FREE slot of a reel (R28). -/
def Reel.freeSlot? (x : Reel) : Option Nat := (upto 8).find? fun k => (x.slot k).phase == .free

/-- A strand starts in a FREE slot (R21, R28, R63): the banks of the slot stay as they are. -/
def State.startStrand (s : State) (r : StrandRef) (c : Nat) (task : Option Nat) (part : Nat) (m : Mode) (prio : Nat)
    (pc : Word) (s1 s2 s3 : SReg) : Nat × State :=
  let (h, s) := s.freshHandle
  (h, s.modSlot r fun old =>
    let t := { Slot.reset with
      phase := .live, handle := h, ctx := c, task := task, part := part, mode := m, prio := s.clampPrio m c prio
      pc := pc, banks := old.banks, dly := { old.dly with wrote := true }, readyTick := s.tick }
    ((t.setS 1 s1).setS 2 s2).setS 3 s3)

/-! ## Transfers (R209, R210) -/

/-- The target of an offset in words from the instruction (R106). -/
def targetOf (pc : Word) (off : BitVec 32) : Word := pc + off.signExtend 64 <<< 3

/-- A transfer to a register's value: POISON, then MISALIGN (R209); `issue` has looked at a poisoned guard before (DESIGN
CHOICE, log entry 75). -/
def toRegister (x : SReg) (go : Eff) : Eff :=
  Eff.consume [x.code] (if bitsOf x.val 0 3 != 0 then misalignTrap x.val false else go)

def execBr (f : BF) (s : State) : Host.Outcome State Fault Refusal :=
  issue (.br f) s fun a b => .done (b.setPc (targetOf (a.me).pc f.off))

def execBrr (f : RF) (s : State) : Host.Outcome State Fault Refusal :=
  issue (.brr f) s fun a b => toRegister (a.rs f.sa) (.done (b.setPc (a.rs f.sa).val))

def execCall (f : BF) (s : State) : Host.Outcome State Fault Refusal :=
  issue (.call f) s fun a b =>
    .done ((b.setRs 63 (SReg.clean ((a.me).pc + 8))).setPc (targetOf (a.me).pc f.off))

def execCallr (f : RF) (s : State) : Host.Outcome State Fault Refusal :=
  issue (.callr f) s fun a b =>
    toRegister (a.rs f.sa) (.done ((b.setRs 63 (SReg.clean ((a.me).pc + 8))).setPc (a.rs f.sa).val))

def execRet (f : RF) (s : State) : Host.Outcome State Fault Refusal :=
  issue (.ret f) s fun a b => toRegister (a.rs 63) (.done (b.setPc (a.rs 63).val))

/-- LOOP (R210). Of a poisoned counter and a poisoned bound the counter's code is recorded (DESIGN CHOICE, log entry 75). -/
def execLoop (f : IF) (s : State) : Host.Outcome State Fault Refusal :=
  issue (.loop f) s fun a b =>
    let x := a.rs f.dst
    let y := a.rs f.sa
    Eff.consume [x.code, y.code] <|
      let n := x.val + 1
      let b := b.setRs f.dst (SReg.clean n)
      .done (if n < y.val then b.setPc (targetOf (a.me).pc f.imm) else b)

def execDbnz (f : IF) (s : State) : Host.Outcome State Fault Refusal :=
  issue (.dbnz f) s fun a b =>
    let x := a.rs f.dst
    Eff.consume [x.code] <|
      let n := x.val - 1
      let b := b.setRs f.dst (SReg.clean n)
      .done (if n != 0 then b.setPc (targetOf (a.me).pc f.imm) else b)

/-! ## Strand control (R213 to R223) -/

/-- EXIT (R30, R214). -/
def execExit (f : RF) (s : State) : Host.Outcome State Fault Refusal :=
  issue (.exit f) s fun _ b =>
    .done (State.settleDraining (b.modMe fun t =>
      { t.killAll b.now with phase := .draining, p := [], m := [] }) b.cur)

/-- YIELD: not ready in the next cycle (R31). -/
def execYield (f : RF) (s : State) : Host.Outcome State Fault Refusal :=
  issue (.yield f) s fun _ b => .done (b.modMe fun t => { t with yieldUntil := b.now + 2 })

/-- WAITT: the scoreboard holds it while its token is pending (R215). -/
def execWaitt (f : RF) (s : State) : Host.Outcome State Fault Refusal :=
  issue (.waitt f) s fun _ b => .done b

/-- A WAITQ ends when its counter differs from the value seen or its deadline is reached (R217). -/
def State.checkWaitq (s : State) (r : StrandRef) : State :=
  let t := s.slot r
  match t.wait with
  | .waitq k seen dl dst =>
    let v := s.ev t.ctx k
    if v != seen then
      let s := s.acquireNow r (if k < 2 then 4 else 3)
      s.endWait r dst (SReg.clean v)
    else if duePassed s.tick dl then s.endWait r dst (SReg.clean v)
    else s
  | .idle seen dst =>
    let v := s.evSum t.ctx
    if v != seen then (s.acquireNow r 3).endWait r dst (SReg.clean v) else s
  | _ => s

def execWaitq (f : RF) (s : State) : Host.Outcome State Fault Refusal :=
  issueTainted (.waitq f) s fun a b =>
    let k := a.rs f.sa
    let seen := a.rs f.sb
    let lim := a.rs f.sc
    Eff.consume [k.code, seen.code, lim.code] <|
      let wait := Wait.waitq (bitsOf k.val 0 5) seen.val (deadlineOf a.tick lim.val) f.dst.toNat
      .done (State.checkWaitq (b.modMe fun t => { t with wait := wait, pc := (a.me).pc }) b.cur)

/-- SPAWN: the request goes to the target reel behind a release at device scope (R28, R29, R219). -/
def execSpawn (f : RF) (s : State) : Host.Outcome State Fault Refusal :=
  issueTainted (.spawn f) s fun a b =>
    let d := a.rs f.sa
    let e := a.rs f.sb
    let t := a.me
    Eff.consume [d.code, e.code] <|
      if bitsOf e.val 0 3 != 0 then misalignTrap e.val false
      else
        let bx := bitsOf d.val 0 16
        let by_ := bitsOf d.val 16 16
        match a.myPart? with
        | none => privTrap
        | some p =>
          if 11 * p.w ≤ bx || 11 * p.h ≤ by_ then privTrap
          else
            let (after, b) := b.releaseDeps 3
            let (id, b) := b.fresh
            let sp : Spawn :=
              { id := id, reel := a.cur.reel, slot := a.cur.slot, handle := t.handle, dst := f.dst.toNat
                target := p.reel bx by_, entry := e.val, prio := bitsOf d.val 32 8, arg := a.rs f.sc, ctx := t.ctx
                mode := t.mode, task := t.task, part := p.handle, after := after }
            let b := { b with spawns := b.spawns ++ [sp] }
            .done ((b.setPend (.s f.dst.toNat) id).modMe fun t => { t with spawns := t.spawns + 1 })

def execPrio (f : IF) (s : State) : Host.Outcome State Fault Refusal :=
  issue (.prio f) s fun a b =>
    let x := a.rs f.sa
    Eff.consume [if f.sub == 1 then x.code else none] <|
      let want := if f.sub == 1 then x.val.toNat else bitsOf f.imm 0 5
      .done (b.modMe fun t => { t with prio := a.clampPrio t.mode t.ctx want })

/-- The counters of all fields are one number: readers differ by 0 ticks where R39 and R453 let them differ by 2 (DESIGN CHOICE,
log entry 76). -/
def execTime (f : RF) (s : State) : Host.Outcome State Fault Refusal :=
  issue (.time f) s fun a b => .done (b.setRs f.dst (SReg.of [(a.me).guardCode f.grd] (word a.tick)))

/-- STRID (R222); where no partition holds the reel, its coordinates and extent are free (log entry 2). -/
def execStrid (f : RF) (s : State) : Host.Outcome State Fault Refusal :=
  issue (.strid f) s fun a b =>
    let t := a.me
    let g := t.guardCode f.grd
    match f.sub.toNat with
    | 1 => .done (b.setRs f.dst (SReg.of [g] (word t.handle)))
    | 2 => .done (b.setRs f.dst (SReg.of [g] (word t.part)))
    | _ =>
      let fix := word (a.cur.slot <<< 32 + t.prio <<< 35 + t.mode.rank <<< 40)
      match a.partOfReel? a.cur.reel with
      | some p =>
        .done (b.setRs f.dst (SReg.of [g]
          (fix + word (p.bx a.cur.reel + p.by_ a.cur.reel <<< 16 + p.w <<< 48 + p.h <<< 52))))
      | none =>
        let (w, b) := b.drawWord
        .done (b.setRs f.dst (SReg.of [g] (fix + (w &&& 0x00FF_0000_FFFF_FFFF))))

def execBkpt (f : IF) (s : State) : Host.Outcome State Fault Refusal :=
  issue (.bkpt f) s fun _ _ => .trap { cls := clsBkpt, info := word (bitsOf f.imm 0 16) }

/-! ## Events -/

/-- The target reel can answer: the caller's release is done, and the reel is the partition's (R28, R29). -/
def State.spawnDue (s : State) (sp : Spawn) : Bool :=
  s.allDone sp.after 3 && !(s.part? sp.ctx sp.part).any (·.suspended) && s.reelFree sp.target

/-- SPAWN_ANSWER: the target reel takes the strand or answers 0, once the clocks of both reels run (R28, R29, R450). -/
def execSpawnAnswer (id : Nat) (s : State) : Host.Outcome State Fault Refusal :=
  .next <| match s.spawns.find? (·.id == id) with
    | none => s
    | some sp =>
      let gone := sp.task.any fun k => (s.tasks.find? (·.id == k)).any (·.killed)
      if !(s.spawnDue sp && s.reelRuns sp.target && s.reelRuns sp.reel) then s
      else
        let s := { s with spawns := s.spawns.filter (·.id != id) }
        let (h, s) := match (s.reel sp.target).freeSlot?, gone with
          | some k, false =>
            let r : StrandRef := { reel := sp.target, slot := k }
            let (h, s) := s.startStrand r sp.ctx sp.task sp.part sp.mode sp.prio sp.entry sp.arg
              (SReg.clean (word sp.part)) (SReg.clean (word sp.handle))
            (h, s.acquireNow r 3)
          | _, _ => (0, s)
        match s.slotOf? sp.reel sp.slot sp.handle with
        | none => s
        | some r =>
          let s := s.modSlot r fun t => { t.answered sp.dst id (SReg.clean (word h)) with spawns := t.spawns - 1 }
          s.settleDraining r

/-- WAITQ_WAKE: a counter moved; the strand in WAITQ or IDLE looks again (R217, R233). -/
def execWaitqWake (r : StrandRef) (s : State) : Host.Outcome State Fault Refusal :=
  .next (if (s.slot r).phase == .live then s.checkWaitq r else s)

/-- WAIT_DEADLINE: a wait whose deadline is reached ends (R36, R217, R255). -/
def execWaitDeadline (r : StrandRef) (s : State) : Host.Outcome State Fault Refusal :=
  .next (if (s.slot r).phase == .live then (s.checkWaitq r).checkWaita r else s)

end Sys2Proof.Machine
end

