-- ==== Sys2Proof/Machine/Scoreboard.lean ====
section
/-! DEFINITION. The scoreboard (R46, R55): what holds an instruction before it issues, the judgement of a store to a KV page
(R242, R288), faults of a fetch (R386). -/

namespace Sys2Proof.Machine

/-! ## Faults of a fetch -/

/-- A fetch fault (R386): XLATE with FLAGS bit 1, or POISON with SUB 3, at the word. -/
def State.takeFetchFault (s : State) (r : StrandRef) (f : FetchFail) : State :=
  let pc := (s.slot r).pc
  let t : Trap := if f.poison then { cls := clsPoison, sub := f.sub, fetch := true, addr := pc, info := f.code.zeroExtend 64 }
    else { cls := clsXlate, sub := f.sub, fetch := true, addr := pc, info := word f.level }
  s.takeFault r t 0

/-- FETCH_FAULT: the strand's next word cannot be fetched, and nothing else holds the instruction (R112, R386). -/
def execFetchFault (r : StrandRef) (s : State) : Host.Outcome State Fault Refusal :=
  .next <| if (s.slot r).phase != .live || (s.slot r).wait != .none || (s.slot r).kvHold.isSome then s
    else match s.fetch r with
      | .fail f => s.takeFetchFault r f
      | _ => s

/-! ## A store that a KV page's home judges (R242, R288) -/

/-- Requests that will not be performed. -/
def State.dropReqs (s : State) (ids : List Nat) : State := { s with reqs := s.reqs.filter fun q => !ids.contains q.id }

/-- The judgement has come: the store completes where every page has accepted it, else the strand faults at it and what was to
follow it is not sent. -/
def State.kvSettle (s : State) (r : StrandRef) : State :=
  match (s.slot r).kvHold with
  | none => s
  | some k =>
    let group := s.reqs.filter fun q => k.ids.contains q.id
    if group.any fun q => q.stage == .sent then s
    else match group.find? (·.refused), decode k.word with
      | some q, _ =>
        let addr := ((k.vas.find? (·.1 == q.reply.toNat)).map (·.2)).getD 0
        ((s.dropReqs k.rest).modSlot r fun t => { t with pc := k.pc, kvHold := none }).takeFault r
          { cls := clsKvformat, wrote := true, addr := addr } k.word
      | none, .ok i => s.modSlot r fun t =>
          { Slot.retire i (s.reel r.reel).cycle s.tick t with pc := t.pc, readyTick := t.readyTick, kvHold := none }
      | none, .error _ => s

/-! ## Holds (R46) -/

/-- A register named by an instruction that is a real one: s0, p0 and m0 have no pending write (R43). -/
def Reg.real : Reg → Bool
  | .s 0 | .p 0 | .m 0 => false
  | _ => true

/-- A register whose value is not there yet: a request, an engine, a token or a result's latency (R45 to R48). -/
def Slot.waits (t : Slot) (c : Nat) (r : Reg) : Bool :=
  r.real && (t.pend.any (·.1 == r) || t.readyAt.any (fun x => x.1 == r && c < x.2) ||
    (match r with | .s n => t.toks.any (·.1 == n) | _ => false))

/-- The vector group v[SD] of G + 1 registers that an engine delivers to (R300, R308). -/
def groupRegs (sd : BitVec 6) (g : Nat) : List Reg := (upto (g + 1)).map fun n => .v (sd.toNat + n)

/-- Registers of an instruction, its guard's predicate among them; those of VDROP are its range (R329), and SDRAIN and
KVLD may name a group. -/
def allRegs (i : Instr) : List Reg :=
  let u := usesOf i
  let more := match i with
    | .vdrop f => (upto (f.sb.toNat + 1)).filterMap fun n => if f.sa.toNat ≤ n then some (Reg.v n) else none
    | .sdrain f => if f.bits 0 3 == 4 then groupRegs f.sd (f.bits 6 3) else []
    | .kvld f => if f.bits 0 2 == 0 then groupRegs f.sd (f.bits 2 3) else []
    | _ => []
  Reg.p (guardOf i).p.toNat :: u.reads ++ u.writes ++ more

/-- Conditions under which the strand waits, beside its next instruction's (R26, R31, R242). -/
def Slot.waiting (t : Slot) (c : Nat) : Bool := t.wait != .none || c < t.yieldUntil || t.kvHold.isSome

/-- Strand conditions that keep a slot from issuing (R26, R403). -/
def Slot.stopped (t : Slot) (c : Nat) : Bool := t.phase != .live || t.waiting c || t.walk.isSome

/-- Registers hold the instruction (R46); WAITT waits for a token alone (R215). -/
def Slot.regsHold (t : Slot) (c : Nat) (i : Instr) : Bool :=
  match i with
  | .waitt f => t.waits c (.p f.grd.p.toNat) || t.toks.any (·.1 == f.sa.toNat)
  | _ => (allRegs i).any (t.waits c)

/-- Vector banks that the instruction needs: those of an engine's destinations wait for the engine's write. -/
def bankNeeds (i : Instr) : List Nat :=
  let u := usesOf i
  let rs := match i.shape with | .e _ _ _ => u.reads | _ => u.reads ++ u.writes
  ((vecNums rs).map (· / 4)).eraseDups

/-- Range of the local store that LDL or STL reaches, when the access passes its checks (R55, R57). -/
def State.lsNeeds (s : State) (i : Instr) : Nat × Nat :=
  let range (f : MF) (load : Bool) : Nat × Nat :=
    let ea := (eaOf s f).toNat
    let w := f.ty.bits / 8
    if (s.rs f.base).psn || (s.rs f.idx).psn || ea % w != 0 || lsSize < ea + w then (0, 0)
    else if load && !(s.reel s.cur.reel).lsReadable ea w then (0, 0)
    else (ea, w)
  match i with
  | .ldl f => range f true
  | .stl f => range f false
  | _ => (0, 0)

/-- The instruction would reach its banks: it is well-formed, allowed, its guard holds, no dead register, nothing else holds
it (R50, R51, R55). -/
def State.reaches (s : State) (i : Instr) : Bool :=
  i.wf && !((s.me).mode.rank < rankOf i) && (s.me).proceeds i && ((s.me).firstDead (usesOf i).reads).isNone && !s.issueHold i

/-- Vector banks and a range of the local store that are not FULL and that the instruction needs (R46, R55). -/
def State.banksHeld (s : State) (i : Instr) : List Nat × Bool :=
  if !s.reaches i then ([], false)
  else
    let (off, n) := s.lsNeeds i
    ((bankNeeds i).filter fun b => ((s.me).bank b).supply != .full,
     (lsBanksOf off n).any fun b => ((s.reel s.cur.reel).lsBank b).supply != .full)

/-- Banks that hold the instruction; their wakes start (R55). -/
def State.bankHold (s : State) (i : Instr) : Option State :=
  let (vs, ls) := s.banksHeld i
  let (off, n) := s.lsNeeds i
  if vs.isEmpty && !ls then none
  else
    let who : Waker := .strand s.cur.slot (s.me).pc
    let s := s.wakeVec s.cur who vs
    some (if ls then s.wakeStore s.cur.reel who off n else s)

/-- The strand `s.cur` is in WAIT at the instruction (R26, R46). -/
def State.holds (s : State) (i : Instr) : Bool :=
  (s.me).regsHold s.now i ||
  (i.wf && !((s.me).mode.rank < rankOf i) && (s.me).proceeds i && ((s.me).firstDead (usesOf i).reads).isNone &&
    s.issueHold i) ||
  s.banksHeld i != ([], false)

end Sys2Proof.Machine
end

