-- ==== Sys2Proof/Machine/Image.lean ====
section
/-! DEFINITION. Save images of a strand and of a reel (R64 to R68): writing one, refusing one, restoring one. A poisoned
register is a poisoned granule of the image (R396). -/

namespace Sys2Proof.Machine

/-! ## Writing -/

/-- Eight bytes; a poisoned register makes its low granule poisoned. -/
def sregBytes (x : SReg) : List PByte :=
  match x.code with
  | some c => ((bytesOf c 4).map fun b => (b, some c)) ++ cleanBytes (List.replicate 4 0)
  | none => wordBytes x.val

def vregBytes (x : VReg) : List PByte :=
  (upto 256).map fun i => (byteOf x.val i, x.code (i / 4))

/-- WAITK of R65. -/
def Wait.kind : Wait → Nat
  | .none => 0
  | .waitq _ _ _ _ | .idle _ _ => 2
  | .waita _ => 3
  | .barw _ _ _ _ _ _ => 4
  | .ctxld _ => 0
  | .image k _ => k

/-- The absolute deadline of a WAITQ or WAITA (R64, R218, R256), else 0; the image holds its low 64 bits, of a deadline that the
counter never reaches too (DESIGN CHOICE, log entry 87). -/
def Wait.deadline : Wait → Nat
  | .waitq _ _ (some d) _ => d
  | .waita x => x.deadline.getD 0
  | .image _ d => d
  | _ => 0

/-- WAITK 1 when an instruction is a WAITT whose token is pending (R215). -/
def Slot.waitt (t : Slot) : Instr → Nat
  | .waitt f => bit (t.toks.any (·.1 == f.sa.toNat))
  | _ => 0

/-- STATE and WAITK of a strand that has stopped: FAULTED, as a loaded image gives them, or as they were when it was suspended
(R65, R218, R232). -/
def Slot.savedState (t : Slot) : Nat × Nat :=
  match t.phase, t.resume with
  | .faulted, _ => (4, 0)
  | _, some (st, w) => (st, w.kind)
  | _, none => (t.wasState, t.wasKind)

/-- The wait that the strand goes on with. -/
def Slot.savedWait (t : Slot) : Wait :=
  match t.resume with
  | some (_, w) => w
  | none => t.wait

/-- STATE and WAITK that a strand has: FAULTED, DRAINING, WAIT or READY; a word that is missing from the instruction L1 holds
the instruction (R26, R65, R211), and so does a page walk that the instruction awaits (log entry 74). -/
def State.stateOf (s : State) (r : StrandRef) : Nat × Nat :=
  let s := { s with cur := r }
  let t := s.slot r
  match t.phase with
  | .faulted | .suspended => t.savedState
  | .draining => (5, 0)
  | _ =>
    if t.waiting s.now then (2, t.wait.kind)
    else match s.fetch r with
      | .word w => match decode w with
        | .ok i => if t.walk.isSome || s.holds i then (2, t.waitt i) else (1, 0)
        | .error _ => (1, 0)
      | .fail _ => (1, 0)
      | _ => (2, match t.fetched.map decode with
          | some (.ok i) => t.waitt i
          | _ => 0)

/-- Mask of the keys of a table. -/
def keyMask (w : Nat) (m : SMap Nat) : BitVec w := m.foldl (fun x kv => setBit x kv.1 true) 0

/-- The strand image (R64, R65) with its STATE and WAITK. -/
def Slot.image (t : Slot) (st wk : Nat) : List PByte :=
  let lives := onesOf t.live
  let preds := (upto 8).map t.getP
  let header := word (1 <<< 48 + st <<< 45 + t.prio <<< 40 + t.mode.rank <<< 38 + wk <<< 35 + lives.length <<< 28)
  wordBytes header ++ wordBytes t.pc ++ wordBytes t.live ++ wordBytes (keyMask 64 t.toks) ++
  sregBytes (SReg.of (preds.map (·.code)) (word (natOfLanes 1 (preds.map fun p => bit p.val)))) ++
  (upto 8).flatMap (fun i => sregBytes (t.getM i)) ++ wordBytes (word (if st == 2 then t.savedWait.deadline else 0)) ++
  wordBytes (t.seed.zeroExtend 64) ++ wordBytes ((t.bkRet ++ t.bkOff).zeroExtend 64) ++
  wordBytes t.bkwr ++ wordBytes t.bkwo ++ wordBytes t.bkwc ++ cleanBytes (List.replicate 104 0) ++
  (upto 64).flatMap (fun i => sregBytes (t.getS i)) ++ lives.flatMap fun n => vregBytes (t.getV n)

/-- The reel image (R67). -/
def Reel.image (x : Reel) : List PByte :=
  let slabs := onesOf x.lsLive
  let rows := onesOf x.written
  wordBytes (word (1 <<< 48 + slabs.length <<< 38 + rows.length <<< 29)) ++ cleanBytes (bytesOf x.lsLive 64) ++
  cleanBytes (bytesOf x.written 32) ++ wordBytes ((x.lsRet ++ x.lsOff).zeroExtend 64) ++
  cleanBytes (List.replicate 16 0) ++
  slabs.flatMap (fun n => (upto 1024).map fun i => (x.ls.get 0 (1024 * n + i), x.lsCode (256 * n + i / 4))) ++
  rows.flatMap fun n => vregBytes (x.tile.get VReg.zero n)

/-! ## Reading -/

def imgWord (l : List PByte) (off : Nat) : Word := word (natOfBytes (plainBytes ((l.drop off).take 8)))

def imgSReg (l : List PByte) (off : Nat) : SReg :=
  SReg.of [firstCode ((l.drop off).take 8)] (imgWord l off)

def imgVReg (l : List PByte) (off : Nat) : VReg :=
  let bs := (l.drop off).take 256
  { val := BitVec.ofNat 2048 (natOfBytes (plainBytes bs))
    psn := BitVec.ofNat 64 (natOfLanes 1 ((upto 64).map fun g => bit ((bs.getD (4 * g) (0, none)).2.isSome))) }

def allZero (l : List PByte) : Bool := l.all fun b => b.1 == 0

/-- Length of a strand image from its header. -/
def strandImageSize (h : Word) : Nat := 0x300 + 256 * bitsOf h 28 7
/-- Length of a reel image from its header. -/
def reelImageSize (h : Word) : Nat := 0x80 + 1024 * bitsOf h 38 10 + 256 * bitsOf h 29 9

/-- A strand image that CTXLD refuses (R65). Bits 63:8 of the predicates' word, which R64 gives as zero, are taken as reserved
and refuse it (DESIGN CHOICE, log entry 79); the upper halves of its SEED and BKDLY words, of which no rule says that they are
reserved, are not judged (DESIGN CHOICE, log entry 79). -/
def strandImageBad (l : List PByte) : Bool :=
  let h := imgWord l 0
  let st := bitsOf h 45 3
  let wk := bitsOf h 35 3
  bitsOf h 48 16 != 1 || bitsOf h 28 7 != popCount (imgWord l 0x10) || bitsOf h 0 28 != 0 ||
  bitsOf (imgWord l 0x20) 8 56 != 0 || !allZero ((l.drop 0x98).take 104) ||
  st == 0 || st == 3 || st == 6 || st == 7 || 23 < bitsOf h 40 5 || bitsOf h 38 2 == 3 ||
  5 ≤ wk || (wk != 0 && st != 2) || (imgWord l 0x18).getLsbD 0

def reelImageBad (l : List PByte) : Bool :=
  let h := imgWord l 0
  let live := natOfBytes (plainBytes ((l.drop 8).take 64))
  let rows := natOfBytes (plainBytes ((l.drop 0x48).take 32))
  bitsOf h 48 16 != 1 || bitsOf h 0 29 != 0 || !allZero ((l.drop 0x70).take 16) ||
  bitsOf (imgWord l 0x68) 32 32 != 0 ||
  bitsOf h 38 10 != popCount (BitVec.ofNat 512 live) || bitsOf h 29 9 != popCount (BitVec.ofNat 256 rows)

/-- MODE of a strand image. -/
def imgMode (l : List PByte) : Mode :=
  match bitsOf (imgWord l 0) 38 2 with
  | 0 => .user
  | 1 => .supervisor
  | _ => .device

/-- Banks after a restore: FULL where something live lies in them, else on their way to OFF (R68). -/
def Bank.restored (c : Nat) (live : Bool) (b : Bank) : Bank :=
  if live then { supply := .full, touch := c, dead := none, wake := none } else { b with dead := some c }

/-- Restores a strand image into a slot that keeps its place, handle, context, task and phase (R68, R218, R232). No rule says
what a PC with bits 2:0 set becomes: they are cleared (R43; DESIGN CHOICE, log entry 100). -/
def Slot.load (c : Nat) (prio : Nat) (l : List PByte) (t : Slot) : Slot :=
  let h := imgWord l 0
  let live := imgWord l 0x10
  let lives := onesOf live
  let mask := imgWord l 0x18
  let pr := imgSReg l 0x20
  let dly := imgWord l 0x78
  let seed := (imgWord l 0x70).extractLsb' 0 32
  let t := { t with
    pc := imgWord l 8 &&& ~~~7#64, mode := imgMode l, prio := prio, live := live
    toks := (onesOf mask).foldl (fun m n => m.ins n (t.toks.get 0 n)) []
    s := [], m := [], p := [], v := [], readyAt := [], reuse := none
    seed := if seed == 0 then 1 else seed, bkOff := dly.extractLsb' 0 16, bkRet := dly.extractLsb' 16 16
    bkwr := imgWord l 0x80, bkwo := imgWord l 0x88, bkwc := imgWord l 0x90
    resume := some (bitsOf h 45 3, if bitsOf h 35 3 == 0 then .none else .image (bitsOf h 35 3) (imgWord l 0x68).toNat) }
  let t := (upto 64).foldl (fun (t : Slot) i => t.setS i (imgSReg l (0x100 + 8 * i))) t
  let t := (upto 8).foldl (fun (t : Slot) i => t.setM i (imgSReg l (0x28 + 8 * i))) t
  let t := (upto 8).foldl (fun (t : Slot) i => t.setP i { val := pr.val.getLsbD i, code := pr.code }) t
  let t := (upto lives.length).foldl (fun (t : Slot) k =>
    { t with v := t.v.put VReg.zero (lives.getD k 0) (imgVReg l (0x300 + 256 * k)) }) t
  (upto 16).foldl (fun (t : Slot) b => t.setBank b ((t.bank b).restored c (t.bankLive b))) t

/-- Restores a reel image (R67, R68). -/
def Reel.load (l : List PByte) (x : Reel) : Reel :=
  let live := BitVec.ofNat 512 (natOfBytes (plainBytes ((l.drop 8).take 64)))
  let rows := BitVec.ofNat 256 (natOfBytes (plainBytes ((l.drop 0x48).take 32)))
  let dly := imgWord l 0x68
  let slabs := onesOf live
  let rs := onesOf rows
  let base := 0x80 + 1024 * slabs.length
  let x := { x with lsLive := live, ls := [], lsPsn := [], tile := [], written := rows
                    lsOff := dly.extractLsb' 0 16, lsRet := dly.extractLsb' 16 16 }
  let x := (upto slabs.length).foldl (fun (x : Reel) k =>
    let bs := (l.drop (0x80 + 1024 * k)).take 1024
    let (m, p) := putBytes (codeAt (1024 * slabs.getD k 0) bs) 1025 x.ls x.lsPsn (1024 * slabs.getD k 0) (plainBytes bs)
    { x with ls := m, lsPsn := p }) x
  let x := (upto rs.length).foldl (fun (x : Reel) k =>
    { x with tile := x.tile.put VReg.zero (rs.getD k 0) (imgVReg l (base + 256 * k)) }) x
  (upto 32).foldl (fun (x : Reel) b => x.setLsBank b ((x.lsBank b).restored x.cycle (x.lsBankLive b))) x

end Sys2Proof.Machine
end

