-- ==== Sys2Proof/Machine/Preempt.lean ====
section
/-! DEFINITION. Tokens (R45), the strand behind a handle wherever its state stands, and pre-emption: PMTCMD, suspension,
scan-out, eviction and restore (R35, R36, R405 to R410). -/

namespace Sys2Proof.Machine

/-! ## Scanned-out state (R407 to R409) -/

/-- Offset of a block's images in its field's region, and of the region in the save area (R408). -/
def Partition.imageBase (p : Partition) (i : Nat) : Nat :=
  let bx := i % (11 * p.w)
  let by_ := i / (11 * p.w)
  p.saveArea + 0x10000 + 0x8000000 * (p.w * (by_ / 11) + bx / 11) + 0xC0000 * (11 * (by_ % 11) + bx % 11)

/-- Bytes of the save area (R408). -/
def saveAreaSize (w h : Nat) : Nat := 0x10000 + 0x8000000 * (w * h)

/-- Offsets of a block's cell image and router image in the save area (R408). -/
def Partition.cellImage (p : Partition) (i : Nat) : Nat :=
  let bx := i % (11 * p.w)
  let by_ := i / (11 * p.w)
  p.saveArea + 0x10000 + 0x8000000 * (p.w * (by_ / 11) + bx / 11) + 0x5AC0000 + 0x8000 * (11 * (by_ % 11) + bx % 11)

def Partition.routerImage (p : Partition) (i : Nat) : Nat :=
  let bx := i % (11 * p.w)
  let by_ := i / (11 * p.w)
  p.saveArea + 0x10000 + 0x8000000 * (p.w * (by_ / 11) + bx / 11) + 0x5F00000 + 0x40000 * (11 * (by_ % 11) + bx % 11)

/-- A device-private image of `n` bytes is written: its version and contents that the manual does not give, while what it holds
stays with the partition (log entry 88). -/
def State.savePrivate (s : State) (pa n : Nat) : State :=
  let d := s.draws
  let rest := (upto (n - 8)).map fun i => (Config.imageByte d i, none)
  { s with draws := d + 1 }.homeWrite noField true pa (wordBytes Config.imageVersion ++ rest)

/-- Writes a strand's image to the save area. -/
def State.saveStrand (s : State) (p : Partition) (i k : Nat) (t : Slot) : State :=
  s.homeWrite noField true (p.imageBase i + 0x4400 * k) (t.image t.savedState.1 t.savedState.2)

/-- A saved strand as its image in the save area has it now: software may have changed it, and its granules may be poisoned; an
image that R65 refuses changes nothing (R64, R396, R410, log entry 88). -/
def State.savedSlot (s : State) (p : Partition) (i k : Nat) : Slot :=
  let x := p.saved.get Reel.reset i
  let t := x.slot k
  let pa := p.imageBase i + 0x4400 * k
  let own := t.image t.savedState.1 t.savedState.2
  if s.memBytes pa own.length == own then t
  else
    let img := s.memBytes pa (strandImageSize (word (s.memWord pa 8)))
    if strandImageBad img then t
    else t.load x.cycle (s.clampPrio (imgMode img) t.ctx (bitsOf (imgWord img 0) 40 5)) img

/-- A saved reel as its images in the save area have it now (R67, R410). -/
def State.savedReel (s : State) (p : Partition) (i : Nat) : Reel :=
  let x := p.saved.get Reel.reset i
  let x := { x with slots := x.slots.map fun kt => (kt.1, s.savedSlot p i kt.1) }
  let pa := p.imageBase i + 0x22000
  if s.memBytes pa x.image.length == x.image then x
  else
    let img := s.memBytes pa (reelImageSize (word (s.memWord pa 8)))
    if reelImageBad img then x else x.load img

/-- Applies a write to a strand by its handle: in its slot, or, once scanned out, in its saved state and its image
(R409). -/
def State.withStrand (s : State) (reel slot handle : Nat) (f : Slot → Slot) : State :=
  match s.slotOf? reel slot handle, s.savedAt? handle with
  | some r, _ => s.modSlot r f
  | none, some (p, i, k) =>
    let t := f (s.savedSlot p i k)
    (s.modPart p.handle fun p => { p with saved := p.saved.ins i ((p.saved.get Reel.reset i).setSlot k t) }).saveStrand p i k t
  | none, none => s

/-- A strand of a context and the cycle number of its reel, wherever its state stands. -/
def State.strandSlot? (s : State) (ctx handle : Nat) : Option (Slot × Nat) :=
  match s.strand? ctx handle, s.savedAt? handle with
  | some r, _ => some (s.slot r, (s.reel r.reel).cycle)
  | none, some (p, i, k) =>
    if p.ctx == ctx then some (s.savedSlot p i k, (p.saved.get Reel.reset i).cycle) else none
  | none, none => none

/-! ## Tokens (R45, R225, R292) -/

/-- A token is written: its register where it is still pending for this command, and what waited for the command's
other destinations goes on (R30, R45, R47). -/
def State.writeToken (s : State) (reel slot handle tok id : Nat) (w : Word) : State :=
  let s := s.withStrand reel slot handle fun t =>
    let t := if t.toks.any (fun kv => kv.1 == tok && kv.2 == id) then
        { t.setS tok (SReg.clean w) with toks := t.toks.del tok }
      else t
    { t with owed := t.owed - 1, pend := t.pend.filter (·.2 != id) }
  match s.slotOf? reel slot handle with
  | some r => s.settleDraining r
  | none => s

/-- An answer reaches a register that waits for it (R235, R331). -/
def State.answer (s : State) (a : Asker) (w : Word) : State :=
  s.withStrand a.reel a.slot a.handle fun t => t.answered a.dst a.id (SReg.clean w)

/-! ## Scan-out and scan-in (R407, R410) -/

/-- A reel's state leaves it: images of its strands, of its shared state and of its engines to the save area, and all of it
with the partition; device-mode strands, counters and caches stay. -/
def State.scanOut (s : State) (p : Partition) (n : Nat) : State :=
  let i := p.index n
  let x := s.reel n
  let mine := x.slots.filter fun kt => kt.2.mode != .device
  let s := mine.foldl (fun s kt => s.saveStrand p i kt.1 kt.2) s
  let s := (s.homeWrite noField true (p.imageBase i + 0x22000) x.image).savePrivate (p.imageBase i + 0xB3000) 0x1000
  let kept := { Reel.reset with
    cycle := x.cycle, slots := x.slots.filter (fun kt => kt.2.mode == .device), ptr := x.ptr, lsDly := x.lsDly
    lswr := x.lswr, lswo := x.lswo, lswc := x.lswc, l1 := x.l1, icache := x.icache, tlb := x.tlb }
  let s := s.setReel n kept
  s.modPart p.handle fun p =>
    { p with saved := p.saved.ins i { x with slots := mine, l1 := [], icache := [], tlb := [] }, claimed := .reel n :: p.claimed }

/-- A block's cells and router leave it; their state is that of the partition's kites and lines (R407, R408). -/
def State.scanOutBlock (s : State) (p : Partition) (n : Nat) : State :=
  let i := p.index n
  ((s.savePrivate (p.cellImage i) 0x8000).savePrivate (p.routerImage i) 0x40000).modPart p.handle fun p =>
    { p with claimed := .block n :: p.claimed }

/-- A block that a claimant needs holds nothing of the victim any more (R407). -/
def State.blockFree (s : State) (n : Nat) : Bool :=
  match s.suspendedOver n with
  | none => true
  | some p => p.claimed.contains (.block n)

/-- Blocks whose routers the rounds of a partition's collectives pass, as reels (R261, R407). -/
def Partition.collBlocks (p : Partition) (cs : List Contrib) : List Nat :=
  cs.flatMap fun c => (upto c.wy).flatMap fun y => (upto c.wx).map fun x => p.reel x y

/-- Cycles counted on one reel, as another counts them from the same moment. -/
def Slot.rebase (old new : Nat) (t : Slot) : Slot :=
  let at_ (c : Nat) : Nat := c + new - old
  { t with readyAt := t.readyAt.map fun x => (x.1, at_ x.2), yieldUntil := at_ t.yieldUntil, vbtUntil := at_ t.vbtUntil }

/-- A reel's state comes back; liveness returns under R68. Where a device-mode strand has taken a slot of it meanwhile, that
strand keeps the slot, and the victim's strand of the same slot is lost (DESIGN CHOICE, log entry 111). -/
def State.scanIn (s : State) (n : Nat) (x : Reel) : State :=
  s.modReel n fun y =>
    let slots := x.slots.map fun kt =>
      (kt.1, (upto 16).foldl (fun (t : Slot) b => t.setBank b ((t.bank b).restored y.cycle (t.bankLive b)))
        (kt.2.rebase x.cycle y.cycle))
    let z := { x with cycle := y.cycle, slots := [], ptr := y.ptr, lsDly := y.lsDly, lswr := y.lswr, lswo := y.lswo
                      lswc := y.lswc, tileBusy := x.tileBusy + y.cycle - x.cycle, l1 := y.l1, icache := y.icache, tlb := y.tlb }
    let z := (slots ++ y.slots.filter fun kt => kt.2.mode == .device).foldl (fun (z : Reel) kt => z.setSlot kt.1 kt.2) z
    (upto 32).foldl (fun (z : Reel) b => z.setLsBank b ((z.lsBank b).restored z.cycle (z.lsBankLive b))) z

/-- Writes still owed to a reel: requests with data to land (R409). An engine command that has requests left stays pending
with its counters. -/
def State.owedTo (s : State) (n : Nat) : Bool := s.reqs.any fun q => q.reel == n && q.dst != .none

/-! ## Commands (R405, R406, R410) -/

/-- Strands of a partition's context that pre-emption stops (R406). -/
def State.victims (s : State) (p : Partition) : List (StrandRef × Slot) :=
  s.strands.filter fun x => p.hasReel x.1.reel && x.2.ctx == p.ctx && x.2.mode != .device

/-- A strand goes to SUSPENDED; its watchdog count stands still (R35, R389). A CTXLD that could not read its image yet has had no
effect and issues again (R66, log entry 74). -/
def State.suspendStrand (s : State) (r : StrandRef) : State :=
  let (st, wk) := s.stateOf r
  let t := s.slot r
  let t := { t with phase := .suspended, wasState := st, wasKind := wk, wait := t.wait.unlessLoading, walk := none
                    fetchFail := none, readyTick := s.tick - t.readyTick }
  { s.setSlot r t with
    walks := s.walks.filter fun w => w.who != .strand r }

/-- A suspended strand goes on in the state it had, or in that of an image loaded meanwhile (R27, R36, R218). -/
def Slot.restored (tick : Nat) (t : Slot) : Slot :=
  let (st, w) := t.resume.getD (t.wasState, t.wait)
  { t with phase := if st == 4 then .faulted else if st == 5 then .draining else .live, wait := w, resume := none
           recheck := true, readyTick := tick - t.readyTick }

/-- A lease stands still with the µs that remain (R455). -/
def State.keepLease (s : State) (c : Nat) : State :=
  s.modCtx c fun x => { x with lease := x.lease.map fun l =>
    if l.kept.isNone then { l with kept := some ((l.expiry - s.tick) / 1000) } else l }

/-- A lease goes on, or ends on a new placement (R455). -/
def State.resumeLease (s : State) (c : Nat) (moved : Bool) : State :=
  match (s.ctx c).lease with
  | some l => match l.kept with
    | some k =>
      if moved then { s.modCtx c (fun x => { x with lease := none }) with
                      power := { s.power with cancelled := s.power.cancelled + 1 } }
      else s.modCtx c fun x => { x with lease := some { l with expiry := s.tick + 1000 * k, kept := none } }
    | none => s
  | none => s

/-- Dirty sectors of the partition's reels go to their homes (R406). -/
def State.flushPart (s : State) (p : Partition) : State :=
  (s.reels.keys.filter p.hasReel).foldl (fun s n => (s.writeBackOf n (s.reel n).l1.keys).2) s

/-- Nothing is left of step 3 of R406: no sector of the partition is dirty, and every write of its reels is performed at
system scope (R143). -/
def State.partReleased (s : State) (p : Partition) : Bool :=
  (s.reels.all fun rx => !p.hasReel rx.1 || rx.2.l1.all fun kv => kv.2.dirty == 0) &&
  (s.reqs.all fun q => !p.hasReel q.reel || s.reqDone q 4) &&
  s.reels.all fun rx => !p.hasReel rx.1 ||
    (rx.2.feedQ ++ rx.2.kvQ ++ rx.2.drainQ ++ rx.2.copyQ).all fun c => c.lines.all s.lineDone

/-- CODE with which a command ends at once, or 0 (R405). -/
def State.pmtRefusal (s : State) : Nat :=
  match s.part? s.pmt.jVict s.pmt.jPart.toNat with
  | none => 0x0101
  | some p =>
    if !(s.ctx s.pmt.jVict).live || !(s.ctx s.pmt.jClaim).live then 0x0101
    else if s.pmt.op == 2 then
      if !p.suspended then 0x0102
      else if p.evicted then (if (s.place p.ctx p.w p.h).isNone then 0x0104 else 0)
      else if s.parts.any fun c => p.claimant == some c.handle then 0x0104
      else 0
    else if p.suspended then 0x0102
    else if dramTop < s.pmt.jSave.toNat + saveAreaSize p.w p.h then 0x0105
    else 0

/-- STATUS of FWREQ for a CODE of PMTSTAT (R415). -/
def fwStatusOf (code : Nat) : Nat :=
  match code with
  | 0 => 0
  | 0x0101 => 5
  | 0x0102 => 8
  | 0x0104 => 6
  | _ => 9

/-- The command ends (R405, R415). -/
def State.pmtEnd (s : State) (code : Nat) : State :=
  let s' := { s with pmt := { s.pmt with busy := false, code := code, viaFw := false } }
  if s.pmt.viaFw then
    { s' with fw := { s.fw with reqStatus := fwStatusOf code, rsp := if s.pmt.op == 1 && code == 0 then s.pmt.out else s.fw.rsp } }
  else s'

/-- SUSPEND and EVICT end: write-backs are done, the partition image is written, the fields go to the claimant or to the
allocator (R405, R406). -/
def State.suspendPart (s : State) (p : Partition) : State :=
  let area := s.pmt.jSave.toNat
  let s := (s.keepLease p.ctx).savePrivate area 0x10000
  let s := s.modPart p.handle fun p => { p with suspended := true, saveArea := area, claimed := [], saved := [] }
  if s.pmt.op == 3 then
    let p' := { p with suspended := true, saveArea := area }
    let s := p.reels.foldl (fun s n => (s.scanOut p' n).scanOutBlock p' n) s
    let s := s.modPart p.handle fun p => { p with evicted := true }
    { s with pmt := { s.pmt with units := 242 * p.w * p.h } }.pmtEnd 0
  else
    let (h, s) := s.freshHandle
    let s := { s with parts := s.parts ++ [Partition.new h s.pmt.jClaim p.fx p.fy p.w p.h] }
    let s := s.modPart p.handle fun p => { p with claimant := some h }
    { s with pmt := { s.pmt with out := word h } }.pmtEnd 0

/-- Reel numbers of the partition's own objects follow it to a new placement (R410). -/
def State.movePart (s : State) (p q : Partition) : State :=
  let moved (n : Nat) : Nat := if p.hasReel n then q.ofIndex (p.index n) else n
  let follow (c : Cmd) : Cmd := { c with reel := moved c.reel }
  let s := { s with
    spawns := s.spawns.map fun (sp : Spawn) =>
      if sp.part == p.handle then { sp with reel := moved sp.reel, target := moved sp.target } else sp
    kites := s.kites.map fun (k : Kite) => if k.part == p.handle then { k with swap := k.swap.map follow } else k
    invs := s.invs.map fun (v : TlbInv) => { v with reel := if v.ctx == p.ctx then moved v.reel else v.reel } }
  s.modPart p.handle fun x =>
    { x with fx := q.fx, fy := q.fy, colls := x.colls.map fun (c : Contrib) => { c with reel := moved c.reel }
             cfgQ := x.cfgQ.map follow }

/-- The commands of a reel that is placed on another. -/
def Reel.placed (x : Reel) (n : Nat) : Reel :=
  let at_ : List Cmd → List Cmd := List.map fun c => { c with reel := n }
  { x with feedQ := at_ x.feedQ, kvQ := at_ x.kvQ, drainQ := at_ x.drainQ, copyQ := at_ x.copyQ, ctlQ := at_ x.ctlQ }

/-- RESTORE ends (R410): saved reels return, every strand acquires at system scope and goes on. -/
def State.restorePart (s : State) (p : Partition) : State :=
  let (s, q) := if p.evicted then
      match s.place p.ctx p.w p.h with
      | some (x, y) =>
        let q := { p with fx := x, fy := y }
        (s.movePart p q, q)
      | none => (s, p)
    else (s, p)
  let s := p.saved.keys.foldl (fun (s : State) i => s.scanIn (q.ofIndex i) ((s.savedReel p i).placed (q.ofIndex i))) s
  let units := p.saved.length + (p.claimed.filter fun u => match u with | .block _ => true | _ => false).length
  let s := s.modPart p.handle fun x =>
    { x with stopped := false, suspended := false, evicted := false, claimant := none, claimed := [], saved := [] }
  let s := (s.reels.keys.filter q.hasReel).foldl (fun s n => s.modReel n Reel.dropClean) s
  let s := (s.victims q).foldl (fun s x =>
    if x.2.phase == .suspended then (s.modSlot x.1 (Slot.restored s.tick)).settleDraining x.1 else s) s
  let s := s.resumeLease p.ctx (p.fx != q.fx || p.fy != q.fy)
  { s with pmt := { s.pmt with units := units } }.pmtEnd 0

/-- PMTCMD, or the same from FWREQ: it starts unless one is in progress (R405). -/
def State.pmtStart (s : State) (op vict claim : Nat) (part save : Word) (viaFw : Bool) : State :=
  if s.pmt.busy || op == 0 then s
  else { s with pmt := { s.pmt with busy := true, op := op, viaFw := viaFw, units := 0, jVict := vict, jClaim := claim
                                    jPart := part, jSave := save } }

/-- PMTCMD with the operands of its CSRs (R392). -/
def State.pmtCommand (s : State) (op : Nat) : State := s.pmtStart op s.pmt.vict s.pmt.claim s.pmt.part s.pmt.save false

/-- A strand stops at an instruction boundary: a store that its home has still to judge is judged first (R242, R406). -/
def mayStop (x : StrandRef × Slot) : Bool := x.2.kvHold.isNone && x.2.phase != .suspended

/-- A suspension goes on as far as it can: the strands stop, what they issued completes, dirty sectors are written back and
performed (R35, R66, R406). -/
def State.suspendStep (s : State) (p : Partition) : State :=
  let s := (s.victims p).foldl (fun s x => s.kvSettle x.1) s
  let vs := s.victims p
  let run := vs.filter mayStop
  if !run.isEmpty then run.foldl (fun s x => s.suspendStrand x.1) s
  else if (vs.any fun x => x.2.phase != .suspended) || (s.spawns.any fun sp => sp.part == p.handle) ||
      (s.saves.any fun v => p.hasReel v.reel && v.ctx == p.ctx) ||
      (s.reqs.any fun q => p.hasReel q.reel && q.stage == .sent) then s
  else if s.pmt.op == 3 && (s.reels.keys.any fun n => p.hasReel n && s.owedTo n) then s
  else if s.partReleased p then s.suspendPart p
  else s.flushPart p

/-- The command in progress goes on, and ends when nothing is left of it. It is judged when it begins; from then on the row
domains of the victim are gated (R405, R406). -/
def State.pmtStep (s : State) : State :=
  if !s.pmt.busy then s
  else match s.part? s.pmt.jVict s.pmt.jPart.toNat with
    | none => s.pmtEnd 0x0101
    | some p =>
      if s.pmt.op != 2 && p.stopped && !p.suspended then s.suspendStep p
      else match s.pmtRefusal with
        | 0 => if s.pmt.op == 2 then s.restorePart p
               else (s.modPart p.handle fun p => { p with stopped := true }).suspendStep { p with stopped := true }
        | code => s.pmtEnd code

end Sys2Proof.Machine
end

