-- ==== Sys2Proof/Machine/System.lean ====
section
/-! DEFINITION. System instructions (R224 to R235): traps and returns, CSRs (R63, R376, R392, R429, R452), translation
invalidation (R230, R404), images (R231, R232), event posts, the allocator. -/

namespace Sys2Proof.Machine

/-! ## Results of collectives (R262) and the watchdog (R389) -/

/-- The result reaches one participant; one whose strand is saved takes it as an owed write (R262, R409). -/
def State.collDeliver (s : State) (c : Contrib) (x : SReg) : State :=
  let s := match c.acq, s.slotOf? c.reel c.slot c.handle with
    | true, some r => s.acquireNow r c.scope
    | _, _ => s
  s.withStrand c.reel c.slot c.handle fun t =>
    { t.answered c.dst c.pendId x with acqs := t.acqs.filter (· != c.pendId) }

/-- The round of a collective that its partition's tree completes next (R192, R262, R407). -/
def State.collDue (s : State) (p : Partition) (cs : List Contrib) : Bool :=
  roundComplete cs && (p.suspended || (p.collBlocks (cs.take 1)).all s.blockFree)

/-- COLL_RESULT: the root's result travels back to every participant of the round, also while its partition is suspended; a
claimant's waits for the routers it passes, and every one for the participants' clocks (R192, R262, R407, R450). -/
def execCollResult (part id : Nat) (s : State) : Host.Outcome State Fault Refusal :=
  .next <| match s.partByHandle? part with
    | none => s
    | some p =>
      let cs := p.openRound id
      if !(s.collDue p cs && cs.all fun c => s.reelRuns c.reel) then s
      else
        let round := (cs.map (·.round)).headD 0
        let s := s.modPart part fun p => { p with colls := p.colls.filter fun c => !(c.id == id && c.round == round) }
        match roundResult cs with
        | some (v, psn) => cs.foldl (fun s c => s.collDeliver c (SReg.of [psn] (widen c.ty v))) s
        | none => cs.foldl (fun s c =>
            let (v, s) := s.drawWord
            s.collDeliver c (SReg.clean v)) s

/-- WATCHDOG: a user strand in WAIT that has not been READY for more than WDOG ticks faults at the instruction that is held or
waits (R389). A store that has issued keeps its effect, and its judgement is still to come (R386, log entry 101). -/
def execWatchdog (r : StrandRef) (s : State) : Host.Outcome State Fault Refusal :=
  let t := s.slot r
  let lim := (s.ctx t.ctx).wdog.toNat
  .next <| if t.phase == .live && t.mode == .user && lim != 0 && lim < s.tick - t.readyTick && (s.stateOf r).1 == 2 then
      s.takeFault r { cls := clsWatchdog } (s.heldWord r)
    else s

/-! ## CSRs -/

/-- The context whose privileged CSRs a strand reaches (R392). -/
def State.csrCtx (s : State) : Nat :=
  if (s.me).mode == .device then match s.partOfReel? s.cur.reel with
    | some p => p.ctx
    | none => (s.me).ctx
  else (s.me).ctx

def State.myField (s : State) : Nat := fieldOfReel s.cur.reel

/-- FQSTAT (R385, R392). -/
def State.fqstat (s : State) (c : Nat) : Word :=
  let x := s.ctx c
  let held := !x.records.isEmpty && s.faultBlocked c
  word ((if held then x.records.length % 2 ^ 32 else 0) + bit x.lost <<< 62 + bit held <<< 63)

/-- The control firmware serves new operations; during a handover, and while what it held then is performed, they are
held in order (R439, R440). -/
def State.serving (s : State) : Bool := s.fw.handover.isNone && s.fw.held.isEmpty

/-- A PMTCMD is held: PMTSTAT shows a command in progress. -/
def State.pmtHeld (s : State) : Bool := s.fw.held.any fun h => match h with | .pmtcmd _ => true | _ => false

/-- PMTSTAT (R392). -/
def Pmt.stat (p : Pmt) : Word := word (p.units % 2 ^ 32 + (p.code % 65536) <<< 32 + bit p.busy <<< 63)

/-- Bits of the peer ports that are up (R376). -/
def State.peersUp (s : State) : Nat :=
  natOfLanes 1 ((upto 16).map fun p => bit (s.peerPorts.get PeerPort.reset p).up)

/-- read(CSR) of R228. -/
def State.csrRead (s : State) (n : Nat) : Word :=
  let t := s.me
  let x := s.reel s.cur.reel
  let c := s.csrCtx
  let f := s.field s.myField
  match n with
  | 0x000 => t.seed.zeroExtend 64
  | 0x001 => (t.bkRet ++ t.bkOff).zeroExtend 64
  | 0x002 => (x.lsRet ++ x.lsOff).zeroExtend 64
  | 0x003 => t.bkwr
  | 0x004 => t.bkwo
  | 0x005 => t.bkwc
  | 0x006 => x.lswr
  | 0x007 => x.lswo
  | 0x008 => x.lswc
  | 0x009 => t.live
  | 0x00A => keyMask 64 t.toks
  | 0x010 => s.peerId.zeroExtend 64
  | 0x011 => word s.peersUp
  | 0x012 => s.clkstat s.cur.reel
  | 0x100 => word (t.ctx % 64)
  | 0x101 => (s.ctx c).fqRead
  | 0x102 => s.fqstat c
  | 0x103 => (s.ctx c).wdog
  | 0x104 => (s.ctx c).age
  | 0x110 => word (s.pmt.vict + s.pmt.claim <<< 8)
  | 0x111 => s.pmt.part
  | 0x112 => s.pmt.save
  | 0x114 => if s.pmtHeld then s.pmt.stat ||| word (2 ^ 63) else s.pmt.stat
  | 0x115 => s.pmt.out
  | 0x120 => f.vbtsel
  | 0x122 => f.vbtres
  | 0x123 => f.vbrsel
  | 0x124 => (f.vbrval.get 0 (bitsOf f.vbrsel 0 8)).zeroExtend 64
  | 0x125 => f.vbret.zeroExtend 64
  | _ => 0

/-- What connection `c` of a bus samples when `k` is driven (R429, R431): stuck at 1, its own drive unless it is open,
or a short's; an open connection that is also shorted samples either way. -/
def Field.busReads (f : Field) (free : Nat → Bool) (b k c : Nat) : Bool :=
  let isOpen (j : Nat) : Bool := f.busOpen.contains (b, j)
  let short (i j : Nat) : Bool := f.busShort.contains (b, i, j) || f.busShort.contains (b, j, i)
  let shorted (i : Nat) : Bool := f.busShort.any fun x => x.1 == b && (x.2.1 == i || x.2.2 == i)
  if f.busStuck.contains (b, c) then true
  else if 1056 ≤ k then false
  else if c == k then !isOpen k
  else if short k c then (if (isOpen k && shorted k) || isOpen c then free c else true)
  else false

/-- VBTRES after a drive (R429). -/
def Field.drive (f : Field) (free : Nat → Bool) (k : Nat) : Word :=
  let b := bitsOf f.vbtsel 0 4
  let ones := (upto 1056).filter fun c => c != k && f.busReads free b k c
  word (bit (k < 1056 && f.busReads free b k k) + ones.length <<< 16 + (ones.headD 0x7FF) <<< 32)

/-- The group's repair register takes the value unless it names positions wrongly (R429). -/
def vbrOk (v : Word) : Bool := !v.getLsbD 15 || (v.getLsbD 7 && bitsOf v 0 6 < bitsOf v 8 6)

/-- write(CSR) of R228: bits that are read-only or reserved stay (R7, R8). SEED 0 is held as 1 (R63); BKDLY and LSDLY read
back as written, and an OFF of 0, which R63 takes as 1, counts as 1 where it is used (DESIGN CHOICE, log entry 77). -/
def State.csrWrite (s : State) (n : Nat) (v : Word) : State :=
  let c := s.csrCtx
  let fld := s.myField
  let f := s.field fld
  let test := s.fw.phase == 6
  match n with
  | 0x000 => s.modMe fun t => { t with seed := if bitsOf v 0 32 == 0 then 1 else v.extractLsb' 0 32 }
  | 0x001 => s.modMe fun t =>
      { t with bkOff := v.extractLsb' 0 16, bkRet := v.extractLsb' 16 16, dly := { t.dly with wrote := true } }
  | 0x002 => s.modReel s.cur.reel fun x =>
      { x with lsOff := v.extractLsb' 0 16, lsRet := v.extractLsb' 16 16, lsDly := { x.lsDly with wrote := true } }
  | 0x101 => s.modCtx c fun x => { x with fqRead := if s.ev c 0 < v then s.ev c 0 else v }
  | 0x102 => s.modCtx c fun x => { x with lost := x.lost && !v.getLsbD 62 }
  | 0x103 => s.modCtx c fun x => { x with wdog := v }
  | 0x110 => { s with pmt := { s.pmt with vict := bitsOf v 0 6, claim := bitsOf v 8 6 } }
  | 0x111 => { s with pmt := { s.pmt with part := v } }
  | 0x112 => { s with pmt := { s.pmt with save := v &&& 0x000F_FFFF_FFFF_F000 } }
  | 0x113 => if !s.serving then (if s.pmtHeld || bitsOf v 0 2 == 0 then s
               else { s with fw := { s.fw with held := s.fw.held ++ [.pmtcmd (bitsOf v 0 2)] } })
             else s.pmtCommand (bitsOf v 0 2)
  | 0x120 => if test then s.setField fld { f with vbtsel := v &&& 0x10F } else s
  | 0x121 =>
    if test && f.vbtsel.getLsbD 8 then
      let d := s.draws
      let s := s.setField fld { f with vbtres := f.drive (fun c => Config.busSample (d + c)) (bitsOf v 0 11) }
      { s with draws := d + 1056 }.modMe fun t => { t with vbtUntil := s.now + 40 }
    else s
  | 0x123 => s.setField fld { f with vbrsel := v &&& 0xFF }
  | 0x124 =>
    if test && vbrOk v then
      s.setField fld { f with vbrval := f.vbrval.put 0 (bitsOf f.vbrsel 0 8) ((v &&& 0xBFBF).extractLsb' 0 16) }
    else s
  | 0x125 => if test then s.setField fld { f with vbret := f.vbret ||| v.extractLsb' 0 16 } else s
  | _ => s

def execCsrr (f : SF) (s : State) : Host.Outcome State Fault Refusal :=
  issue (.csrr f) s fun a b =>
    .done (b.setRs f.dst (SReg.of [(a.me).guardCode f.grd] (a.csrRead f.csr.toNat)))

def execCsrw (f : SF) (s : State) : Host.Outcome State Fault Refusal :=
  issue (.csrw f) s fun a b =>
    let x := a.rs f.sa
    Eff.consume [x.code] (.done (b.csrWrite f.csr.toNat x.val))

def execCsrx (f : SF) (s : State) : Host.Outcome State Fault Refusal :=
  issueTainted (.csrx f) s fun a b =>
    let x := a.rs f.sa
    let n := f.csr.toNat
    Eff.consume [x.code] <|
      let old := a.csrRead n
      let new := match f.sub.toNat with
        | 0 => x.val
        | 1 => old ||| x.val
        | _ => old &&& ~~~x.val
      .done ((b.csrWrite n new).setRs f.dst (SReg.of [(a.me).guardCode f.grd] old))

/-! ## Traps and returns (R227) -/

def execTrap (f : SF) (s : State) : Host.Outcome State Fault Refusal :=
  issue (.trap f) s fun a _ => .trap { cls := clsTrap, sub := f.sub.toNat, info := (a.rs f.sa).val }

def execEret (f : SF) (s : State) : Host.Outcome State Fault Refusal :=
  issueTainted (.eret f) s fun a b =>
    let h := a.rs f.sa
    let skip := f.sub == 1
    Eff.consume [h.code] <|
      .done (b.afterRelease 3 (.eret h.val.toNat skip) f.dst fun s => s.eret (a.me).ctx h.val.toNat skip)

/-! ## TLBINV (R230, R404) -/

def execTlbinv (f : SF) (s : State) : Host.Outcome State Fault Refusal :=
  issueTainted (.tlbinv f) s fun a b =>
    let x := a.rs f.sa
    Eff.consume [if f.sub == 0 then x.code else none] <|
      let (after, b) := b.releaseDeps 3
      let (id, b) := b.fresh
      let inv : TlbInv :=
        { id := id, kind := f.sub.toNat, ctx := (a.me).ctx, va := x.val, reel := a.cur.reel, slot := a.cur.slot
          handle := (a.me).handle, dst := f.dst.toNat, waiting := BitVec.allOnes 42, removed := 0, after := after
          reqs := [], lines := [] }
      let b := { b with invs := b.invs ++ [inv] }
      .done ((b.setTok f.dst id).modMe fun t => { t with owed := t.owed + 1 })

/-- What reels of a field have sent or still hold dirty under translations of a context, or of any: it goes below L1, and the
requests and the lines of engines that are still to be performed are named (R404). -/
def State.usedBy (s : State) (field : Nat) (mine : Nat → Bool) : List Nat × List Nat × State :=
  let s := (s.reels.keys.filter fun n => fieldOfReel n == field).foldl
    (fun s n => ((s.sinkStores n).writeBackOf n (s.reel n).l1.keys).2) s
  let rs := s.reqs.filter fun q => fieldOfReel q.reel == field && (mine q.tctx || q.op == ReqOp.writeback)
  let cs := s.cmds.filter fun c => fieldOfReel c.reel == field && mine (s.tableCtx c.reel c.ctx c.mode)
  (rs.map (·.id), cs.flatMap (·.lines), s)

/-- TLBINV_ACK: once the caller's release is done, a field removes what the invalidation names and marks its walks stale,
then acknowledges once the accesses it had sent are performed at device scope; the last acknowledgement waits for the clocks of
the reel that its token is for (R230, R404, R450). -/
def execTlbinvAck (id field : Nat) (s : State) : Host.Outcome State Fault Refusal :=
  .next <| match s.invs.find? (·.id == id) with
    | none => s
    | some v =>
      let put (s : State) (v : TlbInv) : State := { s with invs := listMod (fun x => x.id == id) (fun _ => v) s.invs }
      if !v.waiting.getLsbD field || !s.allDone v.after 3 then s
      else if !v.removed.getLsbD field then
        let (rs, ls, s) := (s.tlbRemove field v.kind v.ctx v.va).usedBy field fun c => v.kind == 2 || c == v.ctx
        put s { v with removed := setBit v.removed field true, reqs := v.reqs ++ rs, lines := (v.lines ++ ls).eraseDups }
      else if (v.lines.any fun l => (s.dir l).pending != 0) || v.reqs.any fun i => (s.reqs.find? (·.id == i)).any fun q =>
          fieldOfReel q.reel == field && !s.reqDone q 3 then s
      else
        let w := setBit v.waiting field false
        if w != 0 then put s { v with waiting := w }
        else if !s.reelRuns v.reel then s
        else { s with invs := s.invs.filter (·.id != id) }.writeToken v.reel v.slot v.handle v.dst id 0

/-! ## Images (R231, R232) -/

/-- Bytes of memory as the strand reads an image: its own L1's dirty bytes over the homes. -/
def State.imageBytes (s : State) (l : List (Nat × Nat × Word)) : List PByte :=
  l.flatMap fun x => (upto x.2.1).map fun i => s.engineByte s.cur.reel (x.1 + i)

/-- What an image instruction acts on: a strand that may be saved or loaded, wherever its state stands, a reel, or a status
of R225. -/
inductive Target where
  | strand (h : Nat)
  | reel (n : Nat)
  | bad (code : Nat)
  deriving DecidableEq, Repr

/-- An instruction of the strand is not complete: a register waits for data of its requests, for an answer or a collective's
result, or, unless pre-emption has stopped the engines, for an engine's data; or a store is still to be judged (R66, R409). -/
def State.landing (s : State) (t : Slot) : Bool :=
  t.kvHold.isSome || t.pend.any fun p => t.phase != .suspended || !s.cmds.any (·.id == p.2)

/-- A strand of the context on the reel runs, or an engine of it has an unwritten token, of a command or of its control
(R225). -/
def State.reelBusy (s : State) (n c : Nat) : Bool :=
  let x := s.reel n
  (x.slots.any fun kt => kt.2.ctx == c && (kt.2.phase == .live || kt.2.phase == .draining)) ||
  !(x.feedQ.isEmpty && x.kvQ.isEmpty && x.drainQ.isEmpty && x.copyQ.isEmpty && x.ctlQ.isEmpty)

/-- The target of an image instruction of a strand of context `c` on a reel. -/
def State.imageTarget (s : State) (reel c : Nat) (shared : Bool) (d : Word) : Target :=
  if shared then
    match (s.partOfReel? reel).filter (·.ctx == c) with
    | none => .bad 0x0101
    | some p =>
      let bx := bitsOf d 0 16
      let by_ := bitsOf d 16 16
      if 11 * p.w ≤ bx || 11 * p.h ≤ by_ then .bad 0x0101
      else if s.reelBusy (p.reel bx by_) p.ctx then .bad 0x0103
      else .reel (p.reel bx by_)
  else match s.strandSlot? c d.toNat with
    | none => .bad 0x0101
    | some (t, _) => if t.phase != .faulted && t.phase != .suspended then .bad 0x0102 else .strand d.toNat

/-- Data of the target are still to land (R66). -/
def State.targetLanding (s : State) (c : Nat) : Target → Bool
  | .strand h => (s.strandSlot? c h).any fun x => s.landing x.1
  | _ => false

/-- The image of a target. -/
def State.targetImage (s : State) (c : Nat) : Target → List PByte
  | .strand h => match s.strandSlot? c h with
    | some (t, _) => t.image t.savedState.1 t.savedState.2
    | none => []
  | .reel n => (s.reel n).image
  | .bad _ => []

/-- Memory of the range can be read, or written, at device scope now, behind what the reel has sent to it. -/
def State.rangeReady (s : State) (reel : Nat) (read : Bool) (l : List (Nat × Nat × Word)) : Bool :=
  (s.overlaps reel (l.flatMap fun x => sectorsOf x.1 x.2.1)).isEmpty && !l.any (s.pieceWaits reel read)

/-- CTXSV ends with a status. -/
def State.saveDone (s : State) (v : ImageSave) (w : Word) : State :=
  s.withStrand v.reel v.slot v.handle fun t => t.answered v.dst v.id (SReg.clean w)

/-- A CTXSV goes on: once owed writes have landed it writes the image, and once that is performed at device scope it answers and
is over (R66, R153, R231). A target whose state has changed since the issue is refused then; the image keeps the length for which
its pages were translated (log entry 74). -/
def State.saveStep (s : State) (v : ImageSave) : State × Option ImageSave :=
  match v.lines with
  | some ls => if ls.all fun n => (s.dir n).pending == 0 then (s.saveDone v (statusWord 0 v.size), none) else (s, some v)
  | none =>
    match s.imageTarget v.reel v.ctx v.shared v.target with
    | .bad code => (s.saveDone v (statusWord code 0), none)
    | tgt =>
      if s.targetLanding v.ctx tgt || !s.rangeReady v.reel false v.pages then (s, some v)
      else
        let (_, t) := v.pages.foldl (fun (x : List PByte × State) part =>
          (x.1.drop part.2.1, x.2.engineWrite v.reel part.1 (x.1.take part.2.1))) (s.targetImage v.ctx tgt, s)
        (t, some { v with lines := some (v.pages.flatMap fun x => linesOf x.1 x.2.1) })

def State.saveMove (s : State) (id : Nat) : State :=
  match s.saves.find? (·.id == id) with
  | some v =>
    if !s.reelRuns v.reel then s
    else
      let (t, w) := s.saveStep v
      { t with saves := match w with
          | some w => listMod (·.id == id) (fun _ => w) t.saves
          | none => t.saves.filter (·.id != id) }
  | none => s

/-- CTXSV (R195, R231). Of a poisoned address and a poisoned target the address's code is recorded (DESIGN CHOICE, log entry 75). -/
def execCtxsv (f : SF) (s : State) : Host.Outcome State Fault Refusal :=
  issueTainted (.ctxsv f) s fun a b =>
    let p := a.rs f.sa
    let d := a.rs f.dst
    let shared := f.sub == 1
    let t := a.me
    Eff.consume [p.code, d.code] <|
      if bitsOf p.val 0 8 != 0 then misalignTrap p.val true
      else
        let tgt := a.imageTarget a.cur.reel t.ctx shared d.val
        let img := a.targetImage t.ctx tgt
        let size := if img.isEmpty then (if shared then 0x80 else 0x300) else img.length
        a.translated .write (pageParts p.val size) fun l =>
          match tgt with
          | .bad code => .done (b.setRs f.dst (SReg.clean (statusWord code 0)))
          | _ =>
            let (id, b) := b.fresh
            let v : ImageSave :=
              { id := id, reel := a.cur.reel, slot := a.cur.slot, handle := t.handle, dst := f.dst.toNat, ctx := t.ctx
                shared := shared, target := d.val, pages := l, size := size, lines := none }
            let (b, v) := (b.setPend (.s f.dst.toNat) id).saveStep v
            let (b, v) := match v with
              | some v => b.saveStep v
              | none => (b, none)
            .done { b with saves := b.saves ++ v.toList }

/-- What CTXLD does once its image can be read: `b` is the state behind it, and holds until then (R232). -/
def State.loadImage (f : SF) (a b : State) : Eff :=
  let p := a.rs f.sa
  let d := a.rs f.dst
  let shared := f.sub == 1
  let t := a.me
  if bitsOf p.val 0 8 != 0 then misalignTrap p.val false
  else
    let head := if shared then 0x80 else 0x300
    a.translated .read (pageParts p.val head) fun l =>
      if !a.rangeReady a.cur.reel true l then .hold a
      else
        let h := imgWord (a.imageBytes l) 0
        let size := if shared then reelImageSize h else strandImageSize h
        a.translated .read (pageParts p.val size) fun l =>
          let tgt := a.imageTarget a.cur.reel t.ctx shared d.val
          if a.targetLanding t.ctx tgt || !a.rangeReady a.cur.reel true l then .hold a
          else
            let img := a.imageBytes l
            let done (b : State) : Eff := .done (b.setRs f.dst (SReg.clean (statusWord 0 size)))
            match tgt with
            | .strand k =>
              if strandImageBad img then .trap { cls := clsIllegal }
              else if t.mode.rank < (imgMode img).rank then .trap { cls := clsPriv }
              else
                let c := ((a.strandSlot? t.ctx k).map (·.2)).getD 0
                let prio := a.clampPrio (imgMode img) t.ctx (bitsOf h 40 5)
                done (b.withStrand 0 0 k fun t => t.load c prio img)
            | .reel n =>
              if reelImageBad img then .trap { cls := clsIllegal }
              else done (b.modReel n fun x => x.load img)
            | .bad code => .done (b.setRs f.dst (SReg.clean (statusWord code 0)))

/-- CTXLD (R195, R232): an image that cannot be read yet leaves the strand waiting behind the issue, so that what refuses it is
still a fault of this instruction (R386, log entry 74). Of a poisoned address and a poisoned target the address's code is
recorded (DESIGN CHOICE, log entry 75). -/
def execCtxld (f : SF) (s : State) : Host.Outcome State Fault Refusal :=
  issueTainted (.ctxld f) s fun a b =>
    Eff.consume [(a.rs f.sa).code, (a.rs f.dst).code] <|
      match State.loadImage f a b with
      | .hold t => if (t.me).walk.isSome then .hold t
                   else .done (b.modMe fun t => { t with wait := .ctxld f, pc := (a.me).pc })
      | e => e

/-- A strand in CTXLD looks at its image again. -/
def State.checkCtxld (s : State) (r : StrandRef) : State :=
  match (s.slot r).wait with
  | .ctxld f =>
    if (s.slot r).walk.isSome then s
    else
      let a := { s with cur := r }
      match State.loadImage f a (a.modMe fun t => { t with wait := .none, pc := t.pc + 8, readyTick := s.tick }) with
      | .trap t => a.trapAt (.ctxld f) t
      | .done b => match (a.me).guardCode f.grd with
        | some c => b.modMe (Slot.taint (.ctxld f) c)
        | none => b
      | .hold t => t
  | _ => s

/-! ## IDLE, EVPOST, ALLOCQ -/

def execIdle (f : SF) (s : State) : Host.Outcome State Fault Refusal :=
  issueTainted (.idle f) s fun a b =>
    let x := a.rs f.sa
    match x.code with
    | none =>
      .done (State.checkWaitq (b.modMe fun t => { t with wait := .idle x.val f.dst.toNat, pc := (a.me).pc }) b.cur)
    | some c =>
      let (w, b) := b.drawWord
      .done (State.checkWaitq (b.modMe fun t =>
        { t.setS f.dst.toNat (SReg.poison c) with wait := .idle w 0, pc := (a.me).pc }) b.cur)

def execEvpost (f : SF) (s : State) : Host.Outcome State Fault Refusal :=
  issueTainted (.evpost f) s fun a b =>
    let x := a.rs f.sa
    let irq := f.sub == 1
    Eff.consume [x.code] <|
      let k := bitsOf x.val 0 5
      let c := if (a.me).mode == .device then bitsOf x.val 8 6 else (a.me).ctx
      if k < 2 then privTrap
      else if (a.me).mode == .device && !(a.ctx c).live then .done (b.setRs f.dst (SReg.clean 0))
      else
        -- an interrupt leaves once what it announces is performed at system scope (R372)
        .done (b.afterRelease (if irq then 4 else 3) (.post c k irq) f.dst fun s =>
          let s := s.evPost c k irq
          (s.ev c k, s))

/-- A firmware-served answer: at once, or held while the firmware changes (R439). -/
def State.served (s : State) (dst : BitVec 6) (op : Asker → HeldOp) (now : State → Word × State) : State :=
  if !s.serving then
    let (id, s) := s.fresh
    let k : Asker := { reel := s.cur.reel, slot := s.cur.slot, handle := (s.me).handle, dst := dst.toNat, id := id }
    { s with fw := { s.fw with held := s.fw.held ++ [op k] } }.setPend (.s dst.toNat) id
  else
    let (w, s) := now s
    s.setRs dst (SReg.clean w)

/-- ALLOCQ.grant's answer (R235). -/
def State.allocGrant (s : State) (c w h : Nat) : Word × State := let (k, s) := s.grant c w h; (word k, s)
def State.allocFree (s : State) (c : Nat) (h : Word) : Word × State := let (k, s) := s.freePart c h; (statusWord k 0, s)

def execAllocqGrant (f : SF) (s : State) : Host.Outcome State Fault Refusal :=
  issueTainted (.allocqGrant f) s fun a b =>
    let x := a.rs f.sa
    Eff.consume [x.code] <|
      let c := if (a.me).mode == .device then bitsOf x.val 8 6 else (a.me).ctx
      let w := bitsOf x.val 0 3
      let h := bitsOf x.val 3 3
      .done (b.served f.dst (fun k => .grant k c w h) fun s => s.allocGrant c w h)

def execAllocqFree (f : SF) (s : State) : Host.Outcome State Fault Refusal :=
  issueTainted (.allocqFree f) s fun a b =>
    let x := a.rs f.sa
    Eff.consume [x.code] <|
      .done (b.served f.dst (fun k => .free k x.val (a.me).ctx) fun s => s.allocFree (a.me).ctx x.val)

/-! ## Words that are no instruction -/

/-- UNASSIGNED_OPCODE: ILLEGAL (R108, R111). -/
def execUnassignedOpcode (w : Word) (s : State) : Host.Outcome State Fault Refusal :=
  .next (s.takeFault s.cur { cls := clsIllegal } w)

end Sys2Proof.Machine
end

