-- ==== Sys2Proof/Machine/Special.lean ====
section
/-! DEFINITION. VRCP, VRSQ, VEXP2 and VLOG2 on f32 (R82): the special inputs and the exact cases as the table gives
them; elsewhere a free monotonic function of Config held inside the bound, which is monotonic too, and between the
neighbouring exact cases (log entry 3). -/

namespace Sys2Proof

/-- Holds a magnitude code inside an interval of codes. -/
def clampCode (lo hi c : Nat) : Nat := min (max c lo) hi

/-- Least f32 magnitude code not below num/den · 2^exp, and greatest not above it. -/
def codeUp (num den : Nat) (exp : Int) : Nat :=
  roundTo fmtF32 .rp false 0 (.fin false ((num <<< 64) / den) (exp - 64) ((num <<< 64) % den != 0))
def codeDown (num den : Nat) (exp : Int) : Nat :=
  roundTo fmtF32 .rz false 0 (.fin false ((num <<< 64) / den) (exp - 64) false)

/-- An exact power of two as an f32 magnitude code. -/
def codePow2 (n : Int) : Nat := roundTo fmtF32 .rne false 0 (.fin false 1 n false)

/-- Magnitude and exponent of an f32 with the magnitude odd, so that a power of two has magnitude 1. -/
def oddPart (m : Nat) (e : Int) : Nat × Int :=
  let k := (upto 64).foldl (fun a i => if a == i && (m >>> i) % 2 == 0 then i + 1 else a) 0
  (m >>> k, e + k)

/-- Interval of magnitude codes around num/den · 2^exp: relative 2^-22 when the value is at least 2^-126,
else absolute 2^-149. -/
def boundCodes (num den : Nat) (exp : Int) : Nat × Nat :=
  let c := codeDown num den exp
  if 2 ^ 23 ≤ c then (codeUp (num * (2 ^ 22 - 1)) (den * 2 ^ 22) exp, codeDown (num * (2 ^ 22 + 1)) (den * 2 ^ 22) exp)
  else (codeUp num den exp - 1, c + 1)

/-- VRCP on f32 (R82). -/
def rcpCode (c : Nat) : Nat :=
  match fmtF32.decode c with
  | .nan => fmtF32.canon
  | .inf n => signBit fmtF32 n
  | .fin n m e _ =>
    if m == 0 || (m.log2 : Int) + e < -128 then signBit fmtF32 n + fmtF32.infCode
    else
      let (o, k) := oddPart m e
      if o == 1 && -149 ≤ -k && -k ≤ 127 then signBit fmtF32 n + codePow2 (-k)
      else
        let (lo, hi) := boundCodes 1 m (-e)
        let l := (m.log2 : Int) + e
        signBit fmtF32 n + clampCode (max lo (codePow2 (-l - 1))) (min hi (codePow2 (-l)))
          ((if n then Config.rcpNegFree else Config.rcpPosFree).at (2 ^ 31 - c % 2 ^ 31))

/-- Interval of codes around the root of a quotient, from its floor at 2^-188 of it or less. -/
def rsqBound (m : Nat) (e : Int) : Nat × Nat :=
  -- 1/sqrt(m 2^e) = sqrt(2^(400+p) / m) · 2^(-(e+400+p)/2), with e + 400 + p even
  let p := (e % 2).toNat
  let r := isqrt ((2 ^ (400 + p)) / m)
  let x : Int := -((e + 400 + p) / 2)
  (codeUp (r * (2 ^ 22 - 1)) (2 ^ 22) x, codeDown ((r + 1) * (2 ^ 22 + 1)) (2 ^ 22) x)

/-- VRSQ on f32 (R82). -/
def rsqCode (c : Nat) : Nat :=
  match fmtF32.decode c with
  | .nan => fmtF32.canon
  | .inf n => if n then fmtF32.canon else 0
  | .fin n m e _ =>
    if m == 0 then signBit fmtF32 n + fmtF32.infCode
    else if n then fmtF32.canon
    else
      let (o, k) := oddPart m e
      if o == 1 && k % 2 == 0 then codePow2 (-(k / 2))
      else
        let (lo, hi) := rsqBound m e
        let l := (m.log2 : Int) + e
        let below := -((l + (l % 2)) / 2) - (if l % 2 == 0 then 1 else 0)
        clampCode (max lo (codePow2 below)) (min hi (codePow2 (below + 1)))
          (Config.rsqFree.at (2 ^ 31 - c))

/-- 2^(2^-i) for i = 1 to 150 with 256 fraction bits, each at most 2 units too small: repeated square roots of 2. -/
def expRoots : List Nat :=
  ((upto 150).foldl (fun (a : Nat × List Nat) _ => let r := isqrt (a.1 <<< 256); (r, r :: a.2)) (2 ^ 257, [])).2.reverse

/-- 2^f for a fraction f of 150 bits, between two fixed-point numbers with 256 fraction bits. -/
def exp2Frac (f : Nat) : Nat × Nat :=
  (expRoots.foldl (fun (a : Nat × (Nat × Nat)) r =>
    (a.1 - 1, if f.testBit (a.1 - 1) then ((a.2.1 * r) >>> 256, ((a.2.2 * (r + 2)) >>> 256) + 1) else a.2))
    (150, (2 ^ 256, 2 ^ 256))).2

/-- VEXP2 on f32 (R82). -/
def exp2Code (c : Nat) : Nat :=
  match fmtF32.decode c with
  | .nan => fmtF32.canon
  | .inf n => if n then 0 else fmtF32.infCode
  | .fin n m e _ =>
    if m == 0 then codePow2 0
    else
      let (lo, t, exact) := scaled m e false 0
      if !n && 128 ≤ lo then fmtF32.infCode
      else if n && (151 ≤ lo || (lo == 150 && !(exact && t == 0))) then 0
      else if exact && t == 0 && lo ≤ 149 then codePow2 (sgnMag n lo)
      else
        -- x = k + f / 2^150 with f below 2^150
        let f := (scaled m e false (-150)).1 % 2 ^ 150
        let k : Int := if n then -(lo : Int) - (if f == 0 then 0 else 1) else lo
        let (pl, ph) := exp2Frac (if n then (2 ^ 150 - f) % 2 ^ 150 else f)
        let (a, _) := boundCodes pl 1 (k - 256)
        let (_, b) := boundCodes ph 1 (k - 256)
        clampCode (max a (codePow2 k)) (min b (codePow2 (k + 1)))
          (Config.exp2Free.at (if n then 2 ^ 31 - c % 2 ^ 31 else 2 ^ 31 + c))

/-- Binary digits of log2 of a fixed-point number in [1, 2) with 300 fraction bits, rounded down. -/
def log2Digits : Nat → Nat → Nat → Nat
  | 0, _, acc => acc
  | k + 1, x, acc =>
    let y := (x * x) >>> 300
    if 2 ^ 301 ≤ y then log2Digits k (y >>> 1) (2 * acc + 1) else log2Digits k y (2 * acc)

/-- VLOG2 on f32 (R82). -/
def log2Code (c : Nat) : Nat :=
  match fmtF32.decode c with
  | .nan => fmtF32.canon
  | .inf n => if n then fmtF32.canon else fmtF32.infCode
  | .fin n m e _ =>
    if m == 0 then signBit fmtF32 true + fmtF32.infCode
    else if n then fmtF32.canon
    else
      let l := (m.log2 : Int) + e
      if isPow2 m then roundTo fmtF32 .rne false 0 (.fin (decide (l < 0)) l.natAbs 0 false)
      else
        -- log2 x lies between d and d + 2 units of 2^-200 above l
        let d := log2Digits 200 ((m <<< 300) >>> m.log2) 0
        let v : Int := l * (2 ^ 200 : Nat) + d
        let neg := decide (l < 0)
        let (x, y) : Nat × Nat := if neg then ((v + 2).natAbs, v.natAbs) else (v.toNat, (v + 2).toNat)
        let (lo, hi) :=
          if -1 ≤ l && l ≤ 0 then (codeUp (x - 2 ^ 179) 1 (-200), codeDown (y + 2 ^ 179) 1 (-200))
          else (codeUp (x * (2 ^ 22 - 1)) (2 ^ 22) (-200), codeDown (y * (2 ^ 22 + 1)) (2 ^ 22) (-200))
        let a := roundTo fmtF32 .rne false 0 (.fin false (if neg then (l + 1).natAbs else l.natAbs) 0 false)
        let b := roundTo fmtF32 .rne false 0 (.fin false (if neg then l.natAbs else (l + 1).natAbs) 0 false)
        let mag := clampCode (max lo a) (min hi b)
          (if neg then Config.log2BelowFree.at (2 ^ 31 - c) else Config.log2AboveFree.at c)
        signBit fmtF32 (if mag == 0 then Config.log2ZeroSign (BitVec.ofNat 32 c) else neg) + mag

/-- A special function on a type: f16 and bf16 round the f32 result once with RNE (R82). -/
def specialOn (f : Nat → Nat) (t : Ty) (c : Nat) : Nat :=
  let x := roundTo fmtF32 .rne false 0 (t.dec c)
  match t with
  | .f32 => f c
  | _ => roundTo t.fmt .rne false 0 (fmtF32.decode (f x))

end Sys2Proof
end

