-- ==== Sys2Proof/Machine/Vector.lean ====
section
/-! DEFINITION. Vector, mask and conversion instructions (R263 to R284), with poison by granule (R266). -/

namespace Sys2Proof.Machine

/-! ## Reading and writing lanes -/

/-- A mask of 32-bit granules as a mask of bits (R44). -/
def expandMask (m : Word) : VWord :=
  BitVec.ofNat 2048 (natOfLanes 32 ((upto 64).map fun i => if m.getLsbD i then 0xFFFFFFFF else 0))

/-- The granules of a mask taken from a new value, the others kept (R44). -/
def mergeVec (old : VReg) (m : Word) (new : VReg) : VReg :=
  let k := expandMask m
  { val := (old.val &&& ~~~k) ||| (new.val &&& k), psn := (old.psn &&& ~~~m) ||| (new.psn &&& m) }

/-- Every granule poisoned with one code. -/
def VReg.poisonAll (c : Code) : VReg := { val := vecOfLanes 32 fun _ => c.toNat, psn := BitVec.allOnes 64 }

/-- Poison of an element-wise result: the guard's or a mask's whole, else by granule of the sources, A first (R266,
R396). -/
def elemResult (heads : List (Option Code)) (srcs : List VReg) (val : VWord) : VReg :=
  match heads.findSome? id with
  | some c => VReg.poisonAll c
  | none =>
    (onesOf (srcs.foldl (fun m (x : VReg) => m ||| x.psn) 0)).foldl (fun (y : VReg) g =>
      match srcs.findSome? fun x => x.code g with
      | some c => y.setGranule g c true
      | none => y) { val := val, psn := 0 }

/-- Poison of any other result: whole, when any source carries a code (R266). -/
def wholeResult (codes : List (Option Code)) (val : VWord) : VReg :=
  match codes.findSome? id with
  | some c => VReg.poisonAll c
  | none => { val := val, psn := 0 }

/-- Codes of the guard and of MSK. -/
def headCodes (t : Slot) (f : RF) : List (Option Code) := [t.guardCode f.grd, (t.getM f.msk).code]

/-- Enabled granules of MSK. -/
def mskOf (t : Slot) (f : RF) : Word := (t.getM f.msk).val

/-- Writes the granules of a mask into a register whose other lanes keep the value of the state `a` (R44, R49). -/
def State.putV (b a : State) (n : Nat) (m : Word) (x : VReg) : State :=
  b.modMe fun t => t.setV b.now n (mergeVec ((a.me).getV n) m x)

/-- Writes a register whole. -/
def State.setVec (b : State) (n : Nat) (x : VReg) : State := b.modMe fun t => t.setV b.now n x

/-- Writes some bits of a mask register; a partial write does not clear poison (R266, R395). -/
def writeMaskBits (old : SReg) (written bits : Word) (codes : List (Option Code)) : SReg :=
  if written == 0 then old
  else match codes.findSome? id with
    | some c => SReg.poison c
    | none =>
      if old.psn && written != BitVec.allOnes 64 then old
      else SReg.clean ((if old.psn then 0 else old.val &&& ~~~written) ||| (bits &&& written))

def State.setMask (b : State) (n : Nat) (x : SReg) : State := b.modMe fun t => t.setM n x

/-- Draws of R76 for lanes of width `w`: zero where RND is not 5. -/
def drawsOf (t : Slot) (f : RF) (w : Nat) : Nat → Nat :=
  if f.rnd == .rs then
    let gs := lfsrAll t.seed
    fun j => lfsrDraw gs w j
  else fun _ => 0

/-- Number of lanes. -/
def lanesOf (w : Nat) : Nat := 2048 / w

/-- An element-wise instruction on the first `k` sources: draw, then lanes of A, B and C (R264, R266). -/
def lanewise (i : Instr) (f : RF) (s : State) (k : Nat) (fn : Nat → Nat → Nat → Nat → Nat) :
    Host.Outcome State Fault Refusal :=
  issue i s fun a b =>
    let t := a.me
    let w := f.ty.lane
    let vs := ([f.sa, f.sb, f.sc].take k).map fun n => t.getV n.toNat
    let lane (q j : Nat) : Nat := match vs[q]? with
      | some x => laneOf x.val w j
      | none => 0
    let r := drawsOf t f w
    let val := vecOfLanes w fun j => fn (r j) (lane 0 j) (lane 1 j) (lane 2 j)
    .done (b.putV a f.dst.toNat (mskOf t f) (elemResult (headCodes t f) vs val))

/-! ## Lane values (R268, R269) -/

/-- A float result of the lane type; SAT has no effect on one of f32 (R78). -/
def fRes (f : RF) (r : Nat) (v : FVal) : Nat := roundTo f.ty.fmt f.rnd (f.sat && f.ty != .f32) r v
/-- An integer operand and result of the lane type. -/
def iVal (t : Ty) (x : Nat) : Int := intVal t.lane t.isSigned x
def iRes (f : RF) (v : Int) : Nat := intResult f.ty.lane f.ty.isSigned f.sat v

def addLane (f : RF) (r x y _z : Nat) : Nat :=
  if f.ty.isF then fRes f r (sumF f.rnd [f.ty.dec x, f.ty.dec y]) else iRes f (iVal f.ty x + iVal f.ty y)
def subLane (f : RF) (r x y _z : Nat) : Nat :=
  if f.ty.isF then fRes f r (sumF f.rnd [f.ty.dec x, (f.ty.dec y).neg]) else iRes f (iVal f.ty x - iVal f.ty y)
def mulLane (f : RF) (r x y _z : Nat) : Nat :=
  if f.ty.isF then fRes f r (mulF (f.ty.dec x) (f.ty.dec y)) else iRes f (iVal f.ty x * iVal f.ty y)
def fmaLane (f : RF) (r x y z : Nat) : Nat :=
  if f.ty.isF then fRes f r (sumF f.rnd [mulF (f.ty.dec x) (f.ty.dec y), f.ty.dec z])
  else iRes f (iVal f.ty x * iVal f.ty y + iVal f.ty z)
/-- The smaller and the larger of two lanes. -/
def minCode (t : Ty) (x y : Nat) : Nat :=
  if t.isF then fminCode t.fmt x y else if iVal t y < iVal t x then y else x
def maxCode (t : Ty) (x y : Nat) : Nat :=
  if t.isF then fmaxCode t.fmt x y else if iVal t x < iVal t y then y else x
def absLane (f : RF) (_r x _y _z : Nat) : Nat :=
  if f.ty.isF then if (f.ty.dec x).isNan then f.ty.fmt.canon else x % 2 ^ f.ty.fmt.sign
  else iRes f ((iVal f.ty x).natAbs : Int)
def negLane (f : RF) (_r x _y _z : Nat) : Nat :=
  if f.ty.isF then if (f.ty.dec x).isNan then f.ty.fmt.canon else x ^^^ 2 ^ f.ty.fmt.sign
  else iRes f (-(iVal f.ty x))
/-- VROUND of R269. -/
def roundLane (f : RF) (r x _y _z : Nat) : Nat :=
  match f.ty.dec x with
  | .nan => f.ty.fmt.canon
  | .inf _ => x
  | .fin n m e st =>
    if m == 0 || (f.ty.fmt.m : Int) ≤ (m.log2 : Int) + e then x
    else roundTo f.ty.fmt .rne false 0 (.fin n (roundInt f.rnd r n m e st).natAbs 0 false)

def execVadd (f : RF) (s : State) : Host.Outcome State Fault Refusal := lanewise (.vadd f) f s 2 (addLane f)
def execVsub (f : RF) (s : State) : Host.Outcome State Fault Refusal := lanewise (.vsub f) f s 2 (subLane f)
def execVmul (f : RF) (s : State) : Host.Outcome State Fault Refusal := lanewise (.vmul f) f s 2 (mulLane f)
def execVfma (f : RF) (s : State) : Host.Outcome State Fault Refusal := lanewise (.vfma f) f s 3 (fmaLane f)
def execVmin (f : RF) (s : State) : Host.Outcome State Fault Refusal :=
  lanewise (.vmin f) f s 2 fun _ x y _ => minCode f.ty x y
def execVmax (f : RF) (s : State) : Host.Outcome State Fault Refusal :=
  lanewise (.vmax f) f s 2 fun _ x y _ => maxCode f.ty x y
def execVabs (f : RF) (s : State) : Host.Outcome State Fault Refusal := lanewise (.vabs f) f s 1 (absLane f)
def execVneg (f : RF) (s : State) : Host.Outcome State Fault Refusal := lanewise (.vneg f) f s 1 (negLane f)
def execVdiv (f : RF) (s : State) : Host.Outcome State Fault Refusal :=
  lanewise (.vdiv f) f s 2 fun r x y _ => fRes f r (divF (f.ty.dec x) (f.ty.dec y))
def execVsqrt (f : RF) (s : State) : Host.Outcome State Fault Refusal :=
  lanewise (.vsqrt f) f s 1 fun r x _ _ => fRes f r (sqrtF (f.ty.dec x))
def execVrcp (f : RF) (s : State) : Host.Outcome State Fault Refusal :=
  lanewise (.vrcp f) f s 1 fun _ x _ _ => specialOn rcpCode f.ty x
def execVrsq (f : RF) (s : State) : Host.Outcome State Fault Refusal :=
  lanewise (.vrsq f) f s 1 fun _ x _ _ => specialOn rsqCode f.ty x
def execVexp2 (f : RF) (s : State) : Host.Outcome State Fault Refusal :=
  lanewise (.vexp2 f) f s 1 fun _ x _ _ => specialOn exp2Code f.ty x
def execVlog2 (f : RF) (s : State) : Host.Outcome State Fault Refusal :=
  lanewise (.vlog2 f) f s 1 fun _ x _ _ => specialOn log2Code f.ty x
def execVround (f : RF) (s : State) : Host.Outcome State Fault Refusal := lanewise (.vround f) f s 1 (roundLane f)
def execVclamp (f : RF) (s : State) : Host.Outcome State Fault Refusal :=
  lanewise (.vclamp f) f s 3 fun _ x y z => minCode f.ty (maxCode f.ty x y) z

/-! ## Bits (R270) -/

def vShl (f : RF) (x n : Nat) : Nat :=
  let w := f.ty.lane
  let v := iVal f.ty x
  iRes f (if f.sat then v * (2 ^ (min n w) : Nat) else if n < w then v * (2 ^ n : Nat) else 0)

def execVand (f : RF) (s : State) : Host.Outcome State Fault Refusal := lanewise (.vand f) f s 2 fun _ x y _ => x &&& y
def execVor (f : RF) (s : State) : Host.Outcome State Fault Refusal := lanewise (.vor f) f s 2 fun _ x y _ => x ||| y
def execVxor (f : RF) (s : State) : Host.Outcome State Fault Refusal := lanewise (.vxor f) f s 2 fun _ x y _ => x ^^^ y
def execVnot (f : RF) (s : State) : Host.Outcome State Fault Refusal :=
  lanewise (.vnot f) f s 1 fun _ x _ _ => 2 ^ f.ty.lane - 1 - x
def execVshl (f : RF) (s : State) : Host.Outcome State Fault Refusal := lanewise (.vshl f) f s 2 fun _ x y _ => vShl f x y
def execVshr (f : RF) (s : State) : Host.Outcome State Fault Refusal :=
  lanewise (.vshr f) f s 2 fun _ x y _ => if y < f.ty.lane then x >>> y else 0
def execVsar (f : RF) (s : State) : Host.Outcome State Fault Refusal :=
  lanewise (.vsar f) f s 2 fun _ x y _ =>
    wrapNat f.ty.lane (signed f.ty.lane x / ((2 ^ (min y f.ty.lane) : Nat) : Int))
def execVmulh (f : RF) (s : State) : Host.Outcome State Fault Refusal :=
  lanewise (.vmulh f) f s 2 fun _ x y _ => wrapNat f.ty.lane ((iVal f.ty x * iVal f.ty y) / ((2 ^ f.ty.lane : Nat) : Int))
def execVclz (f : RF) (s : State) : Host.Outcome State Fault Refusal :=
  lanewise (.vclz f) f s 1 fun _ x _ _ => if x == 0 then f.ty.lane else f.ty.lane - 1 - x.log2
def execVpopc (f : RF) (s : State) : Host.Outcome State Fault Refusal :=
  lanewise (.vpopc f) f s 1 fun _ x _ _ => popCount (BitVec.ofNat f.ty.lane x)

/-! ## Add-compare-select (R271) -/

/-- The two candidates of a lane and the choice: metric and decision. -/
def acsLane (f : RF) (x y z : Nat) : Nat × Bool :=
  let p := iRes f (iVal f.ty x + iVal f.ty z)
  let q := iRes f (iVal f.ty y - iVal f.ty z)
  let pick := if f.low / 16 == 0 then decide (iVal f.ty q < iVal f.ty p) else decide (iVal f.ty p < iVal f.ty q)
  (if pick then q else p, pick)

def execVacs (f : RF) (s : State) : Host.Outcome State Fault Refusal :=
  issue (.vacs f) s fun a b =>
    let t := a.me
    let va := t.getV f.sa.toNat
    let vb := t.getV f.sb.toNat
    let vc := t.getV f.sc.toNat
    let m := mskOf t f
    let heads := headCodes t f
    let md := f.low % 8
    let half := f.low / 8 % 2
    let at_ (j : Nat) : Nat × Bool := acsLane f (laneOf va.val 16 j) (laneOf vb.val 16 j) (laneOf vc.val 16 j)
    let val := vecOfLanes 16 fun j => (at_ j).1
    let written : Word := BitVec.ofNat 64 (natOfLanes 1 ((upto 64).map fun i => bit (m.getLsbD ((64 * half + i) / 2))))
    let bits : Word := BitVec.ofNat 64 (natOfLanes 1 ((upto 64).map fun i => bit (at_ (64 * half + i)).2))
    let codes := heads ++ [va.firstCode, vb.firstCode, vc.firstCode]
    let b := b.putV a f.dst.toNat m (elemResult heads [va, vb, vc] val)
    .done (b.setMask md (writeMaskBits (t.getM md) written bits codes))

/-! ## Compare, select, moves (R272 to R274) -/

/-- The condition of VCMP on two lanes. -/
def vcond (t : Ty) (c x y : Nat) : Bool :=
  if t.isF then
    let o := (t.dec x).cmp (t.dec y)
    match c with
    | 0 => o == some .eq
    | 1 => o != some .eq
    | 2 => o == some .lt
    | 3 => o == some .lt || o == some .eq
    | 4 => o == some .gt
    | 5 => o == some .gt || o == some .eq
    | 6 => o == none
    | _ => o != none
  else match c with
    | 6 => x &&& y != 0
    | 7 => x &&& y == 0
    | _ => condInt c (iVal t x) (iVal t y)

def execVcmp (f : RF) (s : State) : Host.Outcome State Fault Refusal :=
  issue (.vcmp f) s fun a b =>
    let t := a.me
    let w := f.ty.lane
    let va := t.getV f.sa.toNat
    let vb := t.getV f.sb.toNat
    let c := f.low % 8
    let holds (j : Nat) : Bool := vcond f.ty c (laneOf va.val w j) (laneOf vb.val w j)
    let m := mskOf t f
    if f.low / 8 == 1 then
      let val := vecOfLanes w fun j => if holds j then 2 ^ w - 1 else 0
      .done (b.putV a f.dst.toNat m (elemResult (headCodes t f) [va, vb] val))
    else
      let per := 32 / w
      let bits : Word := BitVec.ofNat 64 (natOfLanes 1 ((upto 64).map fun g => bit ((upto per).all fun k => holds (per * g + k))))
      .done (b.setMask f.dst.toNat (writeMaskBits (t.getM f.dst.toNat) m bits
        (headCodes t f ++ [va.firstCode, vb.firstCode])))

/-- A granule whose selector and source are both poisoned takes the selector's code, after MSK's and before A's and B's (DESIGN
CHOICE, log entry 75). -/
def execVsel (f : RF) (s : State) : Host.Outcome State Fault Refusal :=
  issue (.vsel f) s fun a b =>
    let t := a.me
    let va := t.getV f.sa.toNat
    let vb := t.getV f.sb.toNat
    let sel := t.getM f.low
    let val := (mergeVec vb sel.val va).val
    .done (b.putV a f.dst.toNat (mskOf t f) (elemResult (headCodes t f ++ [sel.code]) [va, vb] val))

def execVmov (f : RF) (s : State) : Host.Outcome State Fault Refusal := lanewise (.vmov f) f s 1 fun _ x _ _ => x

def execVbcast (f : RF) (s : State) : Host.Outcome State Fault Refusal :=
  issue (.vbcast f) s fun a b =>
    let x := a.rs f.sa
    let val := vecOfLanes f.ty.lane fun _ => x.val.toNat % 2 ^ f.ty.lane
    .done (b.putV a f.dst.toNat (mskOf a.me f) (wholeResult (headCodes a.me f ++ [x.code]) val))

def execViota (f : RF) (s : State) : Host.Outcome State Fault Refusal :=
  issue (.viota f) s fun a b =>
    let x := a.rs f.sa
    let y := a.rs f.sb
    let val := vecOfLanes f.ty.lane fun j => (x.val.toNat + j * y.val.toNat) % 2 ^ f.ty.lane
    .done (b.putV a f.dst.toNat (mskOf a.me f) (wholeResult (headCodes a.me f ++ [x.code, y.code]) val))

/-- One lane of a register replaced; a partial write of a poisoned granule is not kept (R395). -/
def VReg.setLane (x : VReg) (w k v : Nat) (code : Option Code) : VReg :=
  let g := w * k / 32
  match code with
  | some c => x.setGranule g c true
  | none =>
    if x.psn.getLsbD g && w < 32 then x
    else
      let mk : VWord := maskBits 2048 (w * k) w
      { val := (x.val &&& ~~~mk) ||| (BitVec.ofNat 2048 (v % 2 ^ w) <<< (w * k)), psn := setBit x.psn g false }

def execVins (f : RF) (s : State) : Host.Outcome State Fault Refusal :=
  issue (.vins f) s fun a b =>
    let t := a.me
    let w := f.ty.lane
    let x := a.rs f.sa
    let k := a.rs f.sb
    let old := t.getV f.dst.toNat
    let n := k.val.toNat
    let on := n < lanesOf w && (mskOf t f).getLsbD (n * w / 32)
    let code := (headCodes t f ++ [x.code, k.code]).findSome? id
    .done (b.setVec f.dst.toNat (if on then old.setLane w n x.val.toNat code else old))

def execVext (f : RF) (s : State) : Host.Outcome State Fault Refusal :=
  issue (.vext f) s fun a b =>
    let t := a.me
    let w := f.ty.lane
    let x := t.getV f.sa.toNat
    let k := a.rs f.sb
    let v := laneOf x.val w k.val.toNat
    let r := if k.val.toNat < lanesOf w then (if f.ty.isSigned then wordOfInt (signed w v) else word v) else 0
    .done (b.setRs f.dst (SReg.of [t.guardCode f.grd, x.firstCode, k.code] r))

/-! ## Permutations (R275, R276) -/

def execVperm (f : RF) (s : State) : Host.Outcome State Fault Refusal :=
  issue (.vperm f) s fun a b =>
    let t := a.me
    let w := f.ty.lane
    let n := lanesOf w
    let two := f.low == 1
    let va := t.getV f.sa.toNat
    let vb := t.getV f.sb.toNat
    let vc := t.getV f.sc.toNat
    let val := vecOfLanes w fun j =>
      let i := laneOf vb.val w j
      if i < n then laneOf va.val w i else if two && i < 2 * n then laneOf vc.val w (i - n) else 0
    let codes := headCodes t f ++ [va.firstCode, vb.firstCode] ++ (if two then [vc.firstCode] else [])
    .done (b.putV a f.dst.toNat (mskOf t f) (wholeResult codes val))

/-- Where lane `j` of VSHUF comes from: second source or first, and its lane. -/
def shufFrom (op n j : Nat) : Bool × Nat :=
  let h := n / 2
  match op with
  | 0 => (j % 2 == 1, j / 2)
  | 1 => (j % 2 == 1, h + j / 2)
  | 2 => (h ≤ j, 2 * (j % h))
  | 3 => (h ≤ j, 2 * (j % h) + 1)
  | 4 => (false, n - 1 - j)
  | _ => (false, 8 * (j % 8) + j / 8)

def execVshuf (f : RF) (s : State) : Host.Outcome State Fault Refusal :=
  issue (.vshuf f) s fun a b =>
    let t := a.me
    let w := f.ty.lane
    let va := t.getV f.sa.toNat
    let vb := t.getV f.sb.toNat
    let val := vecOfLanes w fun j =>
      let (second, i) := shufFrom f.low (lanesOf w) j
      laneOf (if second then vb.val else va.val) w i
    let codes := headCodes t f ++ [va.firstCode] ++ (if f.low < 4 then [vb.firstCode] else [])
    .done (b.putV a f.dst.toNat (mskOf t f) (wholeResult codes val))

/-! ## Reductions, scans, compression (R277 to R279) -/

/-- First code among the granules that a mask enables. -/
def VReg.codeUnder (x : VReg) (m : Word) : Option Code := (onesOf (x.psn &&& m)).findSome? x.code

/-- Enabled lanes of a register, empty where MSK is clear. -/
def enabledLanes (w : Nat) (m : Word) (x : VReg) : List (Option Nat) :=
  (upto (lanesOf w)).map fun j => if m.getLsbD (j * w / 32) then some (laneOf x.val w j) else none

/-- The node operation of VRED on lane patterns, f32 patterns for F. -/
def redOp (f : RF) (r x y : Nat) : Nat :=
  let t : Ty := if f.ty.isF then .f32 else f.ty
  match f.low with
  | 0 => if f.ty.isF then faddCode fmtF32 f.rnd false r x y else iRes f (iVal t x + iVal t y)
  | 1 => minCode t x y
  | 2 => maxCode t x y
  | 3 => x &&& y
  | 4 => x ||| y
  | _ => x ^^^ y

/-- The result where no lane is enabled. -/
def redEmpty (f : RF) : Nat :=
  let w := f.ty.lane
  match f.low with
  | 1 => if f.ty.isF then fmtF32.infCode else wrapNat w (tmax w f.ty.isSigned)
  | 2 => if f.ty.isF then signBit fmtF32 true + fmtF32.infCode else wrapNat w (tmin w f.ty.isSigned)
  | 3 => 2 ^ w - 1
  | _ => 0

def execVred (f : RF) (s : State) : Host.Outcome State Fault Refusal :=
  issue (.vred f) s fun a b =>
    let t := a.me
    let w := f.ty.lane
    let m := mskOf t f
    let x := t.getV f.sa.toNat
    let r := drawsOf t f w 0
    let leaf (v : Nat) : Nat := if f.ty.isF then roundTo fmtF32 .rne false 0 (f.ty.dec v) else v
    let v := (redTree (redOp f r) (lanesOf w).log2 ((enabledLanes w m x).map (·.map leaf))).getD (redEmpty f)
    let out := if f.ty.isF then word v else if f.ty.isSigned then wordOfInt (signed w v) else word v
    .done (b.setRs f.dst (SReg.of (headCodes t f ++ [x.codeUnder m]) out))

/-- Running values of VSCAN: each lane's, from lane `j` on. -/
def scanFrom (op : Nat → Nat → Nat → Nat) : Nat → Option Nat → List (Option Nat) → List Nat
  | _, _, [] => []
  | j, acc, none :: rest => 0 :: scanFrom op (j + 1) acc rest
  | j, acc, some x :: rest =>
    let v := match acc with
      | none => x
      | some y => op j y x
    v :: scanFrom op (j + 1) (some v) rest

def execVscan (f : RF) (s : State) : Host.Outcome State Fault Refusal :=
  issue (.vscan f) s fun a b =>
    let t := a.me
    let w := f.ty.lane
    let m := mskOf t f
    let x := t.getV f.sa.toNat
    let r := drawsOf t f w
    -- a NaN's payload reaches no result, not even through the first enabled lane (R72)
    let leaf (v : Nat) : Nat := if f.ty.isF then f.ty.fmt.noPayload v else v
    let vals := scanFrom (fun j y x => redOp f (r j) y x) 0 none ((enabledLanes w m x).map (·.map leaf))
    let val := BitVec.ofNat 2048 (natOfLanes w vals)
    .done (b.putV a f.dst.toNat m (wholeResult (headCodes t f ++ [x.codeUnder m]) val))

def execVcomp (f : RF) (s : State) : Host.Outcome State Fault Refusal :=
  issue (.vcomp f) s fun a b =>
    let t := a.me
    let m := mskOf t f
    let x := t.getV f.sa.toNat
    let val := BitVec.ofNat 2048 (natOfLanes 32 ((onesOf m).map fun i => laneOf x.val 32 i))
    .done (b.setVec f.dst.toNat (wholeResult (headCodes t f ++ [x.codeUnder m]) val))

def execVexpd (f : RF) (s : State) : Host.Outcome State Fault Refusal :=
  issue (.vexpd f) s fun a b =>
    let t := a.me
    let m := mskOf t f
    let x := t.getV f.sa.toNat
    let below (i : Nat) : Nat := popCount (m &&& (maskBits 64 0 i))
    let val := vecOfLanes 32 fun i => laneOf x.val 32 (below i)
    let read : Word := maskBits 64 0 (popCount m)
    .done (b.putV a f.dst.toNat m (wholeResult (headCodes t f ++ [x.codeUnder read]) val))

/-! ## Conversion (R280 to R282) -/

/-- One element from the source type to the destination type; an infinity stays one, whatever SAT holds, where the
target is wider (R79). -/
def convertTy (dst src : Ty) (rnd : Rnd) (sat : Bool) (r v : Nat) : Nat :=
  let isInt (t : Ty) : Bool := t.isInt && !t.is0
  if isInt dst then
    if isInt src then intResult dst.lane dst.isSigned sat (iVal src v)
    else floatToInt dst.lane dst.isSigned rnd r (src.dec v)
  else if isInt src then intToFloat dst.fmt rnd sat r (iVal src v)
  else roundTo dst.fmt rnd (sat && !src.fmt.within dst.fmt) r (src.dec v)

def convert (f : RF) (src : Ty) (r v : Nat) : Nat := convertTy f.ty src f.rnd f.sat r v

/-- Element `k` across a group of registers. -/
def groupElem (vs : List VReg) (w k : Nat) : Nat :=
  laneOf (vs.getD (k / lanesOf w) VReg.zero).val w (k % lanesOf w)

def sourceGroup (t : Slot) (n : BitVec 6) (g : Nat) : List VReg := (upto g).map fun i => t.getV (n.toNat + i)

/-- Writes a group of registers whole, element by element. -/
def State.putGroup (b : State) (n : BitVec 6) (g w : Nat) (codes : List (Option Code)) (elem : Nat → Nat) : State :=
  (upto g).foldl (fun b i =>
    b.setVec (n.toNat + i) (wholeResult codes (vecOfLanes w fun j => elem (lanesOf w * i + j)))) b

/-- VCVT; an element draws as a lane of the wider side, which R76's example names the source's lane (log entry 19). -/
def execVcvt (f : RF) (s : State) : Host.Outcome State Fault Refusal :=
  issue (.vcvt f) s fun a b =>
    let t := a.me
    let src := f.src.getD .none
    let wd := f.ty.lane
    let ws := src.lane
    let w := max wd ws
    let r := drawsOf t f w
    if wd == ws then
      let x := t.getV f.sa.toNat
      let val := vecOfLanes wd fun j => convert f src (r j) (laneOf x.val ws j)
      .done (b.putV a f.dst.toNat (mskOf t f) (elemResult (headCodes t f) [x] val))
    else
      let vs := sourceGroup t f.sa (max 1 (ws / wd))
      let codes := t.guardCode f.grd :: vs.map (·.firstCode)
      .done (b.putGroup f.dst (max 1 (wd / ws)) wd codes fun k => convert f src (r (k % lanesOf w)) (groupElem vs ws k))

/-- Bytes of a quantised register (R281): elements, then the scales at byte 128. -/
def mxBytes (t : Ty) (blocks : List (Nat × List Nat)) : List Nat :=
  let elems := blocks.flatMap (·.2)
  let body := match t with
    | .mx4 => (upto 128).map fun i => elems.getD (2 * i) 0 + 16 * elems.getD (2 * i + 1) 0
    | _ => (upto 128).map fun i => elems.getD i 0
  body ++ blocks.map (·.1)

def execVqnt (f : RF) (s : State) : Host.Outcome State Fault Refusal :=
  issue (.vqnt f) s fun a b =>
    let t := a.me
    let src := f.src.getD .f32
    let vs := sourceGroup t f.sa (mxGroup f.ty src)
    let nb := if f.ty == .mx4 then 8 else 4
    let blocks := (upto nb).map fun k =>
      mxQuantise f.ty ((upto 32).map fun i => src.dec (groupElem vs src.lane (32 * k + i)))
    let val := BitVec.ofNat 2048 (natOfLanes 8 (mxBytes f.ty blocks))
    .done (b.setVec f.dst.toNat (wholeResult (t.guardCode f.grd :: vs.map (·.firstCode)) val))

/-- Element `k` of a quantised register with its scale (R73, R282). -/
def mxElem (t : Ty) (x : VReg) (k : Nat) : Nat × Nat :=
  match t with
  | .mx4 => (laneOf x.val 8 (128 + k / 32), laneOf x.val 4 k)
  | _ => (laneOf x.val 8 (128 + k / 32), laneOf x.val 8 k)

def execVdqnt (f : RF) (s : State) : Host.Outcome State Fault Refusal :=
  issue (.vdqnt f) s fun a b =>
    let t := a.me
    let src := f.src.getD .mx4
    let x := t.getV f.sa.toNat
    let w := f.ty.lane
    let r := drawsOf t f w
    .done (b.putGroup f.dst (mxGroup src f.ty) w [t.guardCode f.grd, x.firstCode] fun k =>
      let (sc, e) := mxElem src x k
      roundTo f.ty.fmt f.rnd f.sat (r (k % lanesOf w)) (mxDequantise src sc e))

/-! ## Masks (R283, R284) -/

def execMlog (f : RF) (s : State) : Host.Outcome State Fault Refusal :=
  issue (.mlog f) s fun a b =>
    let t := a.me
    let x := t.getM f.sa.toNat
    let y := t.getM f.sb.toNat
    let v := word (natOfLanes 1 ((upto 64).map fun i =>
      bit (f.sub.getLsbD (2 * bit (x.val.getLsbD i) + bit (y.val.getLsbD i)))))
    .done (b.setMask f.dst.toNat (SReg.of [t.guardCode f.grd, x.code, y.code] v))

def execMpopc (f : RF) (s : State) : Host.Outcome State Fault Refusal :=
  issue (.mpopc f) s fun a b =>
    let t := a.me
    let x := t.getM f.sa.toNat
    .done (b.setRs f.dst (SReg.of [t.guardCode f.grd, x.code] (word (popCount x.val))))

def execMfirst (f : RF) (s : State) : Host.Outcome State Fault Refusal :=
  issue (.mfirst f) s fun a b =>
    let t := a.me
    let x := t.getM f.sa.toNat
    let ones := onesOf x.val
    let v := if f.sub == 0 then ones.headD 64 else ones.getLastD 64
    .done (b.setRs f.dst (SReg.of [t.guardCode f.grd, x.code] (word v)))

def execMmov (f : RF) (s : State) : Host.Outcome State Fault Refusal :=
  issue (.mmov f) s fun a b =>
    let t := a.me
    let g := t.guardCode f.grd
    let w := f.ty.lane
    let q := f.low / 8
    let d := f.dst.toNat
    match f.low % 8 with
    | 0 =>
      let x := t.getM f.sa.toNat
      .done (b.setMask d (SReg.of [g, x.code] x.val))
    | 1 =>
      let x := a.rs f.sa
      .done (b.setMask d (SReg.of [g, x.code] x.val))
    | 2 =>
      let x := t.getM f.sa.toNat
      .done (b.setRs f.dst (SReg.of [g, x.code] x.val))
    | 3 =>
      let x := t.getV f.sa.toNat
      let v := word (natOfLanes 1 ((upto 64).map fun k => laneOf x.val w (64 * q + k) / 2 ^ (w - 1)))
      .done (b.setMask d (SReg.of [g, x.firstCode] v))
    | _ =>
      let x := t.getM f.sa.toNat
      let val := vecOfLanes w fun j => if x.val.getLsbD (j % 64) then 2 ^ w - 1 else 0
      .done (b.putV a d (maskBits 64 (2 * w * q) (2 * w)) (wholeResult [g, x.code] val))

end Sys2Proof.Machine
end

