-- ==== Sys2Proof/Machine/Tile.lean ====
section
/-! DEFINITION. Tile instructions (R60, R323 to R328), bank instructions and the moves of bank supplies (R53 to R55,
R329, R330), boost leases and power hints (R331, R332, R444, R450, R454). -/

namespace Sys2Proof.Machine

/-! ## The tile -/

/-- A row: zero while its written bit is clear (R60). -/
def Reel.row (x : Reel) (r : Nat) : VReg := if x.written.getLsbD r then x.tile.get VReg.zero r else VReg.zero

/-- Writes a row and its written bit. -/
def Reel.setRow (x : Reel) (r : Nat) (v : VReg) : Reel :=
  { x with tile := x.tile.put VReg.zero r v, written := setBit x.written r true }

/-- Writes lanes of a row whose other lanes stay. -/
def Reel.writeRow (x : Reel) (r : Nat) (m : Word) (v : VReg) : Reel := x.setRow r (mergeVec (x.row r) m v)

/-- The tile is occupied for `n` cycles from this one (R327). -/
def State.occupy (s : State) (n : Nat) : State := s.modReel s.cur.reel fun x => { x with tileBusy := x.cycle + n }

/-- The row that a scalar names (R323). -/
def rowOf (x : SReg) : Nat := bitsOf x.val 0 8

def execAtld (f : RF) (s : State) : Host.Outcome State Fault Refusal :=
  issue (.atld f) s fun a b =>
    let t := a.me
    let x := a.rs f.sa
    Eff.consume [x.code] <|
      let row := (a.reel a.cur.reel).row (rowOf x)
      .done ((b.putV a f.dst.toNat (mskOf t f) (elemResult (headCodes t f) [row] row.val)).occupy 1)

def execAtst (f : RF) (s : State) : Host.Outcome State Fault Refusal :=
  issue (.atst f) s fun a b =>
    let t := a.me
    let x := a.rs f.sa
    Eff.consume [x.code] <|
      let v := t.getV f.sb.toNat
      let y := elemResult (headCodes t f) [v] v.val
      .done ((b.modReel a.cur.reel fun r => r.writeRow (rowOf x) (mskOf t f) y).occupy 1)

/-- The form that takes keys (R323). -/
def isKey (f : RF) : Bool := f.sub.getLsbD 0

/-- Enabled lanes whose key does not skip them, with their keys, ascending (R326). -/
def keysOf (m : Word) (v : VReg) : List (Nat × Nat) :=
  ((upto 64).filter fun j => m.getLsbD j && laneOf v.val 32 j < 2 ^ 31).map fun j => (j, laneOf v.val 32 j)

/-- Lanes that repeat the row of a lower one (R327); no rule says whether a lane whose key skips it names a row, and it counts as
naming none (DESIGN CHOICE, log entry 123). -/
def repeats : List Nat → List Nat → Nat
  | _, [] => 0
  | seen, r :: rs => bit (seen.contains r) + repeats (r :: seen) rs

/-- One lane update: the element becomes the operation's result, poisoned by the heads, itself or the value. -/
def keyUpdate (op : Nat → Nat → Nat) (heads : List (Option Code)) (vb : VReg) (x : Reel) (jk : Nat × Nat) : Reel :=
  let r := jk.2 % 256
  let c := jk.2 / 256 % 64
  let row := x.row r
  let codes := heads ++ [row.code c, vb.code jk.1]
  let new := op (laneOf row.val 32 c) (laneOf vb.val 32 jk.1)
  x.setRow r (row.setGranule c (match codes.findSome? id with | some k => k | none => BitVec.ofNat 32 new)
    (codes.findSome? id).isSome)

/-- ATADD and ATMAX (R325, R326). A .row form sets the written bit of its row with no lane enabled too (DESIGN CHOICE, log entry
109). -/
def tileOp (i : Instr) (f : RF) (op : Nat → Nat → Nat) (s : State) : Host.Outcome State Fault Refusal :=
  issue i s fun a b =>
    let t := a.me
    let m := mskOf t f
    let vb := t.getV f.sb.toNat
    if isKey f then
      let va := t.getV f.sa.toNat
      Eff.consume ((onesOf m).map va.code) <|
        let ks := keysOf m va
        .done ((b.modReel a.cur.reel fun x => ks.foldl (keyUpdate op (headCodes t f) vb) x).occupy
          (2 + repeats [] (ks.map fun (jk : Nat × Nat) => jk.2 % 256)))
    else
      let x := a.rs f.sa
      Eff.consume [x.code] <|
        let row := (a.reel a.cur.reel).row (rowOf x)
        let val := vecOfLanes 32 fun j => op (laneOf row.val 32 j) (laneOf vb.val 32 j)
        let y := elemResult (headCodes t f) [row, vb] val
        .done ((b.modReel a.cur.reel fun r => r.writeRow (rowOf x) m y).occupy 2)

/-- A sum in the tile: SAT clamps an f32 overflow here (R325). -/
def tileSum (f : RF) (x y : Nat) : Nat :=
  if f.ty.isF then roundTo f.ty.fmt f.rnd f.sat 0 (sumF f.rnd [f.ty.dec x, f.ty.dec y]) else addLane f 0 x y 0

def execAtadd (f : RF) (s : State) : Host.Outcome State Fault Refusal := tileOp (.atadd f) f (tileSum f) s

def execAtmax (f : RF) (s : State) : Host.Outcome State Fault Refusal :=
  tileOp (.atmax f) f (maxCode f.ty) s

/-- Clears a row (R328). -/
def Reel.clearRow (x : Reel) (r : Nat) : Reel := { x with tile := x.tile.del r, written := setBit x.written r false }

def execAtclr (f : RF) (s : State) : Host.Outcome State Fault Refusal :=
  issue (.atclr f) s fun a b =>
    let x := a.rs f.sa
    let y := a.rs f.sb
    Eff.consume [x.code, y.code] <|
      let n := min y.val.toNat 256
      .done ((b.modReel a.cur.reel fun r => (upto n).foldl (fun r i => r.clearRow ((rowOf x + i) % 256)) r).occupy
        (1 + (n - 1) / 16))

/-! ## Banks -/

/-- VDROP (R329). -/
def execVdrop (f : RF) (s : State) : Host.Outcome State Fault Refusal :=
  issue (.vdrop f) s fun _ b =>
    .done (b.modMe fun t => ((upto 64).filter fun n => f.sa.toNat ≤ n && n ≤ f.sb.toNat).foldl (Slot.kill b.now) t)

/-- BKQ (R330). -/
def execBkq (f : RF) (s : State) : Host.Outcome State Fault Refusal :=
  issue (.bkq f) s fun a b =>
    let t := a.me
    let x := a.rs f.sa
    let r := a.reel a.cur.reel
    let g := t.guardCode f.grd
    match f.sub.toNat with
    | 0 => .done (b.setRs f.dst (SReg.of [g] t.live))
    | 1 => .done (b.setRs f.dst (SReg.of [g, x.code] (r.lsLive.extractLsb' (64 * bitsOf x.val 0 3) 64)))
    | _ => .done (b.setRs f.dst (SReg.of [g]
        (word (natOfLanes 1 ((upto 32).map fun k => bit (r.lsBankLive k))))))

/-- A bank settled to what it has become by the start of the reel's cycle (R54, R55); where new delays came in with the
cycle, the reel's next cycle settles it (R229). -/
def Slot.settleBank (c : Nat) (t : Slot) (b : Nat) : Slot :=
  if t.dly.new then t else t.setBank b ((t.bank b).due t.dly c (t.bankLive b))

def Reel.settleLsBank (x : Reel) (b : Nat) : Reel :=
  if x.lsDly.new then x else x.setLsBank b ((x.lsBank b).due x.lsDly x.cycle (x.lsBankLive b))

/-- A bank moves as far as the delays in force and the reel's cycle have brought it. -/
def State.settle (s : State) : BankRef → State
  | .vec reel slot bank => s.modReel reel fun x => x.setSlot slot ((x.slot slot).settleBank x.cycle bank)
  | .ls reel bank => s.modReel reel fun x => x.settleLsBank bank

/-- BANK_WAKE_DONE: the bank is FULL once its wake has run (R55). -/
def execBankWakeDone (b : BankRef) (s : State) : Host.Outcome State Fault Refusal := .next (s.settle b)
/-- BANK_RETAIN: a bank untouched for D_ret cycles (R54). -/
def execBankRetain (b : BankRef) (s : State) : Host.Outcome State Fault Refusal := .next (s.settle b)
/-- BANK_OFF: a bank dead for D_off cycles (R54). -/
def execBankOff (b : BankRef) (s : State) : Host.Outcome State Fault Refusal := .next (s.settle b)

/-! ## Boost and hints -/

/-- Leases allowed, the longest lease, and the idle time before a field gates, in PWRPOL (R442). -/
def Power.boost (p : Power) : Bool := p.polNow.getLsbD 2
def Power.maxUs (p : Power) : Nat := bitsOf p.polNow 32 32
def Power.idleUs (p : Power) : Nat := if bitsOf p.polNow 8 8 == 0 then 1 else bitsOf p.polNow 8 8

/-- The µs that remain of a context's lease (R331, R454, R455). -/
def State.leaseLeft (s : State) (c : Nat) : Nat :=
  match (s.ctx c).lease with
  | some l => match l.kept with
    | some k => k
    | none => (l.expiry - s.tick) / 1000
  | none => 0

/-- A predicted power lies below 98 % of ENFW less the repayment, whose E_n of `owed` mJ over 1 ms is as many W (R446, R454). -/
def Power.bears (p : Power) (predicted : Nat) : Bool := 100 * predicted < 98 * (p.enfw - p.owed)

/-- The answer to BOOST.req (R454). The power predicted for the fields of the context's partitions is the power manager's
figure: free (log entry 2); a context that has no field has none to predict for (log entry 90). -/
def State.boostGrant (s : State) (c mhz us : Nat) : Word × State :=
  let mine := s.parts.filter fun p => p.ctx == c && !p.evicted
  let cool := mine.all fun p => p.fields.all fun f => !(s.field f).hot && (s.field f).temp ≤ s.power.tcritNow
  let (predicted, s) := s.drawChoice (2 ^ 32)
  if s.fw.devMode == .full && s.power.boost && s.power.maxUs != 0 && cool && (s.power.bears predicted || mine.isEmpty) && 1 ≤ us &&
      us ≤ 1000000 then
    let n := min us s.power.maxUs
    (word n, s.modCtx c fun x => { x with lease := some { mhz := mhz, expiry := s.tick + 1000 * n, kept := none } })
  else (0, s)

def State.boostRelease (s : State) (c : Nat) : Word × State :=
  (word (s.leaseLeft c), s.modCtx c fun x => { x with lease := none })

/-- BOOST.req; a code is no duration in range, so a poisoned one is denied and its answer poisoned (R212). -/
def execBoostReq (f : IF) (s : State) : Host.Outcome State Fault Refusal :=
  issue (.boostReq f) s fun a b =>
    let x := a.rs f.sa
    let c := (a.me).ctx
    match x.code with
    | some k => .done (b.setRs f.dst (SReg.poison k))
    | none =>
      .done (b.served f.dst (fun k => .boost k c f.imm.toNat x.val.toNat) fun s => s.boostGrant c f.imm.toNat x.val.toNat)

def execBoostRel (f : IF) (s : State) : Host.Outcome State Fault Refusal :=
  issue (.boostRel f) s fun a b =>
    .done (b.served f.dst (fun k => .boostRel k (a.me).ctx) fun s => s.boostRelease (a.me).ctx)

def execBoostQry (f : IF) (s : State) : Host.Outcome State Fault Refusal :=
  issue (.boostQry f) s fun a b =>
    .done (b.served f.dst (fun k => .boostQry k (a.me).ctx) fun s => (word (s.leaseLeft (a.me).ctx), s))

/-- PWRHINT.idle: the field may gate once its conditions hold; a hint changes only time and power (R332). No rule says when the
hint lapses: it stands until the field next gates, whatever IMM says, and .ramp leaves it (DESIGN CHOICE, log entry 124). -/
def execPwrhintIdle (f : IF) (s : State) : Host.Outcome State Fault Refusal :=
  issue (.pwrhintIdle f) s fun a b =>
    .done (b.modField a.myField fun x => { x with idleHint := true })

/-- PWRHINT.ramp: the gated reels of the field run at once (R444). -/
def execPwrhintRamp (f : IF) (s : State) : Host.Outcome State Fault Refusal :=
  issue (.pwrhintRamp f) s fun a b =>
    .done (b.modField a.myField fun x => { x with gated := false, idleSince := none })

end Sys2Proof.Machine
end

