-- ==== Sys2Proof/Machine/Lines.lean ====
section
/-! DEFINITION. Ports, lines and their flits (R126, R177, R178, R187), the filters of a line (R181, R182), and the
delivery of flits. -/

namespace Sys2Proof.Machine

/-- Elements in groups of `n`; the last may be short. -/
def chunksOf {α : Type} (n : Nat) : Nat → List α → List (List α)
  | 0, _ => []
  | fuel + 1, l => if l.isEmpty then [] else l.take n :: chunksOf n fuel (l.drop n)

def chunks {α : Type} (n : Nat) (l : List α) : List (List α) := chunksOf n (l.length + 1) l

/-- 32-bit words of a payload. -/
def words32 (l : List Byte) : List Nat := (chunks 4 l).map natOfBytes

/-- Bytes of 32-bit words. -/
def bytes32 (l : List Nat) : List Byte := l.flatMap fun w => bytesOf (BitVec.ofNat 32 w) 4

/-- A poisoned payload of `n` bytes: every word holds the code (R395). -/
def codeBytes (c : Code) (n : Nat) : List Byte := (upto n).map fun i => byteOf c (i % 4)

/-! ## Ports (R126, R178) -/

def feedPort (bx by_ : Nat) : Port := { kind := 1, a := bx, b := by_, kite := 0 }
def drainPort (bx by_ : Nat) : Port := { kind := 2, a := bx, b := by_, kite := 0 }
def westPort (k row : Nat) : Port := { kind := 3, a := 0, b := row, kite := k }
def northPort (k col : Nat) : Port := { kind := 4, a := 0, b := col, kite := k }
def southPort (k col : Nat) : Port := { kind := 5, a := 0, b := col, kite := k }
def eastPort (k row : Nat) : Port := { kind := 6, a := 0, b := row, kite := k }
def Port.isKite (p : Port) : Bool := 3 ≤ p.kind && p.kind ≤ 6

def State.lineFrom? (s : State) (part : Nat) (p : Port) : Option Line := s.lines.find? fun l => l.part == part && l.src == p
def State.lineTo? (s : State) (part : Nat) (p : Port) : Option Line := s.lines.find? fun l => l.part == part && l.snk == p
def State.modLine (s : State) (id : Nat) (f : Line → Line) : State :=
  { s with lines := listMod (fun l => l.id == id) f s.lines }

/-- Flits that the line holds, filter included. -/
def Line.held (l : Line) : Nat := l.buf.length + l.arrived.length + l.gather.length
/-- A further flit has room (R183, R399). -/
def Line.space (l : Line) : Bool := l.held < l.depth && !l.stopped

/-! ## Filters (R181, R182) -/

def Line.op (l : Line) : Nat := bitsOf l.filter 12 4
def filterTo (f : BitVec 16) : Option Ty := Ty.ofCode (f.extractLsb' 7 5)
def filterFrom (f : BitVec 16) : Option Ty := Ty.ofCode (f.extractLsb' 2 5)

/-- Conversion of a payload, element by element. -/
def convertBytes (f : BitVec 16) (l : List Byte) : List Byte :=
  match filterTo f, filterFrom f with
  | some dst, some src =>
    (chunks (src.lane / 8) l).flatMap fun e =>
      bytesOf (BitVec.ofNat 64 (convertTy dst src .rne (f.getLsbD 1) 0 (natOfBytes e))) (dst.lane / 8)
  | _, _ => l

/-- One unit of 128 bytes: the map of the words that are not zero, then those words. -/
def compressUnit (l : List Byte) : List Byte :=
  let ws := words32 l
  bytes32 (natOfLanes 1 (ws.map fun w => bit (w != 0)) :: ws.filter (· != 0))

def compress (l : List Byte) : List Byte := (chunks 128 l).flatMap compressUnit

/-- The words of one unit by its map, and what follows. -/
def expandWords : Nat → Nat → List Nat → List Nat × List Nat
  | 0, _, ws => ([], ws)
  | n + 1, m, ws =>
    if m % 2 == 1 then
      let (x, rest) := expandWords n (m / 2) (ws.drop 1)
      (ws.headD 0 :: x, rest)
    else
      let (x, rest) := expandWords n (m / 2) ws
      (0 :: x, rest)

def expandFrom : Nat → List Nat → List Nat
  | 0, _ => []
  | fuel + 1, ws =>
    match ws with
    | [] => []
    | m :: rest =>
      let (x, rest) := expandWords 32 m rest
      x ++ expandFrom fuel rest

/-- What the cell's input port makes of compressed records. -/
def expand (l : List Byte) : List Byte := bytes32 (expandFrom l.length (words32 l))

/-- The payload of a flit. -/
def Flit.payload (f : Flit) : List Byte := if f.cmp then expand f.data else f.data

def Flit.compress (f : Flit) : Flit :=
  if f.psn.isSome then f else { f with data := Sys2Proof.Machine.compress f.data, cmp := true }

def Flit.convert (flt : BitVec 16) (f : Flit) : Flit :=
  let d := convertBytes flt f.data
  { f with data := match f.psn with | some c => codeBytes c d.length | none => d }

/-- Eight tokens as an array of 16-byte elements, in units of 128 bytes: element (i, j) becomes (j, i). -/
def transpose (ts : List Flit) : List Flit :=
  let code := ts.findSome? (·.psn)
  ts.zipIdx.map fun ti =>
    let n := ti.1.data.length
    match code with
    | some c => { ti.1 with data := codeBytes c n, psn := some c }
    | none =>
      let d := (upto (n / 128)).flatMap fun u => ts.flatMap fun t => (t.data.drop (128 * u + 16 * ti.2)).take 16
      { ti.1 with data := d }

/-- Tokens that a mark finds in an unfinished transposition: their payload is free (log entry 2). -/
def unfinished (free : Nat → Word) (ts : List Flit) : List Flit :=
  let code := ts.findSome? (·.psn)
  ts.zipIdx.map fun ti =>
    let n := ti.1.data.length
    match code with
    | some c => { ti.1 with data := codeBytes c n, psn := some c }
    | none => { ti.1 with data := (upto n).map fun i => byteOf (free (64 * ti.2 + i / 8)) (i % 8) }

/-- A flit enters a line through its filter; marks pass unchanged. -/
def State.pushLine (s : State) (id : Nat) (f : Flit) : State :=
  match s.lines.find? (·.id == id) with
  | none => s
  | some l =>
    let last (fs : List Flit) : List Flit := if l.op == 2 || 4 ≤ l.op then fs.map Flit.compress else fs
    if f.mark then
      let d := s.draws
      let rest := last (unfinished (fun i => Config.freeWord (d + i)) l.gather)
      { s.modLine id fun l => { l with buf := l.buf ++ rest ++ [f], gather := [] } with draws := d + 64 * l.gather.length }
    else
      let f := if l.op == 1 || l.op == 4 then f.convert l.filter else f
      if l.op == 3 || l.op == 5 then
        let g := l.gather ++ [f]
        if g.length < 8 then s.modLine id fun l => { l with gather := g }
        else s.modLine id fun l => { l with buf := l.buf ++ last (transpose g), gather := [] }
      else s.modLine id fun l => { l with buf := l.buf ++ last [f] }

/-! ## What a feed sends (R187) -/

/-- A data token of a round. -/
def dataFlit (rnd tag : Nat) (d : List Byte) (code : Option Code) (grd : BitVec 32) : Flit :=
  { data := match code with | some c => codeBytes c d.length | none => d
    rnd := rnd, mark := false, lvl := 0, tag := tag, psn := code, cmp := false, grd := grd }

def markFlit (rnd lvl tag : Nat) : Flit :=
  { data := [], rnd := rnd, mark := true, lvl := lvl, tag := tag, psn := none, cmp := false, grd := BitVec.allOnes 32 }

/-- A mark closes the round; the next number is one more, mod 256. -/
def State.feedMark (s : State) (l : Line) (lvl tag : Nat) : State :=
  (s.pushLine l.id (markFlit l.round lvl tag)).modLine l.id fun l => { l with round := (l.round + 1) % 256 }

/-! ## Kites at a port -/

def State.kite? (s : State) (h : Nat) : Option Kite := s.kites.find? (·.handle == h)
def State.modKite (s : State) (h : Nat) (f : Kite → Kite) : State := { s with kites := listMod (fun k => k.handle == h) f s.kites }

/-- The kite that a line ends at on a west or north port. -/
def State.sinkKite? (s : State) (l : Line) : Option Kite :=
  if l.snk.kind == 3 || l.snk.kind == 4 then s.kite? l.snk.kite else none

/-- The kite takes tokens of the tag (R169). -/
def State.tagOk (s : State) (l : Line) (tag : Nat) : Bool :=
  match s.sinkKite? l with
  | some k => k.tags.getLsbD tag
  | none => true

def Kite.rows (k : Kite) : Nat := 8 * k.bh
def Kite.cols (k : Kite) : Nat := 8 * k.bw
/-- The context word of cell (i, j) for a tag (R170). -/
def Kite.ctxWord (k : Kite) (i j tag : Nat) : CtxWord := k.words.get CtxWord.zero (8 * (i * k.cols + j) + tag)
def ctxSparse (w : CtxWord) : Bool := w.val.getLsbD 23

/-- Bytes of a feed's token: those of an mx4 west port, else as WIDE says (R177, R298). -/
def State.tokenBytes (s : State) (l : Line) (tag : Nat) (wide : Bool) : Nat :=
  match (if l.snk.kind == 3 then s.sinkKite? l else none) with
  | some k => if k.prec == .mx4 then (if ctxSparse (k.ctxWord l.snk.b 0 tag) then 384 else 256)
              else if wide then 256 else 128
  | none => if wide then 256 else 128

/-! ## Delivery -/

/-- A partition whose context runs and whose row domains are not gated: its lines, kites and commands move (R35, R406). -/
def State.partRuns (s : State) (part : Nat) : Bool := !s.parts.any fun p => p.handle == part && (p.suspended || p.stopped)

/-- LINE_FLIT_DELIVERY: the oldest flit in flight reaches the sink's port, in order (R177). -/
def execLineFlitDelivery (line : Nat) (s : State) : Host.Outcome State Fault Refusal :=
  .next <| match s.lines.find? (·.id == line) with
    | none => s
    | some l =>
      if l.stopped || !s.partRuns l.part then s
      else match l.buf with
        | [] => s
        | f :: rest => s.modLine line fun l => { l with buf := rest, arrived := l.arrived ++ [f] }

end Sys2Proof.Machine
end

