-- ==== Sys2Proof/Machine/KvPages.lean ====
section
/-! DEFINITION. KV pages at their homes: the header and body (R155, R156), reading rows (R161, R308), building, appending
and sealing (R306, R307), and the conversion of an aged page (R159, R393, R472). -/

namespace Sys2Proof.Machine

/-! ## Header and rows (R155, R156) -/

/-- A field of the header of the page at `p`. -/
def State.kvField (s : State) (p off n : Nat) : Nat := s.memWord (p + off) n

def State.kvFmt (s : State) (p : Nat) : Nat := s.kvField p 2 1
def State.kvNtok (s : State) (p : Nat) : Nat := s.kvField p 6 2
def State.kvHdim (s : State) (p : Nat) : Nat := s.kvField p 8 2
def State.kvCap (s : State) (p : Nat) : Nat := s.kvField p 12 2
def kvCapOf (hdim : Nat) : Nat := 65472 / hdim
def kvHdimOk (h : Nat) : Bool := 32 ≤ h && h ≤ 512 && h % 32 == 0

/-- Bytes 0 to 7 of the header, as KVLD returns them (R308); poisoned by a granule of bytes 0 to 15 (R473). -/
def State.kvHead (s : State) (p : Nat) : SReg :=
  SReg.of [firstCode (s.memBytes p 16)] (word (s.memWord p 8))

/-- The header check of R156; a poisoned granule among bytes 0 to 15 fails it (R473). One among bytes 40 to 63 fails it unless
its code is 0: the bytes read as the code (DESIGN CHOICE, log entry 102). -/
def State.kvHeaderOk (s : State) (p : Nat) : Bool :=
  let fmt := s.kvFmt p
  let st := s.kvField p 3 1
  (firstCode (s.memBytes p 16)).isNone && s.kvField p 0 2 == kvMagic && (fmt == 1 || fmt == 4) && st ≤ 3 &&
  kvHdimOk (s.kvHdim p) && s.kvCap p == kvCapOf (s.kvHdim p) && s.kvNtok p ≤ s.kvCap p &&
  s.kvField p 11 1 == 0 && s.kvField p 14 2 == 0 && s.kvField p 40 24 == 0 &&
  (fmt == 4) == (st == 3) && st != 2

/-- Row stride of a format. -/
def kvStride (fmt hdim : Nat) : Nat := if fmt == 4 then 17 * hdim / 32 else hdim

/-- A delivered byte, and the poisoned granule that it draws on: its address and its code. -/
abbrev KvByte := Byte × Option (Nat × Code)

/-- The poisoned granule of the lowest address (R473). -/
def lowestPoison (l : List (Option (Nat × Code))) : Option (Nat × Code) :=
  l.foldl (fun a x => match a, x with
    | some p, some q => if q.1 < p.1 then some q else some p
    | none, x => x
    | a, none => a) none

/-- A byte of a page with its place, for the poison that its readers take. -/
def State.kvSource (s : State) (pa : Nat) : KvByte :=
  let b := s.memByte pa
  (b.1, b.2.map fun c => (pa, c))

/-- One delivered element of a row in a type (R161): its bytes, each with the poison of what the element draws on. -/
def State.kvElem (s : State) (p : Nat) (ty : Ty) (row e : Nat) : List KvByte :=
  let h := s.kvHdim p
  let base := p + 64 + row * kvStride (s.kvFmt p) h
  let put (v : Nat) (c : Option (Nat × Code)) : List KvByte :=
    (bytesOf (BitVec.ofNat 64 v) (ty.lane / 8)).map fun b => (b, c)
  if s.kvFmt p == 4 then
    let eb := s.kvSource (base + e / 2)
    let sb := s.kvSource (base + h / 2 + e / 32)
    put (roundTo ty.fmt .rne false 0 (mxDequantise .mx4 sb.1.toNat (laneOf eb.1 4 (e % 2)))) (lowestPoison [eb.2, sb.2])
  else
    let b := s.kvSource (base + e)
    put (if ty == .e4m3 then b.1.toNat else convertTy ty .e4m3 .rne false 0 b.1.toNat) b.2

/-- Rows `t0` to `t0 + m - 1`, contiguous (R308), in delivered units of `n` bytes: one that holds a poisoned element is
poisoned (R473). -/
def State.kvRows (s : State) (p : Nat) (ty : Ty) (t0 m n : Nat) : List PByte :=
  let bs := (upto m).flatMap fun r => (upto (s.kvHdim p)).flatMap fun e => s.kvElem p ty (t0 + r) e
  (chunks n bs).flatMap fun ch =>
    let c := (lowestPoison (ch.map (·.2))).map (·.2)
    ch.map fun b => (b.1, c)

/-! ## Building, appending, sealing (R306, R307): CODE and PROG of the token -/

def clean8 (v : Nat) (n : Nat) : List PByte := (bytesOf (BitVec.ofNat 64 v) n).map fun b => (b, none)

/-- The 64 bytes of a fresh header. -/
def freshHeader (hdim kind : Nat) (owner : Word) : List PByte :=
  clean8 kvMagic 2 ++ clean8 1 1 ++ clean8 0 1 ++ clean8 0 2 ++ clean8 0 2 ++ clean8 hdim 2 ++ clean8 kind 1 ++ clean8 0 1 ++
  clean8 (kvCapOf hdim) 2 ++ clean8 0 2 ++ clean8 0 8 ++ clean8 0 8 ++ clean8 owner.toNat 8 ++
  (List.replicate 24 ((0 : Byte), (none : Option Code)))

def State.kvInit (s : State) (field p hdim kind : Nat) (owner : Word) : Nat × State :=
  match s.kvState (p / 65536) with
  | some (_ + 1) => (3, s)
  | _ => if kvHdimOk hdim then (0, s.homeWrite field true p (freshHeader hdim kind owner)) else (7, s)

/-- A source element as e4m3 (R306): an e4m3 byte as it stands. -/
def toE4m3 (ty : Ty) (e : List PByte) : PByte :=
  let v := natOfBytes (plainBytes e)
  (BitVec.ofNat 8 (if ty == .e4m3 then v else convertTy .e4m3 ty .rne true 0 v), firstCode e)

/-- The append at the home, one step: CODE, t0 and the state after it. `rows` holds the source elements. -/
def State.kvAppend (s : State) (field p hdim m : Nat) (ty : Ty) (rows : List PByte) : Nat × Nat × State :=
  let n := s.kvNtok p
  if !s.kvHeaderOk p || s.kvField p 3 1 != 0 || s.kvHdim p != hdim then (3, 0, s)
  else if m == 0 then (5, 0, s)
  else if s.kvCap p < n + m then (4, 0, s)
  else
    let bs := (chunks (ty.lane / 8) rows).map (toE4m3 ty)
    let s := s.homeWrite field true (p + 64 + n * hdim) bs
    (0, n, s.homeWrite field true (p + 6) (clean8 (n + m) 2))

/-- Pages that an ageing engine can hold (R393). -/
def registrySize : Nat := 16384

/-- KVSEAL: CODE and PROG (R307). -/
def State.kvSeal (s : State) (field p ctx : Nat) (age : Bool) : (Nat × Nat) × State :=
  if !s.kvHeaderOk p || s.kvField p 3 1 != 0 then ((3, 0), s)
  else
    let s := s.homeWrite field true (p + 3) (clean8 1 1)
    let s := s.homeWrite field true (p + 16) (clean8 s.tick 8)
    let stack := (homeOfDram p).1
    if !age then ((0, 0), s)
    else if registrySize ≤ (s.ageing? stack).registry.length then
      ((14, 1), s.modAgeing stack fun a => { a with ageFull := a.ageFull + 1 })
    else ((0, 0), s.modAgeing stack fun a => { a with registry := a.registry ++ [(p / 65536, ctx)] })

/-! ## Conversion (R159, R472) -/

/-- The page is due: sealed, with a threshold, and older than it. -/
def State.kvDue (s : State) (page ctx : Nat) : Bool :=
  let age := (s.ctx ctx).age
  s.kvState page == some 1 && age != 0 && age < word s.tick - word (s.kvField (65536 * page) 16 8)

/-- A poisoned granule stands in bytes 0 to 31 of the page's header. -/
def State.kvHeaderPoisoned (s : State) (page : Nat) : Bool := (firstCode (s.memBytes (65536 * page) 32)).isSome

/-- A page whose header is poisoned is not converted: its entry is freed, it stays SEALED, what was held goes on (R472). -/
def State.kvGiveUp (s : State) (stack page : Nat) : State :=
  (((s.endHolds stack).kvForget page).modAgeing stack fun a => { a with conv := a.conv.filter fun c => c.page != page }).rasEvent
    1 (stackField stack) (word (65536 * page)) 0

/-- KV_CONVERSION_START: staging begins; a page whose header is poisoned, which tells nothing of its age, leaves the registry
instead (R472). -/
def execKvConversionStart (stack page : Nat) (s : State) : Host.Outcome State Fault Refusal :=
  .next <| match (s.ageing? stack).conv, (s.ageing? stack).registry.find? (·.1 == page) with
    | none, some (_, ctx) =>
      if s.kvHeaderPoisoned page then s.kvGiveUp stack page
      else if !s.kvDue page ctx then s
      else s.modAgeing stack fun a => { a with conv := some { page := page, ctx := ctx, step := .staging } }
    | _, _ => s

/-- KV_CLOSING: new accesses to the page wait from now. A page that is no longer sealed is given up. -/
def execKvClosing (stack : Nat) (s : State) : Host.Outcome State Fault Refusal :=
  .next <| match (s.ageing? stack).conv with
    | some c =>
      if c.step != .staging then s
      else if s.kvHeaderPoisoned c.page then s.kvGiveUp stack c.page
      else if s.kvState c.page != some 1 then s.modAgeing stack fun a => { a with conv := none }
      else s.modAgeing stack fun a => { a with conv := some { c with step := .closing } }
    | none => s

/-- KV_CONVERTING: STATE 2. Accesses that the home accepted were performed when it accepted them. -/
def execKvConverting (stack : Nat) (s : State) : Host.Outcome State Fault Refusal :=
  .next <| match (s.ageing? stack).conv with
    | some c =>
      if c.step != .closing then s
      else if s.kvHeaderPoisoned c.page then (s.kvGiveUp stack c.page).settleHost
      else
        let s := s.homeWrite noField true (65536 * c.page + 3) (clean8 2 1)
        s.modAgeing stack fun a => { a with conv := some { c with step := .converting } }
    | none => s

/-- A converted block: 16 element bytes and the scale byte. -/
def convertBlock (bs : List PByte) : List PByte × PByte :=
  match firstCode bs with
  | some c => (List.replicate 16 (0, some c), (0, some c))
  | none =>
    let (scale, es) := mxQuantise .mx4 (bs.map fun b => Ty.e4m3.dec b.1.toNat)
    ((chunks 2 es).map fun e => (BitVec.ofNat 8 (e.headD 0 + 16 * (e.drop 1).headD 0), none), (BitVec.ofNat 8 scale, none))

/-- A converted row: element bytes, then scale bytes (R156). -/
def convertRow (bs : List PByte) : List PByte :=
  let blocks := (chunks 32 bs).map convertBlock
  blocks.flatMap (·.1) ++ blocks.map (·.2)

/-- The body of the converted page, zero to its end. -/
def State.convertedBody (s : State) (p : Nat) : List PByte :=
  let h := s.kvHdim p
  let rows := (upto (s.kvNtok p)).flatMap fun t => convertRow (s.memBytes (p + 64 + t * h) h)
  rows ++ List.replicate (65472 - rows.length) (0, none)

/-- A granule of the new body that holds any poisoned byte is poisoned whole, before it replaces the old one. -/
def State.clearGranules (s : State) (pa n : Nat) : State :=
  { s with mpsn := s.mpsn.clear (pa / 4) (n / 4) }

/-- KV_FLIP: the body under R156 and, in one header write, FMT, STATE, GEN and CONVT; the entry is freed (R393). -/
def execKvFlip (stack : Nat) (s : State) : Host.Outcome State Fault Refusal :=
  .next <| match (s.ageing? stack).conv with
    | some c =>
      if c.step != .converting then s
      else if s.kvHeaderPoisoned c.page then
        ((s.homeWrite noField true (65536 * c.page + 3) (clean8 1 1)).kvGiveUp stack c.page).settleHost
      else
        let p := 65536 * c.page
        let body := s.convertedBody p
        let s := (s.clearGranules (p + 64) 65472).homeWrite noField true (p + 64) body
        let s := s.homeWrite noField true (p + 2) (clean8 4 1 ++ clean8 3 1 ++ clean8 (s.kvField p 4 2 + 1) 2)
        let s := s.homeWrite noField true (p + 24) (clean8 s.tick 8)
        (((s.endHolds stack).kvForget c.page).modAgeing stack fun a => { a with conv := none, done := a.done + 1 }).settleHost
    | none => s

end Sys2Proof.Machine
end

