-- ==== Sys2Proof/Machine/Engines.lean ====
section
/-! DEFINITION. The engines of a reel (R289 to R313): queues and issue, the ports to memory, local store and peers, and
how a command ends. -/

namespace Sys2Proof.Machine

/-! ## Queues (R291) -/

/-- Engine codes (R309). -/
def engCode : Eng → Nat
  | .feed => 0
  | .kv => 1
  | .drain => 2
  | .copy => 3
  | .age => 4
  | .walk => 5
  | .config => 6

/-- The queue of an engine; commands that act on an engine directly are kept beside the queues. -/
def Reel.queue (x : Reel) : Eng → List Cmd
  | .feed => x.feedQ
  | .kv => x.kvQ
  | .drain => x.drainQ
  | .copy => x.copyQ
  | .walk => x.ctlQ
  | .age | .config => []

def Reel.setQueue (x : Reel) (q : List Cmd) : Eng → Reel
  | .feed => { x with feedQ := q }
  | .kv => { x with kvQ := q }
  | .drain => { x with drainQ := q }
  | .copy => { x with copyQ := q }
  | .walk => { x with ctlQ := q }
  | .age | .config => x

/-- Changes the list in which a command stands; a scanned-out reel's stand with its partition (R409). -/
def State.modQueueOf (s : State) (c : Cmd) (f : List Cmd → List Cmd) : State :=
  if c.eng == .config then
    { s.modPart c.part (fun p => { p with cfgQ := f p.cfgQ }) with
      kites := s.kites.map fun k => { k with swap := (f k.swap.toList).head? } }
  else
    let g (x : Reel) : Reel := x.setQueue (f (x.queue c.eng)) c.eng
    match s.parts.find? fun p => p.handle == c.part && p.saved.any (·.1 == p.index c.reel) with
    | some p => s.modPart p.handle fun p =>
        { p with saved := p.saved.ins (p.index c.reel) (g (p.saved.get Reel.reset (p.index c.reel))) }
    | none => s.modReel c.reel g

def State.setCmd (s : State) (c : Cmd) : State := s.modQueueOf c (listMod (fun d => d.id == c.id) fun _ => c)
def State.dropCmd (s : State) (c : Cmd) : State := s.modQueueOf c (List.filter fun d => d.id != c.id)

def State.cmd? (s : State) (id : Nat) : Option Cmd := s.cmds.find? (·.id == id)
def State.modCmd (s : State) (id : Nat) (f : Cmd → Cmd) : State :=
  match s.cmd? id with
  | some c => s.setCmd (f c)
  | none => s

def Cmd.bits (c : Cmd) (lo n : Nat) : Nat := bitsOf c.cmd lo n

/-! ## Records and status words (R293, R313, R384) -/

/-- Commands of the engine that are queued behind one: at most 16 are told of, of a configuration unit, which has no queue, too
(log entry 106). -/
def State.behind (s : State) (c : Cmd) : Nat :=
  min 16 (s.cmds.filter fun d => d.eng == c.eng && d.part == c.part && (c.eng == .config || d.reel == c.reel) &&
    c.id < d.id && !d.started).length

/-- The .state word of ESTAT. -/
def State.estatState (s : State) (c : Cmd) : Word :=
  word (s.behind c <<< 40 + engCode c.eng <<< 45 + c.opc.toNat <<< 48 + c.tok <<< 56 +
    bit (c.started && c.held.isNone) <<< 62 + bit c.held.isSome <<< 63)

/-- An engine's fault record. -/
def State.cmdRecord (s : State) (c : Cmd) (t : Trap) (only : Bool) : State :=
  let (bx, by_) := s.blockOf c.reel
  s.record c.ctx
    { w0 := recordHead t.cls t.sub (engCode c.eng) t.wrote t.fetch (c.mode == .user) bx by_, handle := word c.handle, pc := 0
      addr := t.addr, word := s.estatState c, info := t.info, tick := word s.tick, recordOnly := only }

/-- The command is held with its record (R295). -/
def State.holdCmd (s : State) (c : Cmd) (t : Trap) : State :=
  let c := { c with held := some t.addr, walk := none }
  (s.setCmd c).cmdRecord c t false

/-! ## The end of a command (R292, R293) -/

/-- Writes to a register of the issuing strand. -/
def State.cmdStrand (s : State) (c : Cmd) (f : Slot → Slot) : State := s.withStrand c.reel c.slot c.handle f

/-- A vector register of the strand holds an undefined value (R47, log entry 2). -/
def State.freeVec (s : State) (c : Cmd) (n : Nat) : State :=
  let (v, s) := s.drawVector
  s.cmdStrand c fun t => t.arriveV (s.reel c.reel).cycle n { val := v, psn := 0 }

def State.freeScalar (s : State) (c : Cmd) (n : Nat) : State :=
  let (w, s) := s.drawWord
  s.cmdStrand c fun t => t.setS n (SReg.clean w)

/-- Destinations that a command leaves unwritten hold undefined values (R47). -/
def State.freeDests (s : State) (c : Cmd) (code : Nat) : State :=
  match c.opc.toNat with
  | 0xA1 =>
    if c.bits 0 3 == 4 then
      ((upto (c.bits 6 3 + 1)).filter fun n => c.prog ≤ n).foldl (fun s n => s.freeVec c (c.sd + n)) s
    else s
  | 0xA9 =>
    if code == 0 then s
    else
      let s := if c.bits 0 2 == 0 then (upto (c.bits 2 3 + 1)).foldl (fun s n => s.freeVec c (c.sd + n)) s else s
      if c.stage == 0 then s.freeScalar c c.sc else s
  | 0xAA => if code != 0 && c.cmd == 0 then s.freeScalar c c.sd else s
  | 0xAE => if code != 0 then s.freeScalar c c.sd else s
  | _ => s

/-- The token is written and the command leaves its queue. -/
def State.finishCmd (s : State) (c : Cmd) (code : Nat) : State :=
  ((s.freeDests c code).dropCmd c).writeToken c.reel c.slot c.handle c.tok c.id (if code == 0 then 0 else statusWord code c.prog)

/-- The token of a command that has ended is written once its writes are performed everywhere (R150). -/
def State.settleCmd (s : State) (c : Cmd) : State :=
  match c.ending with
  | some code => if c.lines.all fun l => (s.dir l).pending == 0 then s.finishCmd c code else s
  | none => s

/-- A command ends. -/
def State.endCmd (s : State) (id code : Nat) : State :=
  match s.cmd? id with
  | none => s
  | some c =>
    if c.ending.isSome then s.settleCmd c
    else
      let c := { c with ending := some code, held := none, walk := none, out := [] }
      let s := if code == 2 then s.modField (fieldOfReel c.reel) fun f => { f with deadlss := f.deadlss + 1 } else s
      { s.setCmd c with walks := s.walks.filter fun w => w.who != Requester.cmd id
                        peerOut := s.peerOut.filter fun o => o.cmd != id }.settleCmd c

/-- Every command of a task ends CANCELLED (R27, R292). -/
def State.killCmds (s : State) (task : Nat) : State :=
  (s.cmds.filter fun c => c.task == some task).foldl (fun s c => s.endCmd c.id 1) s

/-! ## Issue (R289, R290) -/

/-- Where a command enters. -/
def State.pushCmd (s : State) (c : Cmd) : State :=
  if c.eng == .config then s.modPart c.part fun p => { p with cfgQ := p.cfgQ ++ [c] }
  else s.modReel c.reel fun x => x.setQueue (x.queue c.eng ++ [c]) c.eng

/-- The command of the strand that issues. -/
def State.newCmd (a : State) (id opc : Nat) (f : EF) (eng : Eng) (part : Nat) : Cmd :=
  let t := a.me
  { id := id, opc := BitVec.ofNat 8 opc, eng := eng, reel := a.cur.reel, slot := a.cur.slot, handle := t.handle, ctx := t.ctx
    task := t.task, part := part, mode := t.mode, tok := f.tok.toNat, a := (a.rs f.sa).val, b := (a.rs f.sb).val
    c := (a.rs f.sc).val, d := (a.rs f.sd).val, sc := f.sc.toNat, sd := f.sd.toNat, cmd := f.cmd, ty := f.ty
    started := false, prog := 0, i0 := 0, i1 := 0, i2 := 0, i3 := 0, b0 := none, b1 := none, b2 := none, b3 := none
    open_ := [], openPsn := none, stage := 0, held := none, walk := none, sent := none, out := [], ending := none
    after := (a.mine.filter fun q => q.stage == Stage.sent).map (·.id) ++ t.fences, lines := [] }

/-- The command enters; its token and its destinations wait for it (R45 to R47, R289). One for a configuration unit reaches it
in the step of its issue, so that commands of several strands are performed in the order of their issue, one of those that R190
allows (DESIGN CHOICE, log entry 104). -/
def State.submit (a b : State) (opc : Nat) (f : EF) (eng : Eng) (part : Nat) (dests : List Reg) (g : Cmd → Cmd) : State :=
  let (id, b) := b.fresh
  let b := b.pushCmd (g (a.newCmd id opc f eng part))
  let b := (b.setTok f.tok id).modMe fun t => { t with owed := t.owed + 1 }
  dests.foldl (fun b r =>
    let b := b.setPend r id
    match r with
    | .v n => b.modMe fun t => t.revive n
    | _ => b) b

/-- Issue of a format-E instruction of a reel's engine: POISON of the operands it reads, in order; MISALIGN; then it
enters. -/
def engineOp (i : Instr) (opc : Nat) (f : EF) (eng : Eng) (srcs : List (BitVec 6)) (dests : List Reg)
    (bad : State → Option (Word × Bool)) (s : State) : Host.Outcome State Fault Refusal :=
  issue i s fun a b =>
    Eff.consume (srcs.map fun r => (a.rs r).code) <|
      match bad a with
      | some (va, w) => misalignTrap va w
      | none => .done (a.submit b opc f eng (a.me).part dests id)

/-- An operand must be a multiple of `n`. -/
def mustAlign (n : Nat) (wrote : Bool) (r : BitVec 6) (s : State) : Option (Word × Bool) :=
  if (s.rs r).val.toNat % n != 0 then some ((s.rs r).val, wrote) else none

def execSfeed (f : EF) (s : State) : Host.Outcome State Fault Refusal :=
  let steer := f.bits 10 1 == 1
  engineOp (.sfeed f) 0xA0 f .feed [f.sa, f.sb, f.sc, f.sd] []
    (fun s => if steer then (mustAlign 4 false f.sa s).or (mustAlign 4 false f.sd s) else mustAlign 16 false f.sa s) s

def execSdrain (f : EF) (s : State) : Host.Outcome State Fault Refusal :=
  let (srcs, dests) := match f.bits 0 3 with
    | 2 => ([f.sa, f.sb, f.sc, f.sd], [])
    | 4 => ([f.sb], (upto (f.bits 6 3 + 1)).map fun n => Reg.v (f.sd.toNat + n))
    | _ => ([f.sa, f.sb, f.sc], [])
  engineOp (.sdrain f) 0xA1 f .drain srcs dests (fun _ => none) s

/-- SBND: the bound enters the queue now; its token follows in the next cycle (R301). -/
def execSbnd (f : EF) (s : State) : Host.Outcome State Fault Refusal :=
  issue (.sbnd f) s fun a b =>
    let x := a.rs f.sa
    Eff.consume [x.code] <|
      .done ((a.submit b 0xA2 f .walk (a.me).part [] id).modReel a.cur.reel fun r =>
        { r with boundQ := r.boundQ ++ [x.val.extractLsb' 0 32] })

def execPmark (f : EF) (s : State) : Host.Outcome State Fault Refusal :=
  engineOp (.pmark f) 0xA3 f .feed [] [] (fun _ => none) s

def execCopy (f : EF) (s : State) : Host.Outcome State Fault Refusal :=
  engineOp (.copy f) 0xA4 f .copy [f.sa, f.sb, f.sc] [] (fun _ => none) s
def execCopy2d (f : EF) (s : State) : Host.Outcome State Fault Refusal :=
  engineOp (.copy2d f) 0xA5 f .copy [f.sa, f.sb, f.sc, f.sd] [] (fun _ => none) s
def execFill (f : EF) (s : State) : Host.Outcome State Fault Refusal :=
  engineOp (.fill f) 0xA6 f .copy [f.sa, f.sb, f.sc] [] (fun _ => none) s
def execGathr (f : EF) (s : State) : Host.Outcome State Fault Refusal :=
  engineOp (.gathr f) 0xA7 f .copy [f.sa, f.sb, f.sc, f.sd] [] (mustAlign (f.ty.bits / 8) false f.sc) s
def execScatr (f : EF) (s : State) : Host.Outcome State Fault Refusal :=
  engineOp (.scatr f) 0xA8 f .copy [f.sa, f.sb, f.sc, f.sd] [] (mustAlign (f.ty.bits / 8) false f.sc) s

def execKvld (f : EF) (s : State) : Host.Outcome State Fault Refusal :=
  let page := mustAlign 65536 false f.sa
  match f.bits 0 2 with
  | 0 => engineOp (.kvld f) 0xA9 f .kv [f.sa, f.sb]
           (.s f.sc.toNat :: (upto (f.bits 2 3 + 1)).map fun n => Reg.v (f.sd.toNat + n)) page s
  | 1 => engineOp (.kvld f) 0xA9 f .kv [f.sa, f.sb, f.sd] [.s f.sc.toNat]
           (fun s => (page s).or (mustAlign 16 true f.sd s)) s
  | _ => engineOp (.kvld f) 0xA9 f .feed [f.sa, f.sb] [.s f.sc.toNat] page s

def execKvappRows (f : EF) (s : State) : Host.Outcome State Fault Refusal :=
  engineOp (.kvappRows f) 0xAA f .copy [f.sa, f.sb, f.sc] [.s f.sd.toNat] (mustAlign 65536 true f.sa) s
def execKvappInit (f : EF) (s : State) : Host.Outcome State Fault Refusal :=
  engineOp (.kvappInit f) 0xAA f .copy [f.sa, f.sb, f.sc] [] (mustAlign 65536 true f.sa) s
def execKvseal (f : EF) (s : State) : Host.Outcome State Fault Refusal :=
  engineOp (.kvseal f) 0xAB f .copy [f.sa] [] (mustAlign 65536 true f.sa) s

/-! ## Issue of RETRY, ECANCEL and ESTAT (R309, R310) -/

/-- The partition of the caller that a descriptor's block lies in. -/
def State.blockPart? (s : State) (d : Word) : Option Partition :=
  match s.myPart? with
  | some p => if bitsOf d 0 16 < 11 * p.w && bitsOf d 16 16 < 11 * p.h then some p else none
  | none => none

/-- The target of the own form is the command whose token the named register awaits now. -/
def controlOp (i : Instr) (opc : Nat) (f : EF) (dests : List Reg) (s : State) : Host.Outcome State Fault Refusal :=
  issue i s fun a b =>
    let t := f.bits 0 6
    if t != 0 then
      .done (a.submit b opc f .walk (a.me).part dests fun c => { c with i0 := (a.me).toks.get 0 t })
    else
      let x := a.rs f.sa
      Eff.consume [x.code] <|
        match a.blockPart? x.val with
        | none => privTrap
        | some p => .done (a.submit b opc f .walk p.handle dests id)

def execRetry (f : EF) (s : State) : Host.Outcome State Fault Refusal := controlOp (.retry f) 0xAC f [] s
def execEcancel (f : EF) (s : State) : Host.Outcome State Fault Refusal := controlOp (.ecancel f) 0xAD f [] s
def execEstat (f : EF) (s : State) : Host.Outcome State Fault Refusal := controlOp (.estat f) 0xAE f [.s f.sd.toNat] s

end Sys2Proof.Machine
end

