-- ==== Sys2Proof/Machine/Ports.lean ====
section
/-! DEFINITION. The ports of an engine: memory with translation and holds (R295, R150, R158), the local store (R57, R59),
peers (R378), and progress of a command. -/

namespace Sys2Proof.Machine

/-- How an access at a port ends: done, with the bytes read; waiting; or the command is to end with a code. -/
inductive Io where
  | ok (s : State) (l : List PByte)
  | wait (s : State)
  | stop (s : State) (code : Nat)
  deriving DecidableEq, Repr

/-! ## Memory -/

/-- Translates every part for a command (R401). -/
def State.cmdParts (s : State) (c : Cmd) (acc : Access) : List (Word × Nat) → XlAll
  | [] => .ok []
  | (va, n) :: rest =>
    match s.translate c.reel c.ctx va acc c.mode with
    | .fault t => .fault t
    | .miss => .miss va
    | .ok pa e => match s.cmdParts c acc rest with
      | .ok l => .ok ((pa, n, e) :: l)
      | x => x

/-- Goes on with the translated parts; a miss starts a walk, a failure holds the command (R295, R403). -/
def State.cmdXlate (s : State) (c : Cmd) (acc : Access) (va : Word) (n : Nat) (k : List (Nat × Nat × Word) → Io) : Io :=
  match s.cmdParts c acc (pageParts va n) with
  | .ok l => k l
  | .fault t => .wait (s.holdCmd c t)
  | .miss va =>
    let (id, s) := s.startWalk (.cmd c.id) c.reel c.ctx va acc c.mode
    .wait (s.setCmd { c with walk := some id })

/-- An access of an engine to the part must wait (R150). -/
def State.partWaits (s : State) (c : Cmd) (read : Bool) (x : Nat × Nat × Word) : Bool :=
  s.pieceWaits c.reel read x || s.backFlying c.reel x.1 x.2.1

/-- Conversions count the command's access where they hold it (R463). -/
def State.heldAt (s : State) (c : Cmd) (l : List (Nat × Nat × Word)) : State :=
  s.noteHolds c.id ((l.filter fun x => pteKv x.2.2).map (·.1 / 65536))

def State.memRead (s : State) (c : Cmd) (va : Word) (n : Nat) : Io :=
  s.cmdXlate c .read va n fun l =>
    if l.any (s.partWaits c true) then .wait (s.heldAt c l)
    else .ok s (l.flatMap fun x => (upto x.2.1).map fun i => s.engineByte c.reel (x.1 + i))

/-- Bytes of the parts, cut from a list. -/
def cutParts : List (Nat × Nat × Word) → List PByte → List (Nat × Word × List PByte)
  | [], _ => []
  | x :: rest, l => (x.1, x.2.2, l.take x.2.1) :: cutParts rest (l.drop x.2.1)

/-- A write: KVFORMAT where the page refuses it, POISON where poisoned data would reach host memory (R158, R294). -/
def State.memWrite (s : State) (c : Cmd) (va : Word) (l : List PByte) : Io :=
  s.cmdXlate c .write va l.length fun parts =>
    if parts.any (s.partWaits c false) then .wait (s.heldAt c parts)
    else
      let ps := cutParts parts l
      if ps.any fun x => pteKv x.2.1 && s.kvJudge (x.1 / 65536) false == .refuse then .stop s 3
      else match ps.find? fun x => hostBase ≤ x.1 && (firstCode x.2.2).isSome with
        | some x =>
          let t : Trap := { cls := clsPoison, sub := 4, wrote := true, addr := va
                            info := ((firstCode x.2.2).getD 0).zeroExtend 64 }
          .stop (s.cmdRecord c t true) 6
        | none =>
          let s := ps.foldl (fun s x => s.engineWrite c.reel x.1 x.2.2) s
          let plain := (ps.filter fun x => !pteKv x.2.1).flatMap fun x => linesOf x.1 x.2.2.length
          let s := plain.foldl (State.homeTouch · true) s
          let lines := (ps.filter fun x => x.1 < dramTop || hostBase ≤ x.1).flatMap fun x => linesOf x.1 x.2.2.length
          .ok (s.setCmd { c with lines := (lines ++ c.lines).eraseDups }) []

/-! ## Local store -/

/-- Goes on once the banks of a range are FULL; their wakes start (R55). -/
def State.lsAwake (s : State) (c : Cmd) (off n : Nat) (k : Unit → Io) : Io :=
  let x := s.reel c.reel
  if (lsBanksOf off n).any fun b => (x.lsBank b).supply != .full then .wait (s.wakeStore c.reel (.cmd c.id) off n)
  else k ()

def State.lsPortRead (s : State) (c : Cmd) (off n : Nat) : Io :=
  let x := s.reel c.reel
  if lsSize < off + n then .stop s 7
  else if !x.lsReadable off n then .stop s 2
  else s.lsAwake c off n fun _ =>
    .ok (s.modReel c.reel fun x => x.lsTouch off n)
      ((upto n).map fun i => (x.ls.get 0 (off + i), x.lsCode ((off + i) / 4)))

def State.lsPortWrite (s : State) (c : Cmd) (off : Nat) (l : List PByte) : Io :=
  if lsSize < off + l.length then .stop s 7
  else s.lsAwake c off l.length fun _ =>
    .ok (s.modReel c.reel fun x => x.lsWrite off (plainBytes l) (codeAt off l)) []

/-! ## By kind: 0 virtual memory, 1 local store (R303) -/

def State.portRead (s : State) (c : Cmd) (kind : Nat) (a : Word) (n : Nat) : Io :=
  if kind == 1 then s.lsPortRead c a.toNat n else s.memRead c a n

def State.portWrite (s : State) (c : Cmd) (kind : Nat) (a : Word) (l : List PByte) : Io :=
  if kind == 1 then s.lsPortWrite c a.toNat l else s.memWrite c a l

/-- Follows an access: the command goes on, waits, or ends. -/
def Io.andThen (x : Io) (id : Nat) (k : State → List PByte → State × Bool) : State × Bool :=
  match x with
  | .ok s l => k s l
  | .wait s => (s, false)
  | .stop s code => (s.endCmd id code, false)

/-! ## Lines at a reel's ports (R178, R298) -/

def State.feedLine? (s : State) (c : Cmd) : Option Line :=
  (s.partOfReel? c.reel).bind fun p => s.lineFrom? p.handle (feedPort (p.bx c.reel) (p.by_ c.reel))

def State.drainLine? (s : State) (c : Cmd) : Option Line :=
  (s.partOfReel? c.reel).bind fun p => s.lineTo? p.handle (drainPort (p.bx c.reel) (p.by_ c.reel))

end Sys2Proof.Machine
end

