-- ==== Sys2Proof/Machine/Streams.lean ====
section
/-! DEFINITION. Feeding and draining lines: SFEED with its loop generator (R189, R298), the steered form (R299), PMARK
(R302), SDRAIN (R300, R343). Each unit answers whether the command may go on at once. -/

namespace Sys2Proof.Machine

/-! ## The loop generator (R189) -/

def Cmd.bound (c : Cmd) (l : Nat) : Option Nat :=
  match l with
  | 0 => c.b0
  | 1 => c.b1
  | 2 => c.b2
  | _ => c.b3

def Cmd.setBound (c : Cmd) (l : Nat) (b : Option Nat) : Cmd :=
  match l with
  | 0 => { c with b0 := b, i0 := 0 }
  | 1 => { c with b1 := b, i1 := 0 }
  | 2 => { c with b2 := b, i2 := 0 }
  | _ => { c with b3 := b, i3 := 0 }

/-- One more iteration of a level, and whether its pass is complete. -/
def Cmd.advance (c : Cmd) (l : Nat) : Cmd × Bool :=
  match l with
  | 0 => ({ c with i0 := c.i0 + 1 }, c.b0 == some (c.i0 + 1))
  | 1 => ({ c with i1 := c.i1 + 1 }, c.b1 == some (c.i1 + 1))
  | 2 => ({ c with i2 := c.i2 + 1 }, c.b2 == some (c.i2 + 1))
  | _ => ({ c with i3 := c.i3 + 1 }, c.b3 == some (c.i3 + 1))

/-- Level `l` has completed its pass, and with it every outer level that completes at the same point; one mark of the
highest of them is to be sent. `n` outer levels are left. -/
def Cmd.complete (c : Cmd) : Nat → Nat → Cmd
  | l, 0 => { c.setBound l none with stage := l + 1 }
  | l, n + 1 =>
    let c := c.setBound l none
    let (c', done) := c.advance (l + 1)
    if done then c'.complete (l + 1) n else { c' with stage := l + 1 }

/-- The bound of a level from its register operand (R296). -/
def Cmd.regBound (c : Cmd) (l : Nat) : Nat := bitsOf (if l < 2 then c.b else c.c) (32 * (l % 2)) 32

/-- Address of the token at the loop counters (R298). -/
def Cmd.feedAddr (c : Cmd) : Word :=
  let st (l : Nat) : Int := signed 16 (bitsOf c.d (16 * l) 16)
  c.a + wordOfInt (16 * (c.i0 * st 0 + c.i1 * st 1 + c.i2 * st 2 + c.i3 * st 3))

/-- The command's line has no room, or is stopped for good. -/
def State.feedBlocked (s : State) (c : Cmd) (l : Line) (k : Unit → State × Bool) : State × Bool :=
  if l.stopped then (s.endCmd c.id 12, false) else if !l.space then (s, false) else k ()

/-- The highest level that is to begin a pass. -/
def Cmd.toBegin (c : Cmd) : Option Nat := [3, 2, 1, 0].find? fun l => (c.bound l).isNone

/-- A level begins its pass with its bound; a bound of 0 completes it at once (R189). -/
def Cmd.begin (c : Cmd) (l b : Nat) : Cmd :=
  let c := c.setBound l (some b)
  if b == 0 then c.complete l (3 - l) else c

/-- One unit of an unsteered SFEED: a mark, the start of a pass, or a token. -/
def State.feedUnit (s : State) (c : Cmd) (l : Line) : State × Bool :=
  let tag := c.bits 7 3
  if !s.tagOk l tag then (s.endCmd c.id 10, false)
  else if c.stage != 0 then
    s.feedBlocked c l fun _ =>
      let s := s.feedMark l (c.stage - 1) tag
      if c.stage == 4 then (s.endCmd c.id 0, false) else (s.setCmd { c with stage := 0 }, true)
  else match c.toBegin with
    | some v =>
      if (c.bits 0 4).testBit v then
        match (s.reel c.reel).boundQ with
        | [] => (s, false)
        | b :: rest => ((s.modReel c.reel fun x => { x with boundQ := rest }).setCmd (c.begin v b.toNat), true)
      else (s.setCmd (c.begin v (c.regBound v)), true)
    | none =>
      s.feedBlocked c l fun _ =>
        (s.portRead c (c.bits 4 2) c.feedAddr (s.tokenBytes l tag (c.bits 6 1 == 1))).andThen c.id fun s d =>
          let s := s.pushLine l.id (dataFlit l.round tag (plainBytes d) (firstCode d) (BitVec.allOnes 32))
          (s.modCmd c.id fun c =>
            let (c', done) := { c with prog := c.prog + 1 }.advance 0
            if done then c'.complete 0 3 else c', true)

/-! ## The steered form (R299) -/

/-- Sends the open token: its words, the rest 0 with guard 0. -/
def State.sendOpen (s : State) (c : Cmd) (l : Line) : State :=
  let k := c.open_.length
  let d := bytes32 ((c.open_.map (·.toNat)) ++ List.replicate (32 - k) 0)
  let s := s.pushLine l.id (dataFlit l.round (c.bits 7 3) d c.openPsn (BitVec.ofNat 32 (2 ^ k - 1)))
  s.modCmd c.id fun c => { c with open_ := [], openPsn := none, i1 := 0 }

/-- The first poisoned word of the open token in address order: its address, kept in `i1`, and its code. -/
def Cmd.notePoison (c : Cmd) (a : Word) (l : List PByte) : Cmd :=
  match firstCode l with
  | some k => if c.openPsn.isNone || a.toNat < c.i1 then { c with openPsn := some k, i1 := a.toNat } else c
  | none => c

/-- One unit of a steered SFEED: the token that is full, an element, or the mark. -/
def State.steerUnit (s : State) (c : Cmd) (l : Line) : State × Bool :=
  let tag := c.bits 7 3
  let last := c.prog == bitsOf c.b 0 32
  if !s.tagOk l tag then (s.endCmd c.id 10, false)
  else if c.open_.length == 32 || (last && !c.open_.isEmpty) then s.feedBlocked c l fun _ => (s.sendOpen c l, true)
  else if last then s.feedBlocked c l fun _ => ((s.feedMark l 0 tag).endCmd c.id 0, false)
  else
    let off := word (4 * c.prog)
    let ty := if c.ty == .none then .n32 else c.ty
    (s.portRead c (c.bits 4 2) (c.d + off) 4).andThen c.id fun s sel =>
      (s.portRead c (c.bits 4 2) (c.a + off) 4).andThen c.id fun s el =>
        let pass := (firstCode sel).isSome ||
          vcond ty (c.bits 0 3) (natOfBytes (plainBytes sel)) (bitsOf c.c 0 32)
        (s.modCmd c.id fun c =>
          let c := { c with prog := c.prog + 1 }
          if pass then
            let c := (c.notePoison (c.d + off) sel).notePoison (c.a + off) el
            { c with open_ := c.open_ ++ [BitVec.ofNat 32 (natOfBytes (plainBytes el))] }
          else c, true)

/-- PMARK (R302). Its mark carries tag 0 (log entry 84). -/
def State.pmarkUnit (s : State) (c : Cmd) (l : Line) : State × Bool :=
  s.feedBlocked c l fun _ => ((s.feedMark l c.cmd.toNat 0).endCmd c.id 0, false)

/-! ## Draining (R300, R343) -/

/-- The 64 lanes that a token writes: a token of 128 bytes fills lanes 0 to 31, its lanes without guard and the rest
zero, those of a null token among them (R343, log entry 33). -/
def Flit.lanes (f : Flit) : VReg :=
  let p := f.payload
  let ws := words32 p
  let small := p.length ≤ 128
  (upto 64).foldl (fun (v : VReg) j =>
    if small && (32 ≤ j || !f.grd.getLsbD j) then v
    else match f.psn with
      | some k => v.setGranule j k true
      | none => v.setGranule j (BitVec.ofNat 32 (ws.getD j 0)) false) VReg.zero

/-- A row with a token added lane by lane (R61). -/
def addRow (ty : Ty) (row x : VReg) : VReg :=
  (upto 64).foldl (fun (v : VReg) j =>
    match (row.code j).or (x.code j) with
    | some k => v.setGranule j k true
    | none =>
      let a := laneOf row.val 32 j
      let b := laneOf x.val 32 j
      let r := if ty == .f32 then faddCode fmtF32 .rne false 0 a b else (a + b) % 2 ^ 32
      v.setGranule j (BitVec.ofNat 32 r) false) VReg.zero

/-- Limits of the ring of DEST 2. -/
def Cmd.ringBad (c : Cmd) : Bool :=
  let a := c.a.toNat
  let n := c.c.toNat
  let p := c.d.toNat
  a % 256 != 0 || n % 256 != 0 || n == 0 || lsSize < a + n || p % 8 != 0 || lsSize < p + 8 || (p < a + n && a < p + 8)

/-- Vector banks of the strand that a write needs are FULL; their wakes start, and count in BKWR, BKWO and BKWC, where a load's
arrival does not (R54, R55; DESIGN CHOICE, log entry 86). -/
def State.vecAwake (s : State) (c : Cmd) (ns : List Nat) (k : Unit → State × Bool) : State × Bool :=
  match s.slotOf? c.reel c.slot c.handle with
  | none => k ()
  | some r =>
    let bs := (ns.map (· / 4)).eraseDups
    let t := s.slot r
    if bs.any fun b => (t.bank b).supply != .full then
      (s.wakeVec r (.cmd c.id) (bs.filter fun b => (t.bank b).supply != .full), false)
    else k ()

def State.putVec (s : State) (c : Cmd) (n : Nat) (v : VReg) : State :=
  s.cmdStrand c fun t => t.arriveV (s.reel c.reel).cycle n v

/-- A data token has been taken: it leaves the line, counts, and may end the command. -/
def State.tookToken (s : State) (c : Cmd) (l : Line) : State × Bool :=
  let s := s.modLine l.id fun l => { l with arrived := l.arrived.drop 1 }
  let s := s.modCmd c.id fun c => { c with prog := c.prog + 1 }
  let n := c.prog + 1
  if (c.b != 0 && n == c.b.toNat) || (c.bits 0 3 == 4 && n == c.bits 6 3 + 1) then (s.endCmd c.id 0, false) else (s, true)

/-- One unit of SDRAIN: the flit at the head of the line. -/
def State.drainUnit (s : State) (c : Cmd) (l : Line) : State × Bool :=
  match l.arrived with
  | [] => if l.stopped then (s.endCmd c.id 12, false) else (s, false)
  | f :: _ =>
    if f.mark then
      let s := s.modLine l.id fun l => { l with arrived := l.arrived.drop 1 }
      if c.bits 3 1 == 1 && c.bits 4 2 ≤ f.lvl then (s.endCmd c.id 0, false) else (s, true)
    else
      let v := f.lanes
      let bytes : List PByte := (upto 256).map fun i => (byteOf v.val i, v.code (i / 4))
      let row := (bitsOf c.a 0 8 + c.prog % (max c.c.toNat 1)) % 256
      match c.bits 0 3 with
      | 0 => (s.modReel c.reel fun x => x.setRow row (addRow c.ty (x.row row) v)).tookToken c l
      | 1 => (s.modReel c.reel fun x => x.setRow row v).tookToken c l
      | 2 =>
        let off := c.a.toNat + 256 * c.prog % (max c.c.toNat 1)
        (s.lsAwake c c.d.toNat 8 fun _ => s.lsPortWrite c off bytes).andThen c.id fun s _ =>
          (s.modReel c.reel fun x => x.lsWrite c.d.toNat (bytesOf (word (c.prog + 1)) 8) fun _ => none).tookToken c l
      | 3 =>
        (s.memWrite c (c.a + word c.prog * c.c) bytes).andThen c.id fun s _ => s.tookToken c l
      | _ => s.vecAwake c [c.sd + c.prog] fun _ => (s.putVec c (c.sd + c.prog) v).tookToken c l

end Sys2Proof.Machine
end

