-- ==== Sys2Proof/Machine/Moves.lean ====
section
/-! DEFINITION. Bulk movement (R303, R304, R378, R379), the KV commands (R305 to R308), what RETRY, ECANCEL and ESTAT name
(R309, R313), and the units of the engines. -/

namespace Sys2Proof.Machine

/-! ## Movement commands -/

def Cmd.dk (c : Cmd) : Nat :=
  match c.opc.toNat with
  | 0xA7 => c.bits 4 2
  | 0xA8 => 0
  | _ => c.bits 0 2

def Cmd.sk (c : Cmd) : Nat :=
  match c.opc.toNat with
  | 0xA7 => 0
  | 0xA8 => c.bits 4 2
  | _ => c.bits 2 2

def Cmd.red (c : Cmd) : Nat := if c.opc == 0xA4 then c.bits 4 2 else 0

/-- E of GATHR and SCATR. -/
def Cmd.elem (c : Cmd) : Nat := 2 ^ c.bits 0 4
def Cmd.isIndexed (c : Cmd) : Bool := c.opc == 0xA7 || c.opc == 0xA8

def Cmd.rowBytes (c : Cmd) : Nat := bitsOf c.c 0 32
def Cmd.rowCount (c : Cmd) : Nat := bitsOf c.c 32 32

/-- Units of a command: bytes, or elements (R304). -/
def Cmd.total (c : Cmd) : Nat :=
  match c.opc.toNat with
  | 0xA5 => c.rowBytes * c.rowCount
  | 0xA7 | 0xA8 => bitsOf c.d 0 48
  | _ => c.c.toNat

def Cmd.totalBytes (c : Cmd) : Nat := if c.isIndexed then c.total * c.elem else c.total

/-- A local-store range of the command reaches beyond the store: `rows` ranges of `n` bytes, `pitch` apart. -/
def lsOutside (base : Word) (n rows : Nat) (pitch : Int) : Bool :=
  let last : Int := base.toNat + (rows - 1 : Nat) * pitch
  lsSize < base.toNat + n || last < 0 || (lsSize : Int) < last + n

def Cmd.dstPitch (c : Cmd) : Int := signed 32 (bitsOf c.d 0 32)
def Cmd.srcPitch (c : Cmd) : Int := signed 32 (bitsOf c.d 32 32)

/-- Local-store ranges out of the store (R304). -/
def Cmd.lsBad (c : Cmd) : Bool :=
  if c.opc == 0xA5 then
    (c.dk == 1 && lsOutside c.a c.rowBytes c.rowCount c.dstPitch) ||
    (c.sk == 1 && lsOutside c.b c.rowBytes c.rowCount c.srcPitch)
  else
    (c.dk == 1 && lsOutside c.a c.totalBytes 1 0) || (c.opc != 0xA6 && c.sk == 1 && lsOutside c.b c.totalBytes 1 0)

/-- What a movement command ends with before it moves anything. -/
def State.moveStart (s : State) (c : Cmd) : Option Nat :=
  if c.total == 0 then some 0
  else if 2 ^ 48 ≤ c.totalBytes || c.lsBad then some 7
  else if c.dk == 2 && (s.peerId == 0xFFFF || (c.red != 0 && (c.total % 4 != 0 || bitsOf c.a 0 40 % 4 != 0))) then some 7
  else none

/-- Units done: those sent, for a peer that acknowledges later. -/
def Cmd.pos (c : Cmd) : Nat := if c.dk == 2 then c.i0 else c.prog

/-- Units have moved; the last one ends the command. -/
def State.moved (s : State) (c : Cmd) (n : Nat) : State :=
  let s := s.modCmd c.id fun c => { c with prog := c.prog + n }
  if c.prog + n == c.total then s.endCmd c.id 0 else s

/-- Peer ports that are up. -/
def State.peersOn (s : State) : List Nat := (upto 16).filter fun p => (s.peerPort p).up

/-- Bytes for a peer leave while a port is up, which one is a free choice (log entry 2), under a tag of their own; the command
ends when they are acknowledged (R378, R380). The offset does not reach into the window's number; one beyond 40 bits lies
beyond every window. -/
def State.peerSend (s : State) (c : Cmd) (a : Word) (l : List PByte) (n : Nat) : State :=
  let off : Int := bitsOf c.a 0 40 + signed 64 (a - c.a).toNat
  if off < 0 || (2 ^ 40 : Int) < off + l.length then s.endCmd c.id 7
  else if s.peersOn.isEmpty then s
  else
    let (k, s) := s.drawChoice s.peersOn.length
    let (id, s) := s.fresh
    let o : PeerOut :=
      { cmd := c.id, tag := id % 65536, port := s.peersOn.getD k 0, dest := bitsOf c.a 48 16, window := bitsOf c.a 40 8
        offset := off.toNat, bytes := l, units := n, red := c.red }
    { s with sent := s.sent ++ [Sent.peer o], peerOut := s.peerOut ++ [o] }.modCmd c.id fun c =>
      { c with i0 := c.i0 + n, sent := c.sent.or (some s.tick) }

/-- What was sent over a port that is down goes again, with its tag, over one that is up; with none up it waits (R380, R400). -/
def State.peerResend (s : State) : State :=
  s.peerOut.foldl (fun (s : State) o =>
    if (s.peerPort o.port).up || s.peersOn.isEmpty then s
    else
      let (k, s) := s.drawChoice s.peersOn.length
      let o' := { o with port := s.peersOn.getD k 0 }
      { s with sent := s.sent ++ [Sent.peer o'], peerOut := s.peerOut.map fun x => if x == o then o' else x }.modPeerPort o.port
        fun h => { h with resent := h.resent + 1 }) s

/-- Bytes before the first poisoned one. -/
def cleanPrefix (l : List PByte) : Nat := (l.takeWhile fun b => b.2.isNone).length

/-- Puts bytes at the destination; poisoned ones for host memory end the command behind the clean ones (R294). -/
def State.putMoved (s : State) (c : Cmd) (a : Word) (l : List PByte) (n : Nat) : State :=
  if c.dk == 2 then s.peerSend c a l n
  else match s.portWrite c c.dk a l with
    | .ok s _ => s.moved c n
    | .wait s => s
    | .stop s' code =>
      let k := cleanPrefix l
      if code == 6 && 0 < k && !c.isIndexed then
        match s.portWrite c c.dk a (l.take k) with
        | .ok s _ => s.moved c k
        | .wait s => s
        | .stop s code => s.endCmd c.id code
      else s'.endCmd c.id code

/-- Bytes to the next boundary of a port: a page, or a slab. -/
def portRoom (kind : Nat) (a : Word) : Nat := if kind == 1 then 1024 - a.toNat % 1024 else 65536 - a.toNat % 65536

/-- At most `left` bytes from `d`, at least `n` of them, so that no granule of the destination is cut in two (R395). -/
def wholeGranules (d : Word) (n left : Nat) : Nat := min left (n + (3 - (d.toNat + n + 3) % 4))

/-- Moves about `n` bytes, at most `left`, from one place to another: whole granules of the destination where their bytes can
be read, else those before the source's next slab or page (R59). -/
def State.moveBytes (s : State) (c : Cmd) (d src : Word) (n left : Nat) : State :=
  let left := min left (portRoom c.dk d)
  let n := min left (min n (portRoom c.sk src))
  let wide := wholeGranules d n left
  match s.portRead c c.sk src wide with
  | .ok s l => s.putMoved c d l wide
  | _ => match s.portRead c c.sk src n with
    | .ok s l => s.putMoved c d l n
    | .wait s => s
    | .stop s code => s.endCmd c.id code

/-- An index entry (R304). -/
def Cmd.idxBytes (c : Cmd) : Nat := c.ty.bits / 8
def Cmd.index (c : Cmd) (l : List PByte) : Int := intVal c.ty.bits c.ty.isSigned (natOfBytes (plainBytes l))

/-- One element of GATHR or SCATR. -/
def State.moveElem (s : State) (c : Cmd) : State :=
  let e := c.elem
  let here := word (c.pos * e)
  let ia := c.c + word (c.pos * c.idxBytes)
  match s.portRead c 0 ia c.idxBytes with
  | .wait s => s
  | .stop s code => s.endCmd c.id code
  | .ok s il =>
    let away := wordOfInt (c.index il * e)
    match firstCode il with
    | some k =>
      if c.opc == 0xA7 then s.putMoved c (c.a + here) ((codeBytes k e).map fun b => (b, some k)) 1
      else
        (s.cmdRecord c { cls := clsPoison, sub := 5, wrote := true, addr := ia, info := k.zeroExtend 64 } true).endCmd c.id 6
    | none =>
      let (d, src) := if c.opc == 0xA7 then (c.a + here, c.b + away) else (c.a + away, c.b + here)
      match s.portRead c c.sk src e with
      | .ok s l => s.putMoved c d l 1
      | .wait s => s
      | .stop s code => s.endCmd c.id code

/-- One unit step of a movement command, of about `n` bytes or one element (R304). -/
def State.moveUnit (s : State) (c : Cmd) (n : Nat) : State :=
  let pos := c.pos
  let left := c.total - pos
  if n == 0 || left == 0 then s
  else match c.opc.toNat with
    | 0xA4 => s.moveBytes c (c.a + word pos) (c.b + word pos) n left
    | 0xA5 =>
      let rb := c.rowBytes
      let r := pos / rb
      let o := word (pos % rb)
      s.moveBytes c (c.a + wordOfInt (r * c.dstPitch) + o) (c.b + wordOfInt (r * c.srcPitch) + o) n (rb - pos % rb)
    | 0xA6 =>
      let d := c.a + word pos
      let n := wholeGranules d n (min left (portRoom c.dk d))
      s.putMoved c d ((upto n).map fun i => (byteOf c.b ((d.toNat + i) % 8), none)) n
    | _ => s.moveElem c

/-! ## KV commands -/

/-- A KV command of the same strand on the same page comes first (R305). -/
def State.kvBehind (s : State) (c : Cmd) : Bool :=
  s.cmds.any fun d => d.id < c.id && 0xA9#8 ≤ d.opc && d.opc ≤ 0xAB && d.reel == c.reel && d.slot == c.slot &&
    d.handle == c.handle && d.a == c.a && d.ending.isNone && !(d.opc == 0xA9 && d.stage == 1)

/-- Goes on at the home of the command's page once the page is open to it (R157, R159, R305). -/
def State.atPage (s : State) (c : Cmd) (acc : Access) (k : Nat → State) : State :=
  if s.kvBehind c then s
  else match s.cmdParts c acc [(c.a, 1)] with
    | .fault t => s.holdCmd c t
    | .miss va =>
      let (id, s) := s.startWalk (.cmd c.id) c.reel c.ctx va acc c.mode
      s.setCmd { c with walk := some id }
    | .ok l => match l with
      | [] => s
      | (pa, _, e) :: _ =>
        if !pteKv e then s.endCmd c.id 3
        else if s.kvClosed (pa / 65536) then s.noteHold (pa / 65536) c.id
        else if acc == .write && s.replayFull c.reel (s.homeField pa) then s
        else k pa

/-- A KV command is performed at its home, which keeps a record of it; its writes await their invalidations like any engine
write (R150, R400). -/
def State.kvDone (s : State) (c : Cmd) (pa n code : Nat) : State :=
  let s := s.keepReplay c.reel (s.homeField pa) c.id
  (s.modCmd c.id fun c => { c with lines := linesOf pa n ++ c.lines }).endCmd c.id code

def Cmd.kvBytes (s : State) (c : Cmd) (p m : Nat) : Nat := m * s.kvHdim p * (c.ty.lane / 8)

/-- Sends a token that a KV load has still to send (R308). -/
def State.kvSendOut (s : State) (c : Cmd) : State × Bool :=
  match c.out, s.feedLine? c with
  | [], _ => (s.endCmd c.id 0, false)
  | _, none => (s.endCmd c.id 8, false)
  | f :: rest, some l =>
    s.feedBlocked c l fun _ =>
      let s := (s.pushLine l.id { f with rnd := l.round }).modCmd c.id fun c => { c with out := rest }
      if rest.isEmpty then (s.endCmd c.id 0, false) else (s, true)

/-- Tokens of 128 bytes, the last filled with zeros. -/
def kvFlits (l : Line) (tag : Nat) (bs : List PByte) : List Flit :=
  (chunks 128 bs).map fun ch =>
    dataFlit l.round tag (plainBytes ch ++ List.replicate (128 - ch.length) 0) (firstCode ch) (BitVec.allOnes 32)

/-- A register from up to 256 bytes, zero beyond them. -/
def vregOfBytes (bs : List PByte) : VReg :=
  (upto 64).foldl (fun (v : VReg) g =>
    let l := (bs.drop (4 * g)).take 4
    match firstCode l with
    | some q => v.setGranule g q true
    | none => v.setGranule g (BitVec.ofNat 32 (natOfBytes (plainBytes l))) false) VReg.zero

/-- KVLD at its home (R308). -/
def State.kvldUnit (s : State) (c : Cmd) : State × Bool :=
  if c.stage == 1 then s.kvSendOut c
  else
    let t0 := bitsOf c.b 0 16
    let m := bitsOf c.b 16 16
    let dest := c.bits 0 2
    let tag := c.bits 5 3
    let line := s.feedLine? c
    if dest == 2 && line.isNone then (s.endCmd c.id 8, false)
    else if dest == 2 && line.any fun l => !s.tagOk l tag then (s.endCmd c.id 10, false)
    else
      let go : Nat → State := fun p =>
        let b := c.kvBytes s p m
        let code := if !s.kvHeaderOk p then 3 else if m == 0 || s.kvNtok p < t0 + m then 5
          else if dest == 0 && 256 * (c.bits 2 3 + 1) < b then 7
          else if dest == 1 && lsSize < c.d.toNat + b then 7
          else 0
        let read (s : State) : State :=
          (s.cmdStrand c fun t => t.setS c.sc (s.kvHead p)).modCmd c.id fun c => { c with stage := 1 }
        if code != 0 then (read s).endCmd c.id code
        else
          let rows := s.kvRows p c.ty t0 m (if dest == 2 then 128 else 4)
          match dest with
          | 0 =>
            let ns := (upto (c.bits 2 3 + 1)).map (· + c.sd)
            (s.vecAwake c ns fun _ =>
              let put (s : State) (k : Nat) : State :=
                let bs := (rows.drop (256 * k)).take 256
                s.putVec c (c.sd + k) (vregOfBytes bs)
              (((upto (c.bits 2 3 + 1)).foldl put (read s)).endCmd c.id 0, false)).1
          | 1 => match s.lsPortWrite c c.d.toNat rows with
            | .ok s _ => (read s).endCmd c.id 0
            | .wait s => s
            | .stop s code => (read s).endCmd c.id code
          | _ => match line with
            | some l => (read s).modCmd c.id fun c => { c with out := kvFlits l tag rows }
            | none => s
      let s' := s.atPage c .read go
      (s', (s'.cmd? c.id).any fun d => d.stage == 1 && d.ending.isNone)

/-- KVAPP.rows in its three stages (R306). Source rows that lie beyond the local store, for which the rule names no code, end it
with BAD_ARG as they are read (DESIGN CHOICE, log entry 122). -/
def State.kvappUnit (s : State) (c : Cmd) : State :=
  if c.stage == 0 then s.atPage c .write fun p => s.setCmd { c with stage := 1, i0 := s.kvHdim p }
  else
    let n := c.c.toNat * c.i0 * (c.ty.lane / 8)
    match (if n == 0 then Io.ok s [] else s.lsPortRead c c.b.toNat n) with
    | .wait s => s
    | .stop s code => s.endCmd c.id code
    | .ok s rows => s.atPage c .write fun p =>
      let (code, t0, s) := s.kvAppend (fieldOfReel c.reel) p c.i0 c.c.toNat c.ty rows
      let s := if code == 0 then s.cmdStrand c fun t => t.setS c.sd (SReg.clean (word t0)) else s
      s.kvDone c p (if code == 0 then 65536 else 0) code

def State.kvinitUnit (s : State) (c : Cmd) : State :=
  s.atPage c .write fun p =>
    let (code, s) := s.kvInit (fieldOfReel c.reel) p (bitsOf c.b 0 16) (bitsOf c.b 16 1) c.c
    s.kvDone c p (if code == 0 then 64 else 0) code

def State.kvsealUnit (s : State) (c : Cmd) : State :=
  s.atPage c .write fun p =>
    let ((code, prog), s) := s.kvSeal (fieldOfReel c.reel) p c.ctx (c.cmd == 0)
    (s.modCmd c.id fun c => { c with prog := prog }).kvDone c p (if code == 3 then 0 else 64) code

/-! ## RETRY, ECANCEL, ESTAT (R309 to R313) -/

/-- The command issued first. -/
def oldest : List Cmd → Option Cmd
  | [] => none
  | c :: rest => some (rest.foldl (fun a d => if d.id < a.id then d else a) c)

/-- The held command, else the oldest in progress, else the oldest queued. -/
def pickTarget (q : List Cmd) : Option Cmd :=
  ((oldest (q.filter (·.held.isSome))).or (oldest (q.filter fun c => c.started && c.ending.isNone))).or (oldest q)

/-- The target, or the code of its absence. -/
def State.target (s : State) (c : Cmd) : Nat × Option Cmd :=
  if c.bits 0 6 != 0 then (13, (s.cmd? c.i0).filter fun d => d.eng != .walk)
  else match s.partByHandle? c.part with
    | none => (13, none)
    | some p =>
      let x := s.reel (p.reel (bitsOf c.a 0 16) (bitsOf c.a 16 16))
      match bitsOf c.a 32 4 with
      | 0 => (13, pickTarget x.feedQ)
      | 1 => (13, pickTarget x.kvQ)
      | 2 => (13, pickTarget x.drainQ)
      | 3 => (13, pickTarget x.copyQ)
      | 6 => (13, pickTarget (((s.kites.filter (·.part == p.handle)).flatMap fun k => k.swap.toList) ++ p.cfgQ))
      | _ => (7, none)

/-- A loop counter of a feed: the index of the iteration in progress at a level; a steered feed has one loop, over its
elements (R299, R313). -/
def Cmd.counter (c : Cmd) (l : Nat) : Nat :=
  if c.bits 10 1 == 1 then (if l == 0 then c.prog else 0) else [c.i0, c.i1, c.i2, c.i3].getD l 0 % 2 ^ 32

/-- The word of ESTAT (R313). -/
def State.estatWord (s : State) (c : Cmd) (k : Nat) : Word :=
  match k with
  | 0 => s.estatState c
  | 1 => c.held.getD 0
  | 2 => if c.opc == 0xA0 then word (c.counter 0 + c.counter 1 <<< 32) else 0
  | 3 => if c.opc == 0xA0 then word (c.counter 2 + c.counter 3 <<< 32) else 0
  | _ => word (c.prog % 2 ^ 48)

/-- A KV command that has reached its home ends with its own status (R312). -/
def Cmd.atHome (c : Cmd) : Bool := c.opc == 0xA9 && c.stage == 1

/-- SBND commands of a reel whose tokens are still to be written: in the cycle after the bound entered (R301). -/
def State.boundsOf (s : State) (r : Nat) : List Nat := ((s.reel r).ctlQ.filter fun c => c.opc == 0xA2).map (·.id)
def State.endBounds (s : State) (ids : List Nat) : State := ids.foldl (fun s id => s.endCmd id 0) s

/-! ## Steps of the engines -/

/-- What a command ends with at its start (R291, R300, R302, R304). -/
def State.startCheck (s : State) (c : Cmd) : Option Nat :=
  match c.opc.toNat with
  | 0xA0 | 0xA3 => if (s.feedLine? c).isNone then some 8 else none
  | 0xA1 =>
    let dest := c.bits 0 3
    if dest ≤ 1 && (c.c.toNat == 0 || 256 < c.c.toNat) then some 7
    else if dest == 2 && c.ringBad then some 7
    else match s.drainLine? c with
      | none => some 8
      | some l => if l.elastic && (dest == 3 || dest == 4) then some 9 else none
  | 0xA4 | 0xA5 | 0xA6 | 0xA7 | 0xA8 => s.moveStart c
  | _ => none

/-- The command that an engine would start next: the head of its queue, or a copy while fewer than four run (R291). -/
def startable (x : Reel) (e : Eng) : Option Cmd :=
  let q := x.queue e
  match e with
  | .copy =>
    if 4 ≤ (q.filter (·.started)).length then none else q.find? fun c => !c.started
  | .feed | .kv | .drain => q.head?.filter fun c => !c.started
  | _ => none

/-- What the command must observe is performed (R150). -/
def State.cmdReady (s : State) (c : Cmd) : Bool :=
  c.after.all fun i => match s.req? i with
    | some q => q.stage != .sent
    | none => true

/-- ENGINE_COMMAND_START (R291). -/
def execEngineCommandStart (reel : Nat) (e : Eng) (s : State) : Host.Outcome State Fault Refusal :=
  .next <| match startable (s.reel reel) e with
    | none => s
    | some c =>
      if !s.partRuns c.part || !s.cmdReady c then s
      else
        let s := s.setCmd { c with started := true }
        match s.startCheck c with
        | some code => s.endCmd c.id code
        | none => s

/-- A command that cannot move now (R295, R403, R406). -/
def State.cmdBlocked (s : State) (c : Cmd) : Bool :=
  !c.started || !s.partRuns c.part || c.held.isSome || c.walk.isSome || c.ending.isSome

/-- One unit of a command on a line or a KV page, and whether the next may follow at once. -/
def State.cmdUnit (s : State) (c : Cmd) (n : Nat) : State × Bool :=
  match c.opc.toNat with
  | 0xA0 => match s.feedLine? c with
    | none => (s.endCmd c.id 8, false)
    | some l => if c.bits 10 1 == 1 then s.steerUnit c l else s.feedUnit c l
  | 0xA1 => match s.drainLine? c with
    | none => (s.endCmd c.id 8, false)
    | some l => s.drainUnit c l
  | 0xA3 => match s.feedLine? c with
    | none => (s.endCmd c.id 8, false)
    | some l => s.pmarkUnit c l
  | 0xA9 => s.kvldUnit c
  | 0xAA => (if c.cmd == 0 then s.kvappUnit c else s.kvinitUnit c, false)
  | 0xAB => (s.kvsealUnit c, false)
  | _ => (s.moveUnit c (n + 1), false)

/-- Up to `n` units of a command. -/
def unitSteps (id : Nat) : Nat → State → State
  | 0, s => s
  | n + 1, s => match s.cmd? id with
    | none => s
    | some c =>
      if s.cmdBlocked c then s
      else match s.cmdUnit c n with
        | (s, true) => unitSteps id n s
        | (s, false) => s

/-! ## Peers (R378, R379) -/

/-- PEER_ACKNOWLEDGE: every destination has acknowledged the bytes of a tag, or one has refused them; a contribution's end
with the switch's answer. -/
def execPeerAcknowledge (port tag : Nat) (refused : Bool) (s : State) : Host.Outcome State Fault Refusal :=
  .next <| match s.peerOut.find? (·.tag == tag) with
    | none => s
    | some o => match s.cmd? o.cmd with
      | none => s
      | some c =>
        if !(s.peerPort port).up || c.ending.isSome then s
        else if refused then s.endCmd c.id 7
        else if o.red != 0 then s
        else { s with peerOut := s.peerOut.filter (· != o) }.moved c o.units

/-- A reduction is aborted; the port that its last bytes left by counts it. -/
def State.reduceAborted (s : State) (id : Nat) : State :=
  match s.peerOut.reverse.find? (·.cmd == id) with
  | some o => (s.modPeerPort o.port fun h => { h with aborted := h.aborted + 1 }).endCmd id 16
  | none => s.endCmd id 16

/-- REDUCTION_ANSWER: the switch reports the destination writes performed, or ABORTED. -/
def execReductionAnswer (id : ReductionOf) (performed : Bool) (s : State) : Host.Outcome State Fault Refusal :=
  .next <| match s.cmd? id.cmd with
    | none => s
    | some c =>
      if !(s.peerPort id.port).up || c.sent.isNone || c.ending.isSome || c.red == 0 then s
      else if performed then (if c.i0 == c.total then s.endCmd id.cmd 0 else s)
      else s.reduceAborted id.cmd

/-- PEER_TIMEOUT: no answer to a contribution within PEERTMO ticks. -/
def execPeerTimeout (id : Nat) (s : State) : Host.Outcome State Fault Refusal :=
  .next <| match s.cmd? id with
    | none => s
    | some c => match c.sent with
      | some t => if c.ending.isNone && c.red != 0 && t + s.peertmo.toNat < s.tick then s.reduceAborted id else s
      | none => s

end Sys2Proof.Machine
end

