-- ==== Sys2Proof/Machine/KiteOps.lean ====
section
/-! DEFINITION. The configuration unit of a partition (R190): fusing and freeing kites, context words, planes, swaps,
control, routes, queries, clocks (R163 to R191, R314 to R322). -/

namespace Sys2Proof.Machine

/-! ## Issue (R314) -/

/-- Issue of 0xB0 to 0xB9: POISON, MISALIGN, then PRIV outside every granted partition; the command then waits its turn
at the partition's configuration unit. -/
def configOp (i : Instr) (opc : Nat) (f : EF) (srcs : List (BitVec 6)) (dests : List Reg)
    (bad : State → Option (Word × Bool)) (s : State) : Host.Outcome State Fault Refusal :=
  issue i s fun a b =>
    Eff.consume (srcs.map fun r => (a.rs r).code) <|
      match bad a with
      | some (va, w) => misalignTrap va w
      | none => match a.partOfReel? a.cur.reel with
        | none => privTrap
        | some p => .done (a.submit b opc f .config p.handle dests id)

def execKfuse (f : EF) (s : State) : Host.Outcome State Fault Refusal :=
  configOp (.kfuse f) 0xB0 f [f.sa, f.sb] [.s f.sd.toNat] (fun _ => none) s
def execKfree (f : EF) (s : State) : Host.Outcome State Fault Refusal :=
  configOp (.kfree f) 0xB1 f [f.sa] [] (fun _ => none) s
def execKctx (f : EF) (s : State) : Host.Outcome State Fault Refusal :=
  configOp (.kctx f) 0xB2 f [f.sa, f.sb, f.sc, f.sd] [] (fun _ => none) s
def execKldw (f : EF) (s : State) : Host.Outcome State Fault Refusal :=
  configOp (.kldw f) 0xB3 f [f.sa, f.sb, f.sc] [] (mustAlign 256 false f.sb) s
def execKswap (f : EF) (s : State) : Host.Outcome State Fault Refusal :=
  configOp (.kswap f) 0xB4 f [f.sa] [] (fun _ => none) s
def execKmma (f : EF) (s : State) : Host.Outcome State Fault Refusal :=
  configOp (.kmma f) 0xB5 f [f.sa, f.sb] [] (fun _ => none) s
def execKroute (f : EF) (s : State) : Host.Outcome State Fault Refusal :=
  configOp (.kroute f) 0xB6 f [f.sa, f.sb, f.sc, f.sd] [] (fun _ => none) s
def execKunroute (f : EF) (s : State) : Host.Outcome State Fault Refusal :=
  configOp (.kunroute f) 0xB7 f [f.sa] [] (fun _ => none) s
def execKqry (f : EF) (s : State) : Host.Outcome State Fault Refusal :=
  configOp (.kqry f) 0xB8 f (if f.cmd == 2 || f.cmd == 3 then [f.sa, f.sb] else [f.sa]) [.s f.sd.toNat] (fun _ => none) s
def execKclk (f : EF) (s : State) : Host.Outcome State Fault Refusal :=
  configOp (.kclk f) 0xB9 f [f.sa, f.sb] [] (fun _ => none) s

/-! ## Fusing (R163, R164) -/

/-- Pairs of mode (0 ws, 1 os, 2 fn) and precision (R164, R412). -/
def State.modeOk (s : State) (mode : Nat) (t : Ty) : Bool :=
  t != .mx4 || (mode == 0 && s.fw.devMode != .bringup && !s.fw.mx4Off)

/-- A block that a kite covers. -/
def Kite.covers (k : Kite) (bx by_ : Nat) : Bool := k.bx ≤ bx && bx < k.bx + k.bw && k.by_ ≤ by_ && by_ < k.by_ + k.bh

def Kite.fresh (c : Cmd) (h index bx by_ bw bh : Nat) : Kite :=
  { handle := h, ctx := c.ctx, part := c.part, task := c.task, index := index, bx := bx, by_ := by_, bw := bw, bh := bh
    mode := c.cmd.toNat, prec := c.ty, tags := c.b.extractLsb' 0 8, words := [], active := [], shadow := []
    shadowBad := [], swap := none, pass := false, acc := true, srows := 0, scols := 0, accs := [], accPsn := []
    inRate := none, outRate := none, clkReq := none, halted := false, sending := [] }

/-- Kites that a task has fused so far (R315). -/
def State.fusedBy (s : State) (task : Option Nat) : Nat :=
  match task with
  | some t => ((s.tasks.find? (·.id == t)).map (·.kitesFused)).getD 0
  | none => 0

def State.countFuse (s : State) (task : Option Nat) : State :=
  { s with tasks := listMod (fun t => some t.id == task) (fun t => { t with kitesFused := t.kitesFused + 1 }) s.tasks }

/-- Ends a command whose result register is written first. -/
def State.endWith (s : State) (c : Cmd) (code : Nat) (x : SReg) : State :=
  (s.cmdStrand c fun t => t.setS c.sd x).endCmd c.id code

def State.kfuse (s : State) (p : Partition) (c : Cmd) : State :=
  let bx := bitsOf c.a 0 16
  let by_ := bitsOf c.a 16 16
  let bw := bitsOf c.a 32 16
  let bh := bitsOf c.a 48 16
  let blocks := (upto bh).flatMap fun j => (upto bw).map fun i => (bx + i, by_ + j)
  let refuse (code : Nat) : State := s.endWith c code SReg.zero
  if !(p.bx c.reel == bx && p.by_ c.reel == by_) then refuse 0x20
  else if bw == 0 || bh == 0 || 11 * p.w < bx + bw || 11 * p.h < by_ + bh then refuse 0x21
  else if bitsOf c.b 0 8 == 0 || !s.modeOk c.cmd.toNat c.ty then refuse 0x22
  else if s.kites.any fun k => k.part == p.handle && blocks.any fun b => k.covers b.1 b.2 then refuse 0x23
  else if !blocks.all fun b => s.blockFree (p.reel b.1 b.2) then s
  else
    let (h, s) := s.freshHandle
    let k := Kite.fresh c h (s.fusedBy c.task) bx by_ bw bh
    ({ s with kites := s.kites ++ [k] }.countFuse c.task).endWith c 0 (SReg.clean (word h))

/-! ## Kites by handle and by index (R37, R314, R315) -/

/-- Goes on with the kite that the first operand names; one of the same context on another partition is no kite of this
configuration unit: BAD_HANDLE (DESIGN CHOICE, log entry 107). -/
def State.onKite (s : State) (c : Cmd) (haltedToo : Bool) (go : Kite → State) : State :=
  match s.kites.find? fun k => word k.handle == c.a && k.handle != 0 && k.ctx == c.ctx && k.part == c.part with
  | none => s.endCmd c.id 0x25
  | some k => if k.halted && !haltedToo then s.endCmd c.id 12 else go k

/-- A cell rectangle: first row and column, rows, columns (R314). -/
def Kite.rect (k : Kite) (w : Word) : Option (Nat × Nat × Nat × Nat) :=
  if w == 0 then some (0, 0, k.rows, k.cols)
  else
    let i := bitsOf w 0 16
    let j := bitsOf w 16 16
    let r := bitsOf w 32 16
    let n := bitsOf w 48 16
    if r == 0 || n == 0 || k.rows < i + r || k.cols < j + n then none else some (i, j, r, n)

/-- Cells of a rectangle, row-major, as row · columns + column. -/
def Kite.cells (k : Kite) (r : Nat × Nat × Nat × Nat) : List Nat :=
  (upto r.2.2.1).flatMap fun i => (upto r.2.2.2).map fun j => (r.1 + i) * k.cols + r.2.1 + j

/-! ## Context words (R170, R316) -/

/-- A field that R170 refuses. -/
def ctxBad (mode : Nat) (w : Word) : Bool :=
  (if mode == 2 then 6 else 1) < bitsOf w 28 4 || 2 ≤ bitsOf w 26 2 || 2 ≤ bitsOf w 24 2

/-- What a cell stores: reserved fields read zero. -/
def ctxStored (mode : Nat) (w : Word) : Word := if mode == 2 then w &&& 0xFFFFFFFFFFF00000 else w &&& 0xFFF00000

def State.kctx (s : State) (c : Cmd) : State :=
  s.onKite c false fun k =>
    match k.rect c.d with
    | none => s.endCmd c.id 7
    | some r =>
      if ctxBad k.mode c.c then s.endCmd c.id 0x22
      else
        let tag := bitsOf c.b 0 3
        let w : CtxWord := { val := ctxStored k.mode c.c, psn := false }
        (s.modKite k.handle fun k =>
          { k with words := (k.cells r).foldl (fun m n => m.put CtxWord.zero (8 * n + tag) w) k.words }).endCmd c.id 0

/-! ## Planes (R166 to R168, R317) -/

/-- K of a precision (R164). -/
def innerK (t : Ty) : Nat :=
  match t with
  | .bf16 => 8
  | .mx4 => 32
  | _ => 16

/-- A metadata entry that names its indexes wrongly (R167). -/
def metaBad (t : Ty) (d : List Byte) : Bool :=
  let run := innerK t / 4
  (upto 8).any fun n => (upto (innerK t / 2)).any fun g =>
    let e := (d.getD (144 + n * run + g / 2) 0).toNat / 16 ^ (g % 2) % 16
    e / 4 ≤ e % 4

/-- A plane from a record, or none where its metadata are wrong. -/
def planeOf (t : Ty) (dense : Bool) (l : List PByte) : Option Plane :=
  let read := l.take 128 ++ (if t == .mx4 then (l.drop 128).take 16 else []) ++ (if dense then [] else (l.drop 144).take 64)
  let raw := plainBytes (l.take 208)
  let bs := if dense then raw.take 144 ++ List.replicate 64 0x44 else raw
  match firstCode read with
  | some c => some { data := BitVec.ofNat 1664 (natOfBytes (codeBytes c 208)), psn := some c }
  | none => if !dense && metaBad t bs then none else some { data := BitVec.ofNat 1664 (natOfBytes bs), psn := none }

/-- The records of a KLDW, one after the other; `i0` counts those done. -/
def State.kldwCells (s : State) (id h : Nat) (cells : List Nat) : List Nat → State
  | [] => (s.modKite h fun k => { k with shadowBad := k.shadowBad.filter fun n => !cells.contains n }).endCmd id 0
  | n :: rest =>
    match s.cmd? id, s.kite? h with
    | some c, some k =>
      let a := c.b + word (256 * c.i0)
      let ls := c.cmd.toNat % 2 == 1
      match s.portRead c (bit ls) a 256 with
      | .wait s => s
      | .stop s code => s.endCmd id code
      | .ok s l => match planeOf k.prec (2 ≤ c.cmd.toNat) l with
        | none => s.endCmd id 0x24
        | some p =>
          let s := s.modKite h fun k => { k with shadow := k.shadow.put Plane.zero n p }
          kldwCells (s.modCmd id fun c => { c with i0 := c.i0 + 1 }) id h cells rest
    | _, _ => s

def State.kldw (s : State) (c : Cmd) : State :=
  s.onKite c false fun k =>
    match k.rect c.c with
    | none => s.endCmd c.id 7
    | some r =>
      let cells := k.cells r
      if c.cmd.toNat % 2 == 1 && lsSize < c.b.toNat + 256 * cells.length then s.endCmd c.id 7
      else
        let s := s.modKite k.handle fun k => { k with shadowBad := (cells ++ k.shadowBad).eraseDups }
        s.kldwCells c.id k.handle cells (cells.drop c.i0)

/-- KSWAP is accepted: it awaits the next mark (R168). -/
def State.kswap (s : State) (c : Cmd) : State :=
  s.onKite c false fun k =>
    if !k.shadowBad.isEmpty then s.endCmd c.id 0x24
    else (s.dropCmd c).modKite k.handle fun k => { k with swap := some c }

/-! ## Control, clock, query (R319, R321, R322) -/

def State.kmma (s : State) (c : Cmd) : State :=
  s.onKite c false fun k =>
    let rows := bitsOf c.b 0 8
    let cols := bitsOf c.b 8 8
    if k.mode == 2 then s.endCmd c.id 0x22
    else if k.bh < rows || k.bw < cols then s.endCmd c.id 7
    else
      let acc := c.b.getLsbD 24
      (s.modKite k.handle fun k =>
        let k := { k with pass := c.cmd == 1, acc := acc, srows := rows, scols := cols }
        if k.mode == 1 && !acc then { k with accs := [], accPsn := [] } else k).endCmd c.id 0

def State.kclk (s : State) (c : Cmd) : State :=
  s.onKite c false fun k =>
    if c.b == 0 || 8 < c.b.toNat then s.endCmd c.id 7
    else (s.modKite k.handle fun k => { k with clkReq := some c.b.toNat }).endCmd c.id 0

/-- Seams crossed from block `from_` over `n` blocks (R172). -/
def seams (from_ n : Nat) : Nat := (from_ + n - 1) / 11 - from_ / 11

/-- H and V of a kite (R172, R173). -/
def Kite.hSeams (k : Kite) : Nat := seams k.by_ k.bh
def Kite.vSeams (k : Kite) : Nat := seams k.bx k.bw

/-- D(c) − t (R172). -/
def Kite.arrival (k : Kite) (c : Nat) : Nat := 8 * k.bh + 8 * c + 7 + 2 * k.hSeams + 2 * seams k.bx (c + 1)

def State.kqry (s : State) (c : Cmd) : State :=
  s.onKite c true fun k =>
    let done (x : SReg) : State := s.endWith c 0 x
    match c.cmd.toNat with
    | 0 => done (SReg.clean (word (k.arrival (k.bw - 1))))
    | 1 => done (SReg.clean (word (k.hSeams + k.vSeams <<< 32)))
    | 2 => if k.bw ≤ c.b.toNat then s.endCmd c.id 7
           else done (SReg.clean (word (k.arrival c.b.toNat - k.arrival 0)))
    | 3 =>
      let i := bitsOf c.b 0 16
      let j := bitsOf c.b 16 16
      if k.rows ≤ i || k.cols ≤ j then s.endCmd c.id 7
      else
        let w := k.ctxWord i j (bitsOf c.b 32 3)
        done { val := w.val, psn := w.psn }
    | 4 => done (SReg.clean (word k.index))
    | _ => done (SReg.clean (word (s.divider ((s.kiteRows k).headD 0))))

/-! ## Ports and routes (R178, R179, R320) -/

/-- The kite that an index names for the task of a command (R315). -/
def State.kiteIndexed? (s : State) (c : Cmd) (i : Nat) : Option Kite :=
  s.kites.find? fun k => k.index == i && k.task == c.task && k.part == c.part

/-- A port and the block of its router, or the code that refuses it. A feed port named as a sink and a drain port as a source
end BAD_PORT, as a kite port in the wrong direction does (DESIGN CHOICE, log entry 105). -/
def State.portOf (s : State) (p : Partition) (c : Cmd) (w : Nat) (source : Bool) : Except Nat (Port × Nat × Nat) :=
  let kind := w / 2 ^ 28 % 16
  let a := w / 2 ^ 14 % 2 ^ 14
  let b := w % 2 ^ 14
  if kind == 1 || kind == 2 then
    if 11 * p.w ≤ a || 11 * p.h ≤ b || (kind == 1) != source then .error 0x26
    else .ok (if kind == 1 then feedPort a b else drainPort a b, a, b)
  else if 3 ≤ kind && kind ≤ 6 then
    match s.kiteIndexed? c a with
    | none => .error 0x25
    | some k =>
      let rows := kind == 3 || kind == 6
      if b % 8 != 0 || (if rows then k.rows else k.cols) ≤ b || (kind ≤ 4) == source || (kind == 6 && k.mode != 2) then
        .error 0x26
      else .ok (match kind with
        | 3 => (westPort k.handle b, k.bx, k.by_ + b / 8)
        | 4 => (northPort k.handle b, k.bx + b / 8, k.by_)
        | 5 => (southPort k.handle b, k.bx + b / 8, k.by_ + k.bh - 1)
        | _ => (eastPort k.handle b, k.bx + k.bw - 1, k.by_ + b / 8))
  else .error 0x26

/-- The port ends no line yet. -/
def State.portFree (s : State) (part : Nat) (p : Port) : Bool :=
  (s.lineFrom? part p).isNone && (s.lineTo? part p).isNone

/-- Legs of a route word below NLEG: direction and hop count. -/
def legsOf (w : Word) (n : Nat) : List (Nat × Nat) :=
  (upto n).map fun i => (bitsOf w (10 * i + 8) 2, bitsOf w (10 * i) 8)

/-- The automatic route (R179). -/
def autoLegs (sx sy tx ty : Nat) : List (Nat × Nat) :=
  (if tx < sx then [(0, sx - tx)] else []) ++ (if ty < sy then [(1, sy - ty)] else if sy < ty then [(3, ty - sy)] else []) ++
  (if sx < tx then [(2, tx - sx)] else [])

/-- One leg may follow another: no west after another direction, no leg opposite to the one before. -/
def turnOk (a b : Nat) : Bool := (b != 0 || a == 0) && (a + 2) % 4 != b

def turnsOk : List (Nat × Nat) → Bool
  | a :: b :: rest => turnOk a.1 b.1 && turnsOk (b :: rest)
  | _ => true

/-- The block `n` hops further in a direction, as integers. -/
def hop (d : Nat) (n : Int) (x : Int × Int) : Int × Int :=
  match d with
  | 0 => (x.1 - n, x.2)
  | 1 => (x.1, x.2 - n)
  | 2 => (x.1 + n, x.2)
  | _ => (x.1, x.2 + n)

/-- Blocks along the legs, the first one excluded. -/
def walkLegs : List (Nat × Nat) → Int × Int → List (Int × Int)
  | [], _ => []
  | (d, n) :: rest, x => (upto n).map (fun (i : Nat) => hop d ((i : Int) + 1) x) ++ walkLegs rest (hop d n x)

/-- The routers of a line with its hop count, or the code of the first step that fails. With NLEG 0 the legs of the word are
not judged (log entry 82). -/
def routeOf (p : Partition) (w : Word) (sx sy tx ty : Nat) : Except Nat (List Nat × Nat) :=
  let nleg := bitsOf w 60 4
  let legs := if nleg == 0 then autoLegs sx sy tx ty else legsOf w nleg
  if nleg != 0 && (6 < nleg || (legs.any fun l => l.2 == 0) || bitsOf w (10 * nleg) (60 - 10 * nleg) != 0) then .error 0x28
  else if !turnsOk legs then .error 0x27
  else
    let path := ((sx : Int), (sy : Int)) :: walkLegs legs (sx, sy)
    let inside (b : Int × Int) : Bool := 0 ≤ b.1 && b.1 < 11 * p.w && 0 ≤ b.2 && b.2 < 11 * p.h
    if !path.all inside || path.getLastD (0, 0) != ((tx : Int), (ty : Int)) then .error 0x28
    else .ok (path.map fun b => b.2.toNat * (11 * p.w) + b.1.toNat, path.length - 1)

/-! ## Filters and rates (R181, R183, R184) -/

/-- Conversion pairs that R79 covers. -/
def filterPairOk (dst src : Ty) : Bool :=
  let isFl (t : Ty) : Bool := t.isF || t.isB8
  let isIn (t : Ty) : Bool := t.isInt && !t.is0
  (isFl dst && isFl src && dst != src) || (isFl dst && isIn src) || (isIn dst && isFl src)

def filterBad (f : BitVec 16) (elastic : Bool) (rate : Nat) (toKite : Bool) : Bool :=
  let op := bitsOf f 12 4
  let conv := op == 1 || op == 4
  6 ≤ op ||
  (conv && !(match filterTo f, filterFrom f with
    | some d, some s => filterPairOk d s
    | _, _ => false)) ||
  ((op == 2 || op == 4 || op == 5) && !toKite) ||
  ((op == 3 || op == 5) && (elastic || rate % 8 != 0)) ||
  (!conv && bitsOf f 1 11 != 0)

/-- The kite's input rate allows a line of this rate. -/
def rateFits (r : Option Nat) (p : Nat) : Bool := r.all (· == p)

/-- R183 for a fixed line. -/
def State.fixedOk (s : State) (src snk : Port) (p c d hops : Nat) (direct : Bool) : Bool :=
  let out := match s.kite? src.kite with
    | some k => if src.isKite then rateFits (if k.mode == 1 then k.outRate else k.inRate) p else true
    | none => true
  let inp := match s.kite? snk.kite with
    | some k => if snk.isKite then rateFits k.inRate c else true
    | none => true
  p == c && 1 ≤ p && d ≤ 1024 && (if direct then 2 ≤ d else 2 * hops + 8 ≤ d) && inp && out

/-- Records the rates that a fixed line sets. -/
def State.setRates (s : State) (src snk : Port) (p : Nat) : State :=
  let s := if snk.isKite then s.modKite snk.kite fun k => { k with inRate := some p } else s
  if src.isKite then s.modKite src.kite fun k =>
    if k.mode == 1 then { k with outRate := some p } else { k with inRate := some p }
  else s

/-- Block of a line's source router. -/
def State.lineBlock (s : State) (p : Partition) (l : Line) : Nat × Nat :=
  if l.src.kind == 1 then (l.src.a, l.src.b)
  else match s.kite? l.src.kite with
    | some k => if l.src.kind == 5 then (k.bx + l.src.b / 8, k.by_ + k.bh - 1) else (k.bx + k.bw - 1, k.by_ + l.src.b / 8)
    | none => (11 * p.w, 0)

/-- Blocks of the partition whose routers a route needs, both ends among them (R407). -/
def routeBlocks (p : Partition) (sx sy tx ty : Nat) (path : List Nat) : List Nat :=
  path ++ [sy * (11 * p.w) + sx, ty * (11 * p.w) + tx]

/-- KROUTE, its checks in the order of R320. An elastic line with a burst of 0 is refused as one whose rates do not balance
(log entry 83); on a fixed line the burst is ignored (DESIGN CHOICE, log entry 108). -/
def State.kroute (s : State) (p : Partition) (c : Cmd) : State :=
  let refuse (code : Nat) : State := s.endCmd c.id code
  match s.portOf p c (bitsOf c.a 0 32) true with
  | .error e => refuse e
  | .ok (src, sx, sy) =>
    if !s.portFree p.handle src then refuse 0x26
    else match s.portOf p c (bitsOf c.a 32 32) false with
      | .error e => refuse e
      | .ok (snk, tx, ty) =>
        if !s.portFree p.handle snk then refuse 0x26
        else if [src, snk].any fun q => q.isKite && (s.kite? q.kite).any (·.halted) then refuse 12
        else match routeOf p c.b sx sy tx ty with
          | .error e => refuse e
          | .ok (path, hops) =>
            let rate := bitsOf c.c 0 16
            let filter := c.c.extractLsb' 32 16
            let vc := bitsOf c.c 48 2
            let elastic := c.c.getLsbD 50
            let depth := bitsOf c.d 0 11
            let burst := bitsOf c.d 16 11
            let direct := src.isKite != snk.isKite && sx == tx && sy == ty
            let blocks := if direct then [] else path
            if filterBad filter elastic rate (snk.kind == 3 || snk.kind == 4) then refuse 0x2B
            else if !elastic && !s.fixedOk src snk rate (bitsOf c.c 16 16) depth hops direct then refuse 0x2C
            else if elastic && (burst == 0 || depth < 2 * burst + (if direct then 0 else 2 * hops)) then refuse 0x2C
            else if elastic && snk.kind != 2 then refuse 9
            else if blocks.any fun b => 64 ≤ (s.lines.filter fun l =>
                l.part == p.handle && l.vc == vc && l.path.contains b).length then refuse 0x29
            else if bitsOf filter 12 4 != 0 && 16 ≤ (s.lines.filter fun l =>
                l.part == p.handle && l.vc == vc && l.op != 0 && s.lineBlock p l == (sx, sy)).length then refuse 0x2A
            else if !(routeBlocks p sx sy tx ty blocks).all fun b => s.blockFree (p.ofIndex b) then s
            else
              let (id, s) := s.fresh
              let l : Line :=
                { id := id, part := p.handle, task := c.task, src := src, snk := snk, vc := vc, elastic := elastic
                  filter := filter, depth := depth, burst := burst, rate := rate, hops := hops, path := blocks, round := 0
                  gather := [], buf := [], arrived := [], stopped := false }
              let s := { s with lines := s.lines ++ [l] }
              (if elastic then s else s.setRates src snk rate).endCmd c.id 0

/-! ## Units that a claimant needs (R407) -/

/-- Blocks that a command of the configuration unit needs, as reels: those that a KFUSE covers, those of a KROUTE's routers. -/
def State.cmdBlocks (s : State) (p : Partition) (c : Cmd) : List Nat :=
  match c.opc.toNat with
  | 0xB0 => (upto (bitsOf c.a 48 16)).flatMap fun j => (upto (bitsOf c.a 32 16)).map fun i =>
      p.reel (bitsOf c.a 0 16 + i) (bitsOf c.a 16 16 + j)
  | 0xB6 => match s.portOf p c (bitsOf c.a 0 32) true, s.portOf p c (bitsOf c.a 32 32) false with
    | .ok (_, sx, sy), .ok (_, tx, ty) => match routeOf p c.b sx sy tx ty with
      | .ok (path, _) => (routeBlocks p sx sy tx ty path).map p.ofIndex
      | .error _ => []
    | _, _ => []
  | _ => []

/-- A claimant wants the unit: a strand of another partition over the same field is to be placed on the reel, or its
configuration unit or a round of its collectives needs the block. -/
def State.wanted (s : State) (p : Partition) : UnitRef → Bool
  | .reel n =>
    (s.spawns.any fun sp => sp.target == n && sp.part != p.handle) ||
    (s.queues.any fun q => (q.2.head.any fun k => bitsOf (k.words.getD 0 0) 0 8 == 1) && q.2.part != p.handle && match s.part? q.2.ctx q.2.part with
      | some c => !c.suspended && c.reel 0 0 == n
      | none => false)
  | .block n => s.parts.any fun c => c.handle != p.handle && !c.suspended && c.hasReel n &&
      ((c.cfgQ.head?.any fun d => (s.cmdBlocks c d).contains n) || (c.collBlocks c.colls).contains n)

/-- SCAN_OUT_DONE: a claimed unit is empty for the claimant (R407, R409). -/
def execScanOutDone (u : UnitRef) (s : State) : Host.Outcome State Fault Refusal :=
  let n := match u with | .reel n => n | .block n => n
  .next <| match s.suspendedOver n with
    | none => s
    | some p =>
      if p.claimed.contains u || !s.wanted p u then s
      else
        let count (s : State) : State := { s with pmt := { s.pmt with units := s.pmt.units + 1 } }
        match u with
        | .reel n => if s.owedTo n then s else count (s.scanOut p n)
        | .block n => count (s.scanOutBlock p n)

end Sys2Proof.Machine
end

