-- ==== Sys2Proof/Machine/KiteCells.lean ====
section
/-! DEFINITION. What the cells of a kite compute for one slot of its inputs: weight-stationary, output-stationary and
function kites (R83, R84, R165 to R167, R170, R175, R395, R396). -/

namespace Sys2Proof.Machine

/-- Flits at the heads of a kite's input lines: port and flit. -/
abbrev Heads := List (Port × Flit)

def headAt (hs : Heads) (p : Port) : Option Flit := (hs.find? (·.1 == p)).map (·.2)

/-- The code of a context word. -/
def CtxWord.code (w : CtxWord) : Option Code := if w.psn then some (w.val.extractLsb' 0 32) else none

/-- The cell takes part in the computation: inside the active shape, no .pass, and its word says MAC (R170, R319). -/
def Kite.inShape (k : Kite) (i j : Nat) : Bool :=
  !k.pass && (k.srows == 0 || i < 8 * k.srows) && (k.scols == 0 || j < 8 * k.scols)

def ctxMac (w : CtxWord) : Bool := bitsOf w.val 28 4 == 0

/-- The tag that cell row `i` works under: that of its own west token, else of the nearest row above that has one, else of
the first head (R169, log entry 89). -/
def Kite.rowTag (k : Kite) (hs : Heads) (i : Nat) : Nat :=
  foldUpto (i / 8 + 1) (fun b tag => match headAt hs (westPort k.handle (8 * b)) with
    | some f => f.tag
    | none => tag) ((hs.head?.map (·.2.tag)).getD 0)

/-- The tag of what leaves by a port: that of the cell row it leaves. -/
def Kite.outTag (k : Kite) (hs : Heads) (p : Port) : Nat := k.rowTag hs (if p.kind == 5 then k.rows - 1 else p.b)

/-! ## Operands of a cell -/

/-- A byte of a payload; one that the token does not carry is free (log entry 2). -/
def byteAt (free : Nat → Word) (l : List Byte) (i : Nat) : Byte :=
  if i < l.length then l.getD i 0 else byteOf (free (i / 8)) (i % 8)

/-- Input `x` of the `n` that a cell row takes from a west token: its value in the kite's precision (R177). -/
def westVal (free : Nat → Word) (t : Ty) (sparse : Bool) (l : List Byte) (r x : Nat) : FVal :=
  let base := (if sparse then 32 else 16) * r
  match t with
  | .bf16 => Ty.bf16.dec (natOfBytes [byteAt free l (base + 2 * x), byteAt free l (base + 2 * x + 1)])
  | .mx4 =>
    let e := (byteAt free l (base + x / 2)).toNat / 16 ^ (x % 2) % 16
    let sc := byteAt free l (if sparse then 256 + 2 * r + x / 32 else 128 + r)
    mxDequantise .mx4 sc.toNat e
  | _ => t.dec (byteAt free l (base + x)).toNat

/-- The same as an integer, in an i8 kite. -/
def westInt (free : Nat → Word) (sparse : Bool) (l : List Byte) (r x : Nat) : Int :=
  signed 8 (byteAt free l ((if sparse then 32 else 16) * r + x)).toNat

/-- Weight `k` of output `n` from 128 bytes of weights and the scales behind them; `x` is the effective input it meets. -/
def weightVal (t : Ty) (sparse : Bool) (l : List Byte) (n k x : Nat) : FVal :=
  match t with
  | .bf16 => Ty.bf16.dec (natOfBytes [l.getD (16 * n + 2 * k) 0, l.getD (16 * n + 2 * k + 1) 0])
  | .mx4 =>
    let e := (l.getD (16 * n + k / 2) 0).toNat / 16 ^ (k % 2) % 16
    let sc := l.getD (if sparse then 128 + 2 * n + x / 32 else 128 + n) 0
    mxDequantise .mx4 sc.toNat e
  | _ => t.dec (l.getD (16 * n + k) 0).toNat

def weightInt (l : List Byte) (n k : Nat) : Int := signed 8 (l.getD (16 * n + k) 0).toNat

/-- Pairs (weight, effective input) of output `n`: dense, or by the metadata of R167. -/
def pairsOf (t : Ty) (sparse : Bool) (plane : List Byte) (n : Nat) : List (Nat × Nat) :=
  if !sparse then (upto (innerK t)).map fun k => (k, k)
  else (upto (innerK t / 2)).flatMap fun g =>
    let e := (plane.getD (144 + n * (innerK t / 4) + g / 2) 0).toNat / 16 ^ (g % 2) % 16
    [(2 * g, 4 * g + e % 4), (2 * g + 1, 4 * g + e / 4)]

/-- The exact product sum of output `n` in an i8 kite (R83). -/
def intSum (free : Nat → Word) (sparse : Bool) (weights plane west : List Byte) (r n : Nat) : Int :=
  (pairsOf .i8 sparse plane n).foldl (fun a kx => a + weightInt weights n kx.1 * westInt free sparse west r kx.2) 0

/-- An exact product sum added to an f32 value with one rounding (R83); a pruned weight adds +0 (DESIGN CHOICE, log entry 81).
-/
def floatOut (free : Nat → Word) (t : Ty) (sparse : Bool) (weights plane west : List Byte) (r n p : Nat) : Nat :=
  let terms := (pairsOf t sparse plane n).map fun kx =>
    mulF (weightVal t sparse weights n kx.1 kx.2) (westVal free t sparse west r kx.2)
  let zeros : List FVal := if sparse then [.fin false 0 0 false] else []
  roundTo fmtF32 .rne false 0 (sumF .rne (Ty.f32.dec p :: terms ++ zeros))

/-- The partial sum that leaves a cell of a ws kite for output `n`: rounded once, or wrapped in i32 (R83). -/
def macOut (free : Nat → Word) (t : Ty) (sparse : Bool) (weights plane west : List Byte) (r n p : Nat) : Nat :=
  if t == .i8 then wrapNat 32 (signed 32 p + intSum free sparse weights plane west r n)
  else floatOut free t sparse weights plane west r n p

/-- What an accumulator of an os cell becomes: f32 in every precision, i8 among them (R84, R165, log entry 110). -/
def osOut (free : Nat → Word) (t : Ty) (sparse : Bool) (weights plane west : List Byte) (r n old : Nat) : Nat :=
  if t == .i8 then
    roundTo fmtF32 .rne false 0 (sumF .rne [Ty.f32.dec old, FVal.ofInt (intSum free sparse weights plane west r n)])
  else floatOut free t sparse weights plane west r n old

/-! ## Weight-stationary kites (R84, R165) -/

/-- The active plane of a cell as bytes. -/
def Kite.planeBytes (k : Kite) (n : Nat) : List Byte := bytesOf (k.active.get Plane.zero n).data 208

/-- Eight partial sums and their poison pass one cell. -/
def Kite.wsCell (k : Kite) (free : Nat → Word) (hs : Heads) (i j : Nat) (p : List Nat × Option Code) :
    List Nat × Option Code :=
  let n := i * k.cols + j
  let w := k.ctxWord i j (k.rowTag hs i)
  if !k.inShape i j then p
  else match headAt hs (westPort k.handle (8 * (i / 8))) with
    | none => match w.code with
      | some c => (p.1, some c)
      | none => p
    | some f =>
      let plane := k.active.get Plane.zero n
      let code := if ctxMac w || w.psn then
          [if ctxMac w then plane.psn else none, w.code, f.psn, p.2].findSome? id
        else p.2
      if !ctxMac w then (p.1, code)
      else
        let bs := k.planeBytes n
        ((upto 8).map fun o => macOut (fun x => free (64 * n + x)) k.prec (ctxSparse w) bs bs f.payload (i % 8) o (p.1.getD o 0), code)

/-- What enters column `j` from the north: +0.0, or the north token under PSIN (R170, R319). -/
def Kite.wsNorth (k : Kite) (free : Nat → Word) (hs : Heads) (j : Nat) : List Nat × Option Code :=
  let w := k.ctxWord 0 j (k.rowTag hs 0)
  if !k.acc || bitsOf w.val 24 2 != 1 then ((upto 8).map fun _ => 0, none)
  else match headAt hs (northPort k.handle (8 * (j / 8))) with
    | none => ((upto 8).map fun o => bitsOf (free (8 * j + o)) 0 32, none)
    | some f =>
      let ws := words32 f.payload
      ((upto 8).map fun o => ws.getD (8 * (j % 8) + o) 0, f.psn)

/-- Column `j` from north to south. -/
def Kite.wsColumn (k : Kite) (free : Nat → Word) (hs : Heads) (j : Nat) : List Nat × Option Code :=
  (upto k.rows).foldl (fun p i => k.wsCell (fun x => free (x + 8 * k.cols)) hs i j p) (k.wsNorth free hs j)

/-- The token of a south port: eight columns of eight words. -/
def Kite.wsToken (k : Kite) (free : Nat → Word) (hs : Heads) (col : Nat) : List Byte × Option Code :=
  let cols := (upto 8).map fun j => k.wsColumn free hs (col + j)
  (bytes32 (cols.flatMap (·.1)), cols.findSome? (·.2))

/-! ## Output-stationary kites (R165) -/

/-- Every cell adds its eight product sums to what it holds. -/
def Kite.osStep (k : Kite) (free : Nat → Word) (hs : Heads) : Kite :=
  (upto (k.rows * k.cols)).foldl (fun (k : Kite) n =>
    let i := n / k.cols
    let j := n % k.cols
    let w := k.ctxWord i j (k.rowTag hs i)
    if !k.inShape i j then k
    else match headAt hs (westPort k.handle (8 * (i / 8))), headAt hs (northPort k.handle (8 * (j / 8))) with
      | some a, some b =>
        if !ctxMac w && !w.psn then k
        else
          let bs := b.payload
          let plane := k.active.get Plane.zero n
          let code := [if ctxSparse w then plane.psn else none, w.code, a.psn, b.psn].findSome? id
          (upto 8).foldl (fun (k : Kite) o =>
            let old := (k.accs.get 0 (8 * n + o)).toNat
            let new := osOut (fun x => free (64 * n + x)) k.prec (ctxSparse w) bs (k.planeBytes n) a.payload (i % 8) o old
            match code with
            | some c => { k with accPsn := if (k.accPsn.any (·.1 == 8 * n + o)) then k.accPsn else k.accPsn.ins (8 * n + o) c }
            | none => { k with accs := k.accs.put 0 (8 * n + o) (BitVec.ofNat 32 new) }) k
      | _, _ => k) k

/-- A cell emits at marks of this level at the inputs (R170, R187). -/
def Kite.emits (k : Kite) (hs : Heads) (lvl n : Nat) : Bool :=
  bitsOf (k.ctxWord (n / k.cols) (n % k.cols) (k.rowTag hs (n / k.cols))).val 21 2 ≤ lvl

/-- Held values of one cell row under a south port; a cell that does not emit leaves its words free (log entry 2). -/
def Kite.osRow (k : Kite) (free : Nat → Word) (hs : Heads) (lvl row col : Nat) : List Byte × Option Code :=
  let ns := (upto 8).flatMap fun j => (upto 8).map fun o => (row * k.cols + col + j, o)
  let val (x : Nat × Nat) : Nat :=
    if k.emits hs lvl x.1 then (k.accs.get 0 (8 * x.1 + x.2)).toNat else bitsOf (free (8 * x.1 + x.2)) 0 32
  let code (x : Nat × Nat) : Option Code :=
    if k.emits hs lvl x.1 then (k.accPsn.find? (·.1 == 8 * x.1 + x.2)).map (·.2) else none
  (bytes32 (ns.map val), ns.findSome? code)

/-- The cells that emit are +0 again. -/
def Kite.osClear (k : Kite) (hs : Heads) (lvl : Nat) : Kite :=
  { k with accs := k.accs.filter fun x => !k.emits hs lvl (x.1 / 8)
           accPsn := k.accPsn.filter fun x => !k.emits hs lvl (x.1 / 8) }

/-- What a mark of round `rnd` makes an os kite send by its ports: its held values, southmost cell row first, where any cell
emits; then the mark (R187). -/
def Kite.osSlots (k : Kite) (free : Nat → Word) (hs : Heads) (ports : List Port) (rnd lvl : Nat) : List (List (Port × Flit)) :=
  let held := (upto k.rows).map fun e => ports.map fun p =>
    let (d, code) := k.osRow free hs lvl (k.rows - 1 - e) p.b
    (p, dataFlit rnd (k.outTag hs p) d code (BitVec.allOnes 32))
  (if (upto (k.rows * k.cols)).any (k.emits hs lvl) then held else []) ++
    [ports.map fun p => (p, markFlit rnd lvl (k.outTag hs p))]

/-! ## Function kites (R175) -/

/-- Four lanes of a cell, their guards, and poison. -/
structure FnTok where
  lanes : List Nat
  grd : List Bool
  psn : Option Code
  deriving DecidableEq, Repr

/-- A cell's slice of a port's token: of one that a line filter has widened beyond 128 bytes, of which no rule says what the cells
take, the first 128 (R175; DESIGN CHOICE, log entry 119). -/
def sliceOf (f : Flit) (r : Nat) : FnTok :=
  let ws := words32 f.payload
  { lanes := (upto 4).map fun x => ws.getD (4 * r + x) 0, grd := (upto 4).map fun x => f.grd.getLsbD (4 * r + x), psn := f.psn }

def freeTok (free : Nat → Word) : FnTok :=
  { lanes := (upto 4).map fun x => bitsOf (free x) 0 32, grd := (upto 4).map fun x => (free (4 + x)).getLsbD 0, psn := none }

/-- One lane of a function cell. -/
def fnLane (int : Bool) (op a b : Nat) (ga : Bool) : Nat :=
  let t : Ty := if int then .i32 else .f32
  match op with
  | 1 => if int then (a + b) % 2 ^ 32 else faddCode fmtF32 .rne false 0 a b
  | 2 => if int then a * b % 2 ^ 32 else roundTo fmtF32 .rne false 0 (mulF (t.dec a) (t.dec b))
  | 3 => maxCode t a b
  | 4 => minCode t a b
  | 6 => if ga then a else b
  | _ => a

/-- The guard of a lane of the result, before NOTG. -/
def fnGuard (int : Bool) (op a b : Nat) (ga : Bool) : Bool :=
  match op with
  | 5 => vcond (if int then .i32 else .f32) 4 a b
  | 6 => true
  | _ => ga

/-- One function cell. -/
def fnCell (int : Bool) (w : CtxWord) (a b : FnTok) : FnTok :=
  let op := bitsOf w.val 28 4
  let const := bitsOf w.val 26 2 == 1
  let lane (x : Nat) : Nat := if const then bitsOf w.val 32 32 else b.lanes.getD x 0
  let usesB := op != 0 && !const
  let notg := w.val.getLsbD 20
  { lanes := (upto 4).map fun x => fnLane int op (a.lanes.getD x 0) (lane x) (a.grd.getD x true)
    grd := (upto 4).map fun x => fnGuard int op (a.lanes.getD x 0) (lane x) (a.grd.getD x true) != notg
    psn := [w.code, a.psn, if usesB then b.psn else none].findSome? id }

/-- One row of cells from west to east over the row of results above it: the results, and what leaves to the east. -/
def Kite.fnRow (k : Kite) (tag i : Nat) : Nat → FnTok → List FnTok → List FnTok × FnTok
  | _, a, [] => ([], a)
  | j, a, b :: above =>
    let r := fnCell (k.prec == .i8) (k.ctxWord i j tag) a b
    let (rest, e) := Kite.fnRow k tag i (j + 1) r above
    (r :: rest, e)

/-- The whole kite: results of the southmost row, and of the east edge row by row. -/
def Kite.fnGrid (k : Kite) (free : Nat → Word) (hs : Heads) : List FnTok × List FnTok :=
  let north := (upto k.cols).map fun j => match headAt hs (northPort k.handle (8 * (j / 8))) with
    | some f => sliceOf f (j % 8)
    | none => freeTok fun x => free (8 * j + x)
  (upto k.rows).foldl (fun (acc : List FnTok × List FnTok) i =>
    let a := match headAt hs (westPort k.handle (8 * (i / 8))) with
      | some f => sliceOf f (i % 8)
      | none => freeTok fun x => free (8 * (k.cols + i) + x)
    let (row, e) := k.fnRow (k.rowTag hs i) i 0 a acc.1
    (row, acc.2 ++ [e])) (north, [])

/-! ## Joins of a function kite (R188) -/

/-- Heads of a kite's input lines. -/
def headsOf (ins : List Line) : Heads := ins.filterMap fun l => l.arrived.head?.map fun f => (l.snk, f)

/-- The tags that the first cell row of block row `b` may work under in the next slot: that of its heads; every tag that the
kite takes while a west line down to it shows no token yet. -/
def Kite.tagsAt (k : Kite) (ins : List Line) (b : Nat) : List Nat :=
  if ins.any fun l => l.snk.kind == 3 && l.snk.b / 8 ≤ b && l.arrived.isEmpty then (upto 8).filter k.tags.getLsbD
  else [k.rowTag (headsOf ins) (8 * b)]

/-- Cell (8 · b, j) takes operand b from the north, PASS among the operations (R170, R175). -/
def Kite.joinsCell (k : Kite) (ins : List Line) (b j : Nat) : Bool :=
  (k.tagsAt ins b).any fun tag => bitsOf (k.ctxWord (8 * b) j tag).val 26 2 != 1

/-- A cell of the first row of block row `b` is a join. -/
def Kite.joinsAbove (k : Kite) (ins : List Line) (b : Nat) : Bool := (upto k.cols).any (k.joinsCell ins b)

/-- The first of the block rows that a block row is joined with. -/
def Kite.joined (k : Kite) (ins : List Line) (b : Nat) : Nat :=
  foldUpto (b + 1) (fun n g => if n != 0 && k.joinsAbove ins n then g else n) 0

/-- Ports with one number move together, in one slot: every port of a ws or os kite; in an fn kite those of block rows that a
cell with two inputs joins, and of the north lines whose columns join. A north line that no cell takes passes by itself
(log entry 89). -/
def Kite.group (k : Kite) (ins : List Line) (p : Port) : Nat :=
  if k.mode != 2 then 0
  else match p.kind with
    | 3 | 6 => k.joined ins (p.b / 8)
    | 4 => if (upto 8).any fun j => k.joinsCell ins 0 (p.b + j) then 0 else k.bh + p.b / 8
    | _ => k.joined ins (k.bh - 1)

/-- A token from eight slices: payload, guards, poison. -/
def joinSlices (ts : List FnTok) : List Byte × BitVec 32 × Option Code :=
  (bytes32 (ts.flatMap (·.lanes)), BitVec.ofNat 32 (natOfLanes 1 ((ts.flatMap (·.grd)).map bit)), ts.findSome? (·.psn))

end Sys2Proof.Machine
end

