-- ==== Sys2Proof/Machine/Kites.lean ====
section
/-! DEFINITION. A kite's slots: pairing at its inputs, marks, swaps and emission (R168, R185 to R188); unrouting, freeing
and halting (R190, R191, R318); the configuration unit's turn. -/

namespace Sys2Proof.Machine

/-! ## Halting (R188, R399) -/

def State.kiteInputs (s : State) (k : Kite) : List Line :=
  s.lines.filter fun l => l.part == k.part && (l.snk.kind == 3 || l.snk.kind == 4) && l.snk.kite == k.handle
def State.kiteOutputs (s : State) (k : Kite) : List Line :=
  s.lines.filter fun l => l.part == k.part && (l.src.kind == 5 || l.src.kind == 6) && l.src.kite == k.handle

/-- The reel of a block as the partition left it: where it is scanned out, what is kept of it (R407, R409). -/
def State.ownReel (s : State) (p : Partition) (bx by_ : Nat) : Reel :=
  let n := p.reel bx by_
  match p.saved.find? (·.1 == p.index n) with
  | some x => x.2
  | none => s.reel n

/-- Commands of a line, queued ones among them: the feeds at its source, the drains at its sink. -/
def State.attached (s : State) (l : Line) : List Cmd :=
  match s.partByHandle? l.part with
  | none => []
  | some p =>
    (if l.src.kind == 1 then (s.ownReel p l.src.a l.src.b).feedQ else []) ++
    (if l.snk.kind == 2 then (s.ownReel p l.snk.a l.snk.b).drainQ else [])

/-- A record of class KITE (R384). -/
def State.kiteRecord (s : State) (k : Kite) (sub code : Nat) : State :=
  s.record k.ctx
    { w0 := recordHead clsKite sub 6 false false false k.bx k.by_, handle := word k.handle, pc := 0, addr := 0, word := 0
      info := word code, tick := word s.tick, recordOnly := true }

/-- A kite halts: the commands attached to its lines end with the code. -/
def State.haltKite (s : State) (k : Kite) (code : Nat) : State :=
  if k.halted then s
  else
    let cs := (s.kiteInputs k ++ s.kiteOutputs k).flatMap s.attached
    cs.foldl (fun s c => s.endCmd c.id code) (s.modKite k.handle fun k => { k with halted := true })

/-! ## One slot (R187, R188) -/

/-- The heads pair: all marks or all data, of one round. -/
def headsPair (hs : Heads) : Bool :=
  match hs with
  | [] => true
  | h :: rest => rest.all fun x => x.2.mark == h.2.mark && x.2.rnd == h.2.rnd

/-- The flits at the heads are taken. -/
def State.popHeads (s : State) (ins : List Line) : State :=
  ins.foldl (fun s l => s.modLine l.id fun l => { l with arrived := l.arrived.drop 1 }) s

/-- The planes swap at a mark when a KSWAP awaits one, and its token is written (R168, R318). -/
def State.swapPlanes (s : State) (k : Kite) : State :=
  match k.swap with
  | none => s
  | some c =>
    (s.modKite k.handle fun k => { k with active := k.shadow, shadow := k.active }).endCmd c.id 0

/-- A mark passes: the lower level of the marks at the inputs, in its place on every output. -/
def State.passMark (s : State) (k : Kite) (ins outs : List Line) (hs : Heads) (f : Flit) (lvl : Nat) : State :=
  let s := (s.popHeads ins).swapPlanes k
  outs.foldl (fun s l => s.pushLine l.id (markFlit f.rnd lvl (k.outTag hs l.src))) s

/-- An os kite takes a mark: under the context words that stand now it fixes what is to leave, and clears what emits
(R171, R187). -/
def State.osMark (s : State) (k : Kite) (ins outs : List Line) (hs : Heads) (f : Flit) (lvl : Nat) : State :=
  let free (x : Nat) : Word := Config.freeWord (s.draws + x)
  let slots := k.osSlots free hs (outs.map (·.src)) f.rnd lvl
  let s := { s with draws := s.draws + 8 * k.rows * k.cols }
  let s := s.modKite k.handle fun k => { k.osClear hs lvl with sending := slots }
  (s.popHeads ins).swapPlanes k

/-- The next slot of what an os kite has to send leaves, once each of its lines has room. -/
def State.sendSlot (s : State) (k : Kite) (slot : List (Port × Flit)) (rest : List (List (Port × Flit))) : State :=
  if slot.all fun pf => (s.lineFrom? k.part pf.1).all Line.space then
    let s := slot.foldl (fun (s : State) pf => match s.lineFrom? k.part pf.1 with
      | some l => s.pushLine l.id pf.2
      | none => s) s
    s.modKite k.handle fun k => { k with sending := rest }
  else s

/-- A data token passes: the results on every output, in the round of the inputs. -/
def State.passData (s : State) (k : Kite) (ins outs : List Line) (hs : Heads) (f : Flit) : State :=
  let free (x : Nat) : Word := Config.freeWord (s.draws + x)
  let put (s : State) (l : Line) (d : List Byte) (code : Option Code) (grd : BitVec 32) : State :=
    s.pushLine l.id (dataFlit f.rnd (k.outTag hs l.src) d code grd)
  let s' := { s.popHeads ins with draws := s.draws + 8 * k.cols + 64 * k.rows * k.cols + 8 * k.rows }
  match k.mode with
  | 0 => outs.foldl (fun s l =>
      let (d, code) := k.wsToken free hs l.src.b
      put s l d code (BitVec.allOnes 32)) s'
  | 1 => s'.modKite k.handle fun k => k.osStep free hs
  | _ =>
    let (south, east) := k.fnGrid free hs
    outs.foldl (fun s l =>
      let (d, g, code) := joinSlices (((if l.src.kind == 5 then south else east).drop l.src.b).take 8)
      put s l d code g) s'

/-- One slot of the lines that move together: a flit from the head of every input line, once all stand there and the outputs
have room (R188); a ws kite may be fed by north lines alone. -/
def State.passGroup (s : State) (k : Kite) (g : Nat) : State :=
  let all := s.kiteInputs k
  let ins := all.filter fun l => k.group all l.snk == g
  let outs := (s.kiteOutputs k).filter fun l => k.group all l.src == g
  let hs := headsOf ins
  match hs with
  | [] => s
  | (_, f) :: _ =>
    if (k.mode != 0 && g < k.bh && !ins.any fun l => l.snk.kind == 3) || hs.length != ins.length then s
    else if !headsPair hs then (s.haltKite k 11).kiteRecord k 1 11
    else if k.mode == 1 then
      if f.mark then s.osMark k ins outs hs f (hs.foldl (fun n h => min n h.2.lvl) 3) else s.passData k ins outs hs f
    else if !outs.all Line.space then s
    else if f.mark then s.passMark k ins outs hs f (hs.foldl (fun n h => min n h.2.lvl) 3)
    else s.passData k ins outs hs f

/-- KITE_TOKEN_PASS: a slot of each group of the kite's lines, or the next one of what a mark has made it send. -/
def execKiteTokenPass (kite : Nat) (s : State) : Host.Outcome State Fault Refusal :=
  .next <| match s.kite? kite with
    | none => s
    | some k =>
      if k.halted || !s.partRuns k.part || (s.kiteRows k).any (fun rd => (s.field (rd / 11)).gated) then s
      else match k.sending with
        | slot :: rest => s.sendSlot k slot rest
        | [] => (upto (k.bh + k.bw)).foldl (fun (s : State) g => match s.kite? kite with
          | some k => if k.halted then s else s.passGroup k g
          | none => s) s

/-! ## Unrouting and freeing (R191) -/

/-- A line may go: no command attached and nothing left to deliver, nor to be sent into it; a halted kite takes what it holds
with it. -/
def State.lineQuiet (s : State) (l : Line) : Bool :=
  (s.attached l).isEmpty && l.held == 0 &&
    (s.kite? l.src.kite).all fun k => !l.src.isKite || k.sending.all fun slot => !slot.any (·.1 == l.src)

def State.dropLine (s : State) (id : Nat) : State :=
  match s.lines.find? (·.id == id) with
  | none => s
  | some l =>
    let s := { s with lines := s.lines.filter (·.id != id) }
    -- a kite that no fixed line touches has no rate
    [l.src, l.snk].foldl (fun s p =>
      if p.isKite && !(s.lines.any fun m => !m.elastic && ((m.src.isKite && m.src.kite == p.kite) || (m.snk.isKite && m.snk.kite == p.kite)))
      then s.modKite p.kite fun k => { k with inRate := none, outRate := none } else s) s

def State.kunroute (s : State) (p : Partition) (c : Cmd) : State :=
  match s.portOf p c (bitsOf c.a 0 32) true with
  | .error e => s.endCmd c.id e
  | .ok (src, _) =>
    if src.isKite && (s.kite? src.kite).any (·.halted) then s.endCmd c.id 12
    else match s.lineFrom? p.handle src with
      | none => s.endCmd c.id 0x26
      | some l => if s.lineQuiet l then (s.dropLine l.id).endCmd c.id 0 else s

/-- A kite is gone with its lines; its KSWAP and what waits behind that end CANCELLED (R318). -/
def State.removeKite (s : State) (k : Kite) : State :=
  let behind := s.cmds.filter fun c =>
    c.eng == .config && c.part == k.part && (c.opc == 0xB3 || c.opc == 0xB4) && c.a == word k.handle
  let s := if k.swap.isSome then (k.swap.toList ++ behind).foldl (fun s c => s.endCmd c.id 1) s else s
  let s := (s.kiteInputs k ++ s.kiteOutputs k).foldl (fun s l => s.dropLine l.id) s
  { s with kites := s.kites.filter (·.handle != k.handle) }

def State.kfree (s : State) (c : Cmd) : State :=
  s.onKite c true fun k =>
    let ls := s.kiteInputs k ++ s.kiteOutputs k
    if ls.all fun l => s.lineQuiet l || (k.halted && (s.attached l).isEmpty) then (s.removeKite k).endCmd c.id 0 else s

/-! ## The configuration unit's turn (R190) -/

/-- A KLDW or KSWAP behind a KSWAP that awaits its mark steps aside (R168). -/
def State.swapHeld (s : State) (c : Cmd) : Bool :=
  (c.opc == 0xB3 || c.opc == 0xB4) &&
    s.kites.any fun k => word k.handle == c.a && k.part == c.part && k.ctx == c.ctx && !k.halted && k.swap.isSome

def State.configStep (s : State) (p : Partition) (c : Cmd) : State :=
  match c.opc.toNat with
  | 0xB0 => s.kfuse p c
  | 0xB1 => s.kfree c
  | 0xB2 => s.kctx c
  | 0xB3 => s.kldw c
  | 0xB4 => s.kswap c
  | 0xB5 => s.kmma c
  | 0xB6 => s.kroute p c
  | 0xB7 => s.kunroute p c
  | 0xB8 => s.kqry c
  | _ => s.kclk c

/-- Two commands of one strand: they are performed in their order (R190). -/
def Cmd.sameStrand (c d : Cmd) : Bool := c.reel == d.reel && c.slot == d.slot && c.handle == d.handle

/-- The command whose turn it is: the oldest that is not held behind a swap, nor follows one of its strand that is
(R168, R347). -/
def State.configTurn? (s : State) (p : Partition) : Option Cmd :=
  p.cfgQ.find? fun c => !s.swapHeld c && !p.cfgQ.any fun d => d.id < c.id && d.sameStrand c && s.swapHeld d

/-- Fields whose row domains a command needs: that of its reel, for its token, and those of the blocks it fuses, or of its kite's;
routers run without them (R450). -/
def State.configFields (s : State) (p : Partition) (c : Cmd) : List Nat :=
  fieldOfReel c.reel :: match c.opc.toNat with
  | 0xB0 => ((s.cmdBlocks p c).map fieldOfReel).eraseDups
  | 0xB6 | 0xB7 => []
  | _ => ((s.kites.filter fun k => word k.handle == c.a).flatMap fun k => (s.kiteRows k).map (· / 11)).eraseDups

/-- CONFIG_UNIT_PERFORM: the command whose turn it is is performed, whole, or waits; one that needs a gated field waits for its
clocks (R450). -/
def execConfigUnitPerform (part : Nat) (s : State) : Host.Outcome State Fault Refusal :=
  .next <| match s.partByHandle? part with
    | none => s
    | some p =>
      if p.suspended then s
      else match s.configTurn? p with
        | none => s
        | some c =>
          if c.ending.isSome then s.settleCmd c
          else if c.held.isSome || c.walk.isSome || !s.cmdReady c then s
          else if (s.configFields p c).any fun f => (s.field f).gated then s
          else
            let c := { c with started := true }
            (s.setCmd c).configStep p c

/-! ## RETRY, ECANCEL and ESTAT at an engine (R309 to R313) -/

/-- The held request of a command is translated again and goes out, or is held anew (R311). -/
def State.reissue (s : State) (t : Cmd) : State :=
  if t.eng == .config then
    match s.partByHandle? t.part with
    | some p => s.configStep p t
    | none => s
  else (s.cmdUnit t 0).1

/-- RETRY goes on until the request of its target has gone out, or is held anew. -/
def State.retryUnit (s : State) (c t : Cmd) : State :=
  let s := s.reissue { t with held := none }
  if (s.cmd? t.id).any fun t => t.walk.isSome then s.modCmd c.id fun c => { c with stage := 1, i1 := t.id }
  else s.endCmd c.id 0

/-- RETRY, ECANCEL or ESTAT reaches the engine; a RETRY whose target's translation has needed a walk goes on after it. -/
def State.controlUnit (s : State) (c : Cmd) : State :=
  if c.stage == 1 then
    match s.cmd? c.i1 with
    | some t =>
      if t.walk.isSome then s
      else if t.held.isSome || t.ending.isSome then s.endCmd c.id 0
      else s.retryUnit c t
    | none => s.endCmd c.id 0
  else match s.target c with
    | (code, none) => s.endCmd c.id code
    | (_, some t) =>
      match c.opc.toNat with
      | 0xAC => if t.held.isNone then s.endCmd c.id 13 else (s.setCmd { t with held := none }).retryUnit c t
      | 0xAD =>
        if t.eng == .config && (t.opc != 0xB3 || t.held.isNone) then s.endCmd c.id 13
        else if t.ending.isSome || t.atHome then s.endCmd c.id 0
        else (s.endCmd t.id 1).endCmd c.id 0
      | 0xAE => (s.cmdStrand c fun r => r.setS c.sd (SReg.clean (s.estatWord t (c.bits 6 3)))).endCmd c.id 0
      | _ => s

/-- ENGINE_UNIT_DONE: units of a command are done, or a command that has ended writes its token (R292, R293). -/
def execEngineUnitDone (id n : Nat) (s : State) : Host.Outcome State Fault Refusal :=
  .next <| match s.cmd? id with
    | none => s
    | some c =>
      if c.ending.isSome then s.settleCmd c
      else match c.eng with
        | .walk => if c.opc == 0xA2 || !s.cmdReady c || !s.partRuns c.part then s else s.controlUnit c
        | .config => s
        | _ => unitSteps id n s

end Sys2Proof.Machine
end

