-- ==== Sys2Proof/Machine/Walks.lean ====
section
/-! DEFINITION. A page walk in a field's walkers (R401, R403, R404): what it leaves to the strand or the engine command
that awaits it. -/

namespace Sys2Proof.Machine

/-- The requester no longer awaits the walk. -/
def State.walkOver (s : State) (w : Walk) : State :=
  let s := { s with walks := s.walks.filter (·.id != w.id) }
  match w.who with
  | .strand r => s.modSlot r fun t => if t.walk == some w.id then { t with walk := none } else t
  | .cmd id => s.modCmd id fun c => if c.walk == some w.id then { c with walk := none } else c

/-- Somebody awaits the walk. -/
def State.walkWanted (s : State) (w : Walk) : Bool :=
  match w.who with
  | .strand r => (s.slot r).walk == some w.id
  | .cmd id => (s.cmd? id).any fun c => c.walk == some w.id

/-- A walk fails: a strand faults, at its access or when its word would issue; an engine command is held (R386, R295). -/
def State.walkFails (s : State) (w : Walk) (t : Trap) : State :=
  let s := s.walkOver w
  match w.who with
  | .strand r =>
    if w.acc == .fetch then
      let poison := t.cls == clsPoison
      let ff : FetchFail := { poison := poison, sub := t.sub, level := t.info.toNat % 8,
                              code := if poison then t.info.extractLsb' 0 32 else 0 }
      s.modSlot r fun k => { k with fetchFail := some ff }
    else s.takeFault r t (s.heldWord r)
  | .cmd id => match s.cmd? id with
    | some c => s.holdCmd c t
    | none => s

/-- PAGE_WALK: the walk ends; a stale one starts again first (R404). -/
def execPageWalk (id : Nat) (s : State) : Host.Outcome State Fault Refusal :=
  .next <| match s.walks.find? (·.id == id) with
    | none => s
    | some w =>
      if !s.walkServed w then s
      else if !s.walkWanted w then s.walkOver w
      else if w.stale then
        { s with walks := listMod (fun x => x.id == id) (fun x => { x with stale := false }) s.walks }
      else match s.walk w.field w.ctx w.va w.acc with
        | .held => s
        | .leaf l ps => (s.walkOver w).install w.reel l ps
        | .fault t => s.walkFails w t

end Sys2Proof.Machine
end

