-- ==== Sys2Proof/Machine/Queues.lean ====
section
/-! DEFINITION. Hardware queues and their dispatchers: fetching (R357, R358), errors (R359), packets (R360 to R364),
choosing and starting (R365 to R369), completing and killing tasks (R22, R370). -/

namespace Sys2Proof.Machine

def State.queue (s : State) (q : Nat) : Queue := s.queues.get Queue.reset q
def State.setQueue (s : State) (q : Nat) (x : Queue) : State := { s with queues := s.queues.put Queue.reset q x }
def State.modQueue (s : State) (q : Nat) (f : Queue → Queue) : State := s.setQueue q (f (s.queue q))

/-- The anchor reel of a queue's partition (R20). -/
def State.anchorOf (s : State) (x : Queue) : Nat :=
  match s.part? x.ctx x.part with
  | some p => p.reel 0 0
  | none => 0

/-! ## The device's own accesses in a context's space -/

/-- Where an address of a context lies for the device itself, with the permissions of user mode (R358, R364). -/
inductive Found where
  | at_ (pa : Nat) (kv : Bool)
  /-- The page table is being rewritten: its invalidations are out. -/
  | wait
  | fail
  deriving DecidableEq, Repr

def State.ownLeaf (s : State) (l : Leaf) (va : Word) (acc : Access) : Found :=
  match s.checkLeaf l va acc .user with
  | .ok pa e => .at_ pa (pteKv e)
  | _ => .fail

/-- Translation at a field; `hold` false takes the page table as its homes hold it now. -/
def State.ownXlate (s : State) (hold : Bool) (f c : Nat) (va : Word) (acc : Access) : Found :=
  if bitsOf va 56 8 != 0 then .fail
  else match (s.field f).tlb.find? (·.covers c va) with
    | some l => s.ownLeaf l va acc
    | none => match (if hold then s else { s with dirs := [] }).walk f c va acc with
      | .held => .wait
      | .fault _ => .fail
      | .leaf l _ => s.ownLeaf l va acc

/-- A read of the page waits: it is being converted, the line's invalidations are out, or no port reaches it (R153, R159,
R399). -/
def State.ownReadHeld (s : State) (f pa : Nat) (kv : Bool) : Bool :=
  (kv && s.kvClosed (pa / 65536)) || s.readHeld f pa || s.hostDown pa

/-- A conversion counts an access of a queue that it holds (R463). -/
def State.ownHold (s : State) (q pa : Nat) (kv : Bool) : State :=
  if kv then s.noteHold (pa / 65536) (2 ^ 90 + q) else s

/-! ## Errors (R359) -/

/-- The 64 bytes of an error record. -/
def errorRecord (code seq index : Nat) (addr : Word) (tick sigfail killed : Nat) : List PByte :=
  wordBytes (word (code % 65536 + (seq % 65536) <<< 16)) ++ wordBytes (word index) ++ wordBytes addr ++
  wordBytes (word tick) ++ wordBytes (word (sigfail % 2 ^ 32 + (killed % 2 ^ 32) <<< 32)) ++ cleanBytes (List.replicate 24 0)

/-- The error record of an event of a queue, with where it goes. -/
def State.recordFor (s : State) (x : Queue) (bytes : List PByte) : ErrorRecord :=
  { bytes := bytes, errrec := x.errrec, field := fieldOfReel (s.anchorOf x), ctx := x.ctx, port := (s.ctx x.ctx).irqPort }

/-- Where ERRREC of a record leads. -/
def State.errorFound (s : State) (e : ErrorRecord) : Found :=
  if e.errrec == 0 then .fail else s.ownXlate false e.field e.ctx e.errrec .write

/-- Where an error record is written: nowhere, or later, behind a conversion or with a port up again (R159, R399). -/
def State.errorAt (s : State) (e : ErrorRecord) : Found :=
  match s.errorFound e with
  | .at_ pa kv =>
    if kv && s.kvJudge (pa / 65536) false == .refuse then .fail
    else if (kv && s.kvClosed (pa / 65536)) || s.hostDown pa then .wait
    else .at_ pa kv
  | x => x

/-- The line of a queue's error records. -/
def State.errorLine (s : State) (n : Nat) : Option Nat :=
  match s.errorFound (s.recordFor (s.queue n) []) with
  | .at_ pa _ => some (pa / 256)
  | _ => none

/-- A conversion counts the error record that it holds (R463). -/
def State.errorHeld (s : State) (n : Nat) (e : ErrorRecord) : State :=
  match s.errorFound e with
  | .at_ pa true => s.noteHold (pa / 65536) (2 ^ 92 + n)
  | _ => s

/-- Error records of a queue are written in their order, each with the vector behind it, until one has to wait; one that cannot
be written leaves the vector alone. -/
def State.writeErrors (s : State) (n : Nat) : List ErrorRecord → State
  | [] => s.modQueue n fun x => { x with errors := [] }
  | e :: rest =>
    match s.errorAt e with
    | .at_ pa _ => ((s.homeWrite noField true pa e.bytes).msixAfter [pa / 256] e.port 64).writeErrors n rest
    | .fail => (s.msix e.port 64).writeErrors n rest
    | .wait => (s.errorHeld n e).modQueue n fun x => { x with errors := e :: rest }

/-- An event of a queue: ERRCODE, the record behind those that wait, the vector behind it; a faulting one stops the queue. -/
def State.queueEvent (s : State) (n code seq index : Nat) (addr : Word) (fault : Bool) : State :=
  let s := s.modQueue n fun x =>
    { x with errcode := code
             state := if fault && (x.state == .active || x.state == .paused) then .faulted else x.state
             mismatch := if fault then none else x.mismatch }
  let x := s.queue n
  s.writeErrors n (x.errors ++ [s.recordFor x (errorRecord code seq index addr s.tick x.sigfail x.killed)])

/-- DRAINING ends (R356). -/
def State.drainQueue (s : State) (n : Nat) : State :=
  let x := s.queue n
  if x.state == .draining && x.inflt == 0 && x.head.isNone && x.watch.isNone && x.mismatch.isNone then
    s.setQueue n { x with state := .disabled }
  else s

/-! ## Packets (R360 to R363) -/

def pkWord (ws : List Word) (i : Nat) : Word := ws.getD i 0

def Packet.type (p : Packet) : Nat := bitsOf (pkWord p.words 0) 0 8
def Packet.barrier (p : Packet) : Bool := (pkWord p.words 0).getLsbD 8
def Packet.cls (p : Packet) : Nat := bitsOf (pkWord p.words 0) 9 3
def Packet.irq (p : Packet) : Bool := (pkWord p.words 0).getLsbD 12
def Packet.seq (p : Packet) : Nat := bitsOf (pkWord p.words 0) 16 16

/-- Word of SIGADDR; SIGVAL and SIGKIND follow it. -/
def Packet.sigAt (p : Packet) : Nat :=
  match p.type with
  | 1 => 3
  | 2 => 13
  | _ => 1
def Packet.sigAddr (p : Packet) : Word := pkWord p.words p.sigAt
def Packet.sigVal (p : Packet) : Word := pkWord p.words (p.sigAt + 1)
def Packet.sigKind (p : Packet) : Nat := bitsOf (pkWord p.words (p.sigAt + 2)) 0 8

def Packet.depAddr (p : Packet) (i : Nat) : Word := pkWord p.words (1 + 3 * i)
def Packet.depVal (p : Packet) (i : Nat) : Word := pkWord p.words (2 + 3 * i)
def Packet.depCond (p : Packet) (i : Nat) : Nat := bitsOf (pkWord p.words (3 + 3 * i)) 0 8

/-- Reserved bytes behind SIGKIND are zero, SIGADDR is a multiple of 8, SIGKIND is 0 or 1. -/
def Packet.sigOk (p : Packet) : Bool :=
  bitsOf p.sigAddr 0 3 == 0 && (pkWord p.words (p.sigAt + 2)).toNat ≤ 1 && (p.words.drop (p.sigAt + 3)).all (· == 0)

/-- A dependency entry keeps its layout (R362). -/
def Packet.depOk (p : Packet) (i : Nat) : Bool :=
  (pkWord p.words (3 + 3 * i)).toNat ≤ 4 && bitsOf (p.depAddr i) 0 3 == 0

/-- The layout of R360 to R363. -/
def Packet.ok (p : Packet) : Bool :=
  let w := pkWord p.words 0
  bitsOf w 13 3 == 0 && bitsOf w 32 32 == 0 && (p.cls == 0 || p.type == 1) && (!p.irq || p.type == 3) &&
  match p.type with
  | 1 => bitsOf (pkWord p.words 1) 0 3 == 0 && p.sigOk
  | 2 => (upto 4).all p.depOk && p.sigOk
  | 3 => p.sigOk
  | 4 => true
  | _ => false

/-! ## The doorbell and fetching (R357, R358) -/

/-- A doorbell write at its arrival; SEQ, index and address of an overflow's record are free (log entry 2). -/
def State.ring (s : State) (q : Nat) (v : Word) : State :=
  let x := s.queue q
  if !(x.state == .active || x.state == .paused) || v.toNat ≤ x.wridx then s
  else if x.rdidx + 2 ^ x.logn < v.toNat then
    let (a, s) := s.drawWord
    let (b, s) := s.drawWord
    let (c, s) := s.drawWord
    s.queueEvent q 5 a.toNat b.toNat c true
  else s.setQueue q { x with wridx := v.toNat }

/-- DOORBELL. -/
def execDoorbell (q : Nat) (v : Word) (s : State) : Host.Outcome State Fault Refusal :=
  .next (if q < 1024 then s.ring q v else s)

/-- Reads packet RDIDX and judges it; `failed` for bytes from host memory that arrive with a completion error. -/
def State.fetchPacket (s : State) (q : Nat) (failed : Bool) : State :=
  let x := s.queue q
  let n := x.rdidx
  let f := fieldOfReel (s.anchorOf x)
  let va := x.ring + word (128 * (n % 2 ^ x.logn))
  match s.ownXlate true f x.ctx va .read with
  | .wait => s
  | .fail => (s.queueEvent q 2 n n va true).drainQueue q
  | .at_ pa kv =>
    if s.ownReadHeld f pa kv then s.ownHold q pa kv
    else
      let bs := s.memBytes pa 128
      if (firstCode bs).isSome || (failed && hostBase ≤ pa) then (s.queueEvent q 1 n n va true).drainQueue q
      else
        let ws := (upto 16).map fun i => word (natOfBytes (plainBytes ((bs.drop (8 * i)).take 8)))
        let p : Packet := { index := n, words := ws, started := false, met := 0, signalled := none }
        if p.seq != n % 65536 then
          match x.mismatch with
          | none => s.setQueue q { x with mismatch := some s.tick }
          | some t => if t + 100000 ≤ s.tick then (s.queueEvent q 3 p.seq n va true).drainQueue q else s
        else if !p.ok then (s.queueEvent q 4 n n va true).drainQueue q
        else s.setQueue q { x with rdidx := (n + 1) % 2 ^ 64, head := some p, mismatch := none }

/-- PACKET_FETCH. -/
def execPacketFetch (q : PacketRead) (s : State) : Host.Outcome State Fault Refusal :=
  let x := s.queue q.queue
  .next <| if x.state == .active && x.rdidx < x.wridx && x.head.isNone && x.mismatch.isNone then s.fetchPacket q.queue q.failed
    else s

/-- SEQ_RECHECK: the fetch in progress reads the packet again, in PAUSED and DRAINING too (R356, R370). -/
def execSeqRecheck (q : PacketRead) (s : State) : Host.Outcome State Fault Refusal :=
  .next (if (s.queue q.queue).mismatch.isSome then s.fetchPacket q.queue q.failed else s)

/-! ## Signals (R364) -/

inductive SigEnd where
  | written (s : State) (line : Nat)
  /-- No address, so nothing to write. -/
  | nothing
  | failed
  | wait (s : State)

/-- A signal write at its home, which keeps a record of it for the dispatcher's reel (R364, R400). -/
def State.signal (s : State) (reel c : Nat) (addr val : Word) (kind : Nat) : SigEnd :=
  let f := fieldOfReel reel
  if addr == 0 then .nothing
  else match s.ownXlate true f c addr .write with
    | .wait => .wait s
    | .fail => .failed
    | .at_ pa kv =>
      let put (v : Word) : SigEnd :=
        let (id, s) := s.fresh
        .written ((s.homeWrite noField true pa (wordBytes v)).keepReplay reel (s.homeField pa) id) (pa / 256)
      if kv && kind == 1 then .failed
      else if kv && s.kvJudge (pa / 65536) false == .refuse then .failed
      else if kv && s.kvClosed (pa / 65536) then .wait (s.noteHold (pa / 65536) (2 ^ 91 + reel))
      else if s.hostDown pa || s.replayFull reel (s.homeField pa) then .wait s
      else if kind == 1 then
        if s.readHeld f pa then .wait s
        else
          let old := s.memBytes pa 8
          if (firstCode old).isSome then .written s (pa / 256)
          else put (word (natOfBytes (plainBytes old)) + val)
      else put val

/-- SIGNAL_UNMAPPED: counted and recorded. -/
def State.signalFails (s : State) (q seq index : Nat) (addr : Word) : State :=
  (s.modQueue q fun x => { x with sigfail := x.sigfail + 1 }).queueEvent q 7 seq index addr false

/-- The signal's line, or where it failed the error record's, is performed at system scope, and no error record of the queue
waits (R364, R372). -/
def State.signalDone (s : State) (q : Nat) (line : Option Nat) : Bool :=
  (s.queue q).errors.isEmpty && (line.or (s.errorLine q)).all s.lineDone

/-- Once the signal is performed, or the record of its failure, `done`; until then `later`. -/
def State.afterLine (s : State) (q : Nat) (line : Option Nat) (done : State → State) (later : Option Nat → State → State) : State :=
  if s.signalDone q line then done s else later line s

/-! ## Choosing (R366 to R369) -/

/-- The head packet of a queue may start. -/
def State.mayStart (s : State) (p : Partition) (x : Queue) : Bool :=
  match x.head with
  | none => false
  | some k =>
    (x.state == .active || x.state == .paused || x.state == .draining) && x.part == p.handle && x.ctx == p.ctx &&
    !p.suspended && x.watch.isNone && (!k.barrier || x.inflt == 0) &&
    (k.type != 1 || (x.inflt < 64 && s.reelFree (p.reel 0 0) && ((s.reel (p.reel 0 0)).freeSlot?).isSome))

/-- The queue that the partition's dispatcher starts next: highest QPRIO, then the rotation of its level. -/
def State.chosen (s : State) (p : Partition) : Option Nat :=
  let cs := s.queues.filter fun q => s.mayStart p q.2
  let top := cs.foldl (fun n q => max n q.2.qprio) 0
  let ks := (cs.filter fun q => q.2.qprio == top).map (·.1)
  let ptr := s.qptr.get 0 (32 * p.handle + top)
  (ks.find? fun k => ptr ≤ k).or ks.head?

/-- Takes the head packet of a queue, if its dispatcher chooses it and it has the type. -/
def State.takeHead (s : State) (q type : Nat) : Option (Partition × Packet × State) :=
  let x := s.queue q
  match s.part? x.ctx x.part, x.head with
  | some p, some k =>
    if k.type == type && s.chosen p == some q then
      some (p, { k with started := true },
        { s.setQueue q { x with head := none } with qptr := s.qptr.put 0 (32 * p.handle + x.qprio) ((q + 1) % 1024) })
    else none
  | _, _ => none

/-! ## Starting (R365) -/

/-- A task that runs alone finds barriers and collectives as at their start (R257); a suspended victim's rounds on reels that
are not yet scanned out stay as they are (R262, R407). -/
def State.freshPartition (s : State) (p : Partition) : State :=
  if s.tasks.any (·.part == p.handle) then s
  else
    let s := s.modPart p.handle fun p => { p with barriers := [], colls := [] }
    (s.reels.keys.filter fun n => p.hasReel n && s.reelFree n).foldl (fun s n => s.modReel n fun x => { x with collRound := [] }) s

/-- LAUNCH: the master strand on the anchor reel, once its clocks run, as an acquire at system scope (R365, R450). -/
def execLaunchPacket (q : Nat) (s : State) : Host.Outcome State Fault Refusal :=
  .next <| match s.takeHead q 1 with
    | none => s
    | some (p, k, t) =>
      let anchor := p.reel 0 0
      if !s.reelRuns anchor then s
      else
      let s := t
      let x := s.queue q
      match (s.reel anchor).freeSlot? with
      | none => s
      | some n =>
        let s := s.freshPartition p
        let (id, s) := s.fresh
        let t : Task :=
          { id := id, ctx := x.ctx, part := p.handle, queue := q, index := k.index, seq := k.seq, sigAddr := k.sigAddr
            sigVal := k.sigVal, sigKind := k.sigKind, barrier := k.barrier, kitesFused := 0, killed := false
            signalled := none }
        let s := { s with tasks := s.tasks ++ [t] }.modQueue q fun x => { x with inflt := x.inflt + 1 }
        let r : StrandRef := { reel := anchor, slot := n }
        let s := s.acquireNow r 4
        (s.startStrand r x.ctx (some id) p.handle .user (bitsOf x.cls (5 * k.cls) 5) (pkWord k.words 1)
          (SReg.clean (pkWord k.words 2)) (SReg.clean (word p.handle)) (SReg.clean (word k.seq))).2

/-- The packet in progress writes its signal, and completes once that is performed. -/
def State.finishWatch (s : State) (q : Nat) : State :=
  let x := s.queue q
  match x.watch with
  | none => s
  | some k =>
    let done (s : State) : State :=
      let s := (s.modQueue q fun x => { x with watch := none }).drainQueue q
      if k.irq then s.msix (s.ctx x.ctx).irqPort x.ctx else s
    match k.signalled with
    | some line => if s.signalDone q line then done s else s
    | none =>
      let later (line : Option Nat) (s : State) : State :=
        s.modQueue q fun x => { x with watch := some { k with signalled := some line } }
      match s.signal (s.anchorOf x) x.ctx k.sigAddr k.sigVal k.sigKind with
      | .wait s => s
      | .nothing => done s
      | .failed => (s.signalFails q k.seq k.index k.sigAddr).afterLine q none done later
      | .written s line => s.afterLine q (some line) done later

/-- SIGNAL: it starts by being written; a later run of the step completes it. -/
def execSignalPacket (q : Nat) (s : State) : Host.Outcome State Fault Refusal :=
  .next <| match (s.queue q).watch, s.takeHead q 3 with
    | some k, _ => if k.type == 3 then s.finishWatch q else s
    | none, some (_, k, s) => (s.modQueue q fun x => { x with watch := some k }).finishWatch q
    | none, none => s

/-- NOP: it starts and completes at once. -/
def execNopPacket (q : Nat) (s : State) : Host.Outcome State Fault Refusal :=
  .next <| match s.takeHead q 4 with
    | none => s
    | some (_, _, s) => s.drainQueue q

/-- A dependency's condition (R362). -/
def depHolds (cond : Nat) (v want : Word) : Bool :=
  match cond with
  | 1 => v == want
  | 2 => v != want
  | 3 => want ≤ v
  | 4 => v < want
  | _ => true

/-- An entry's word is read; a poisoned one satisfies nothing. -/
def State.readDep (s : State) (q i : Nat) : State :=
  let x := s.queue q
  match x.watch with
  | none => s
  | some k =>
    if k.type != 2 || k.met.getLsbD i || k.signalled.isSome then s
    else
      let met (s : State) : State := s.modQueue q fun x => { x with watch := some { k with met := setBit k.met i true } }
      if k.depCond i == 0 then met s
      else
        let f := fieldOfReel (s.anchorOf x)
        match s.ownXlate true f x.ctx (k.depAddr i) .read with
        | .wait => s
        | .fail =>
          ((s.modQueue q fun x => { x with watch := none }).queueEvent q 6 k.seq k.index (k.depAddr i) true).drainQueue q
        | .at_ pa kv =>
          let bs := s.memBytes pa 8
          if s.ownReadHeld f pa kv then s.ownHold q pa kv
          else if (firstCode bs).isSome then s
          else if depHolds (k.depCond i) (word (natOfBytes (plainBytes bs))) (k.depVal i) then met s
          else s

/-- Every used entry is satisfied: the signal follows. -/
def State.watchDone (s : State) (q : Nat) : State :=
  if (s.queue q).watch.any fun k => k.type == 2 && k.met == 15 then s.finishWatch q else s

/-- BARRIER_AND: the watch begins, and each word is read once. -/
def execBarrierAndPacket (q : Nat) (s : State) : Host.Outcome State Fault Refusal :=
  .next <| match s.takeHead q 2 with
    | none => s
    | some (_, k, s) =>
      let s := s.modQueue q fun x => { x with watch := some k }
      ((upto 4).foldl (fun s i => s.readDep q i) s).watchDone q

/-- DEP_WATCH_WAKE: an entry's word was written, or the signal of a satisfied packet goes on. -/
def execDepWatchWake (q entry : Nat) (s : State) : Host.Outcome State Fault Refusal :=
  .next ((if entry < 4 then s.readDep q entry else s).watchDone q)

/-! ## The end of a task (R15, R22) -/

def State.task? (s : State) (id : Nat) : Option Task := s.tasks.find? (·.id == id)

/-- A strand, an unanswered SPAWN or an unwritten token of the task is left. -/
def State.taskBusy (s : State) (id : Nat) : Bool :=
  (s.reels.any fun rx => rx.2.slots.any fun t => t.2.phase != .free && t.2.task == some id) ||
  (s.parts.any fun p => p.saved.any fun ix => ix.2.slots.any fun t => t.2.phase != .free && t.2.task == some id) ||
  (s.spawns.any fun sp => sp.task == some id) || s.cmds.any fun c => c.task == some id

/-- The task's own kites and lines go (R15). -/
def State.releaseFabric (s : State) (id : Nat) : State :=
  let s := (s.kites.filter fun k => k.task == some id).foldl (fun s k => s.removeKite k) s
  (s.lines.filter fun l => l.task == some id).foldl (fun s l => s.dropLine l.id) s

/-- The task leaves: INFLT falls, and a DRAINING queue may end. -/
def State.taskLeaves (s : State) (t : Task) : State :=
  ({ s with tasks := s.tasks.filter (·.id != t.id) }.modQueue t.queue fun x => { x with inflt := x.inflt - 1 }).drainQueue t.queue

/-- Dirty sectors of the partition's reels start for their homes. -/
def State.flushTask (s : State) (p : Partition) : State :=
  (s.reels.keys.filter p.hasReel).foldl (fun s n =>
    (((s.reel n).l1.filter fun kv => kv.2.dirty != 0).map (·.1)).foldl (fun s k => s.l1Evict n k) s) s

/-- Every write of the task is performed at system scope (R22). -/
def State.taskWritten (s : State) (p : Partition) (id : Nat) : Bool :=
  (s.reqs.all fun q => s.reqDone q 4 || !(q.task == some id || (p.hasReel q.reel && q.op == .writeback))) &&
  s.dirs.all fun d => !d.2.snoop

/-- TASK_COMPLETE: the fabric first, then the completion value behind every write of the task, then EV1 (R22, R216). -/
def execTaskComplete (task : Nat) (s : State) : Host.Outcome State Fault Refusal :=
  .next <| match s.task? task with
    | none => s
    | some t =>
      if s.taskBusy task then s
      else
        let s := s.releaseFabric task
        if t.killed then s.taskLeaves t
        else
          let done (s : State) : State := (s.taskLeaves t).evAdd t.ctx 1
          match t.signalled with
          | some line => if s.signalDone t.queue line then done s else s
          | none => match s.partByHandle? t.part with
            | none => s
            | some p =>
              let s := s.flushTask p
              let later (line : Option Nat) (s : State) : State :=
                { s with tasks := listMod (fun x => x.id == task) (fun x => { x with signalled := some line }) s.tasks }
              if !s.taskWritten p task then s
              else match s.signal (p.reel 0 0) t.ctx t.sigAddr t.sigVal t.sigKind with
                | .wait s => s
                | .nothing => done s
                | .failed => (s.signalFails t.queue t.seq t.index t.sigAddr).afterLine t.queue none done later
                | .written s line => s.afterLine t.queue (some line) done later

/-! ## Killing (R27, R32, R370) -/

/-- A strand of a killed task: FREE once its tokens are written. -/
def State.killStrand (s : State) (r : StrandRef) : State :=
  let c := (s.reel r.reel).cycle
  let s := s.modSlot r fun t =>
    { t.killAll c with phase := .draining, wait := .none, walk := none, fetchFail := none, kvHold := none, spawns := 0
                       resume := none, p := [], m := [] }
  s.settleDraining r

/-- A killed task's state that was scanned out is gone. -/
def Reel.without (x : Reel) (id : Nat) : Reel :=
  let keep : List Cmd → List Cmd := List.filter fun c => c.task != some id
  { x with slots := x.slots.filter fun t => t.2.task != some id, feedQ := keep x.feedQ, kvQ := keep x.kvQ
           drainQ := keep x.drainQ, copyQ := keep x.copyQ, ctlQ := keep x.ctlQ }

/-- Open rounds of collectives that strands of the task have contributed to are discarded (R262). -/
def State.dropRounds (s : State) (t : Task) : State :=
  s.modPart t.part fun p =>
    let ids := (p.colls.filter fun c => c.task == some t.id).map fun c => (c.id, c.round)
    { p with colls := p.colls.filter fun c => !ids.contains (c.id, c.round) }

/-- A contribution to a collective that still waits behind its release. -/
def Req.contributes (q : Req) : Bool :=
  q.stage == .sent && (match q.op with | .coll _ _ => true | _ => false)

/-- Kills a task in flight: tokens CANCELLED, slots FREE, fabric released, no completion value; its queue records the code. A
task whose completion value is written is complete but for its acknowledgements, and is not killed any more; a BARA of the task
that still waits behind its release arrives later, at the barrier as it then stands (R257, R370; DESIGN CHOICE, log entry 47). -/
def State.killTask (s : State) (t : Task) (code : Nat) : State :=
  if t.killed || t.signalled.isSome then s
  else
    let s := { s with tasks := listMod (fun x => x.id == t.id) (fun x => { x with killed := true }) s.tasks
                      spawns := s.spawns.filter fun sp => sp.task != some t.id
                      reqs := s.reqs.filter fun q => q.task != some t.id || !q.contributes }
    let s := (s.dropRounds t).killCmds t.id
    let s := s.modPart t.part fun p => { p with saved := p.saved.map fun ix => (ix.1, ix.2.without t.id) }
    let mine := (s.strands.filter fun x => x.2.task == some t.id && x.2.phase != .free).map (·.1)
    let s := (mine.foldl (fun s r => s.killStrand r) s).releaseFabric t.id
    let (a, s) := s.drawWord
    let s := (s.modQueue t.queue fun x => { x with killed := x.killed + 1 }).queueEvent t.queue code t.seq t.index a false
    if s.taskBusy t.id then s else s.taskLeaves t

/-- DESTROY with KILL's part beyond DESTROY (R370). -/
def State.killQueue (s : State) (q : Nat) : State :=
  let s := s.modQueue q fun x =>
    { x with head := none, mismatch := none, watch := x.watch.filter fun k => k.type != 2 }
  ((s.tasks.filter fun t => t.queue == q).foldl (fun s t => s.killTask t 8) s).drainQueue q

end Sys2Proof.Machine
end

