-- ==== Sys2Proof/Machine/HostPorts.lean ====
section
/-! DEFINITION. What arrives over host and peer ports: host reads and writes of device memory (R154, R374), snoops
(R375), peer transfers (R377, R378), and links that replay, go down and train again (R371, R380, R398, R399). -/

namespace Sys2Proof.Machine

/-! ## Host accesses (R154, R374) -/

/-- The range lies in the HDM-DB range. -/
def inHdm (pa n : Nat) : Bool := n != 0 && pa + n ≤ dramTop

/-- Bytes that arrive from outside: those marked poisoned create an origin code of their KIND (R394). -/
def State.arrivedBytes (s : State) (kind pa : Nat) (bytes : List Byte) (poisoned : Bool) : List PByte × State :=
  if poisoned then
    let (c, s) := s.rasAppend kind 63 1 true (word pa) 0
    (bytes.map fun b => (b, some c), s)
  else (cleanBytes bytes, s)

/-- HOST_MEM_WRITE: applied at its home, or later where order or a conversion holds it. -/
def execHostMemWrite (port pa : Nat) (bytes : HostBytes) (relaxed : Bool) (s : State) : Host.Outcome State Fault Refusal :=
  .next <|
    if port < 4 && (s.hostPort port).serves && inHdm pa bytes.bytes.length then
      let (l, s) := s.arrivedBytes 11 pa bytes.bytes bytes.poisoned
      let (id, s) := s.fresh
      (s.modHostPort port fun h =>
        { h with writes := h.writes ++ [{ id := id, pa := pa, bytes := l, relaxed := relaxed }] }).settleHost
    else s

/-- HOST_MEM_READ: served at its home, which keeps the host bit of each line. -/
def execHostMemRead (port pa n : Nat) (s : State) : Host.Outcome State Fault Refusal :=
  .next <|
    if !(port < 4 && (s.hostPort port).serves && inHdm pa n) then s
    else if (pagesOf pa n).any s.kvClosed then s.noteHolds (2 ^ 80 + 4 * pa + port) (pagesOf pa n)
    else if (linesOf pa n).any fun l => !s.lineDone l then s
    else
      let s' := (linesOf pa n).foldl (fun (s : State) l => s.setDir l { s.dir l with host := true }) s
      s'.sendAfter [] (.hostData port pa (s.memBytes pa n))

/-- The host takes a line away that a port holds shared, and each waiter on it reads again. -/
def State.snoopLine (s : State) (line : Nat) : State :=
  match (upto 4).find? fun p => (s.hostPort p).serves && (s.hostPort p).watched.contains line with
  | none => s
  | some p =>
    let s := s.modHostPort p fun h => { h with watched := h.watched.filter (· != line) }
    (s.watchers line).foldl (fun s r => s.checkWaita r) s

/-- HOST_SNOOP: the host snoops its lines away and writes them (R375). -/
def execHostSnoop (pa : Nat) (bytes : HostBytes) (s : State) : Host.Outcome State Fault Refusal :=
  .next <|
    let n := bytes.bytes.length
    if n == 0 || pa < hostBase || hostTop < pa + n then s
    else
      let (l, s) := s.arrivedBytes 11 pa bytes.bytes bytes.poisoned
      (linesOf pa n).foldl State.snoopLine (s.putMem pa l)

/-! ## Peer windows (R377, R378) -/

def State.peerWindow (s : State) (w : Nat) : PeerWindow := s.peerWins.get PeerWindow.reset w

/-- Parts of a range of virtual addresses, cut at pages. -/
def vaParts : Nat → Word → List PByte → List (Word × List PByte)
  | 0, _, _ => []
  | fuel + 1, va, l =>
    if l.isEmpty then []
    else
      let n := min l.length (65536 - va.toNat % 65536)
      (va, l.take n) :: vaParts fuel (va + word n) (l.drop n)

/-- Where a part of a transfer lies; the window's pages need only be present and writable. -/
def State.peerXlate (s : State) (c : Nat) (va : Word) : Found :=
  if bitsOf va 56 8 != 0 then .fail
  else match s.walk 0 c va .write with
    | .held => .wait
    | .fault _ => .fail
    | .leaf l _ => match s.checkLeaf l va .write .device with
      | .ok pa e =>
        if s.hostDown pa then .wait
        else if pteKv e && s.kvJudge (pa / 65536) false == .refuse then .fail
        else .at_ pa (pteKv e)
      | _ => .fail

/-- The window accepts the transfer (R378). -/
def State.peerAccepts (s : State) (t : PeerTransfer) : Bool :=
  let w := s.peerWindow t.window
  t.window < 256 && s.peerId != 0xFFFF && w.size != 0 && t.offset + t.bytes.length ≤ w.size.toNat &&
  (w.flags.getLsbD 1 || w.sender == t.sender) && (!t.reduction || w.flags.getLsbD 0) && (s.ctx w.ctx).live

/-- A transfer is answered, and the answer kept until the sender has acknowledged it, which `Move.dropSeen` tells: the last
256 of each sender (R400). -/
def State.peerAnswer (s : State) (t : PeerTransfer) (lines : List Nat) (accepted : Bool) : State :=
  let r : PeerSeen := { sender := t.sender, tag := t.tag, accepted := accepted, n := if accepted then t.bytes.length else 0 }
  let mine := s.peerSeen.filter fun x => x.sender == t.sender
  let drop (x : PeerSeen) : Bool := 256 ≤ mine.length && mine.head? == some x
  { s with peerSeen := (s.peerSeen.filter fun x => !drop x) ++ [r] }.sendAfter lines (.peerReply t.port r)

/-- A transfer that arrives for the first time: its bytes are written at system scope and acknowledged, or it is refused. -/
def State.peerArrives (s : State) (t : PeerTransfer) : State :=
  let w := s.peerWindow t.window
  if !s.peerAccepts t then s.peerAnswer t [] false
  else
    let (l, s) := s.arrivedBytes 12 0 t.bytes t.poisoned
    let parts := vaParts (t.bytes.length / 65536 + 2) (w.base + word t.offset) l
    let found := parts.map fun p => (s.peerXlate w.ctx p.1, p.2)
    if found.any fun x => x.1 == .fail then s.peerAnswer t [] false
    else if found.any fun x => x.1 == .wait then s
    else if found.any fun x => (match x.1 with | .at_ pa kv => kv && s.kvClosed (pa / 65536) | _ => false) then
      s.noteHolds (2 ^ 96 + 65536 * t.sender.toNat + t.tag.toNat)
        (found.filterMap fun x => match x.1 with | .at_ pa true => some (pa / 65536) | _ => none)
    else
      let at_ := found.filterMap fun x => match x.1 with | .at_ pa _ => some (pa, x.2) | _ => none
      let s := at_.foldl (fun (s : State) x => s.homeWrite noField true x.1 x.2) s
      s.peerAnswer t (at_.flatMap fun x => linesOf x.1 x.2.length) true

/-- PEER_TRANSFER_ARRIVAL: one that was sent again is not applied again and gets the answer of the first (R380, R400). -/
def execPeerTransferArrival (t : PeerTransfer) (s : State) : Host.Outcome State Fault Refusal :=
  .next <|
    if !(s.peerPort t.port).up then s
    else match s.peerSeen.find? fun x => x.sender == t.sender && x.tag == t.tag with
      | none => s.peerArrives t
      | some r =>
        if s.pendSent.any fun x => (match x.2 with | .peerReply _ q => q == r | _ => false) then s
        else s.sendAfter [] (.peerReply t.port r)

/-! ## Links (R398, R399) -/

/-- LINK_REPLAY: only time changes; host and peer ports count the flit (R464). -/
def execLinkReplay (l : LinkRef) (s : State) : Host.Outcome State Fault Refusal :=
  .next <| match l with
    | .host p => s.modHostPort p fun h => { h with crc := h.crc + 1, replays := h.replays + 1 }
    | .peer p => s.modPeerPort p fun h => { h with crc := h.crc + 1, replays := h.replays + 1 }
    | _ => s

/-- A map entry of R418. -/
def mapEntry (kind field state where_ : Nat) : Word :=
  word (where_ % 2 ^ 48 + (state % 4) <<< 48 + (field % 64) <<< 50 + (kind % 256) <<< 56)
def entryKind (e : Word) : Nat := bitsOf e 56 8
def entryField (e : Word) : Nat := bitsOf e 50 6
def entryState (e : Word) : Nat := bitsOf e 48 2
def entryWhere (e : Word) : Nat := bitsOf e 0 48

/-- The logical row or column that a retiming lane of an edge serves in this start (R426). -/
def State.laneServes (s : State) (field edge lane : Nat) : Option Nat :=
  let bad (k : Nat) : Bool := s.fw.bound.any fun e =>
    entryKind e == 4 && entryField e == field && entryWhere e == edge * 256 + k
  if bad lane then none
  else
    let n := ((upto lane).filter fun k => !bad k).length
    if n < 88 then some n else none

/-- Fields on both sides of an edge: 0 the field's east edge, 1 its south edge. -/
def acrossEdge (field edge : Nat) : Nat := if edge == 0 then field + 1 else field + 7

/-- A line passes a link: two routers that follow each other on its path are `here` and `there`. -/
def State.passes (s : State) (l : Line) (here there : Nat → Bool) : Bool :=
  match s.partByHandle? l.part with
  | none => false
  | some p =>
    let reels := l.path.map p.ofIndex
    (reels.zip (reels.drop 1)).any fun x => (here x.1 && there x.2) || (there x.1 && here x.2)

/-- A line crosses a lane: one of its hops joins the two fields at the block row or column that the lane serves. -/
def State.crossesLane (s : State) (l : Line) (field edge served : Nat) : Bool :=
  s.passes l (fun r => fieldOfReel r == field &&
      (if edge == 0 then blockOfReel r / 11 == served / 8 else blockOfReel r % 11 == served / 8))
    fun r => fieldOfReel r == acrossEdge field edge

/-- A line crosses the hop from a block's router to the next, east (0) or south (1), inside its field. -/
def State.crossesHop (s : State) (l : Line) (field block dir : Nat) : Bool :=
  s.passes l (· == reelOf field block) (· == reelOf field (block + if dir == 0 then 1 else 11))

/-- A line stops: its commands end KITE_HALTED, its kites halt, and one record for the line is appended, naming its kite
where it has one, the sink's before the source's (R391, R399). -/
def State.stopLine (s : State) (l : Line) : State :=
  if l.stopped then s
  else
    let s := s.modLine l.id fun l => { l with stopped := true }
    let s := (s.attached l).foldl (fun s c => s.endCmd c.id 12) s
    let kite (p : Port) : Option Kite := if p.isKite then s.kite? p.kite else none
    let ks := (kite l.snk).toList ++ (kite l.src).toList
    let s := ks.foldl (fun s k => s.haltKite k 12) s
    match ks, s.partByHandle? l.part with
    | k :: _, _ => s.kiteRecord k 2 12
    | [], some p =>
      let src := l.path.headD 0
      s.record p.ctx
        { w0 := recordHead clsKite 2 6 false false false (src % (11 * p.w)) (src / (11 * p.w)), handle := 0, pc := 0, addr := 0
          word := 0, info := 12, tick := word s.tick, recordOnly := true }
    | [], none => s

/-- A field becomes suspect (R399, R420); Safe Service records faults in RAS_V1 alone (R422). -/
def State.suspect (s : State) (f : Nat) : State :=
  if s.fw.devMode == .safe then s else s.modField f fun x => { x with suspect := true }

/-- A hard fault is found: its entry, and the firmware's handling to come (R467). -/
def State.hardFound (s : State) (kind field : Nat) (pa loc : Word) : State :=
  let s := (s.rasAppend kind field 2 false pa loc).2
  { s with fw := { s.fw with hardFaults := s.fw.hardFaults ++ [loc] } }

/-- Ports have changed from `s` to `t`: requests of a port that does not serve, which another port of their window now carries,
are sent over that one, and counted (R399, R400, R464). -/
def State.countResent (s t : State) : State :=
  t.reqs.foldl (fun (u : State) q =>
    if hostBase ≤ q.homePa && !t.portDown q q.homePa then
      match s.reqPort q q.homePa, t.reqPort q q.homePa with
      | some a, some b =>
        if a != b && !(t.hostPort a).serves then u.modHostPort a fun h => { h with resent := h.resent + 1 } else u
      | _, _ => u
    else u) t

/-- A host port goes down. -/
def State.hostPortDown (s : State) (p : Nat) : State :=
  s.countResent (s.modHostPort p fun h => { h with up := false, downs := h.downs + 1 })

/-- LINK_DOWN (R399). -/
def execLinkDown (l : LinkRef) (s : State) : Host.Outcome State Fault Refusal :=
  .next <| match l with
    | .hop f b d => (((s.suspect f).lines.filter fun l => s.crossesHop l f b d).foldl State.stopLine (s.suspect f)).rasEvent 13 f 0 0
    | .channel n _ => (s.suspect (stackField n)).rasEvent 13 (stackField n) 0 0
    | .seam f e k =>
      let s := (s.suspect f).suspect (acrossEdge f e)
      let s := match s.laneServes f e k with
        | some n => (s.lines.filter fun l => s.crossesLane l f e n).foldl State.stopLine s
        | none => s
      s.hardFound 13 f 0 (mapEntry 4 f 0 (e * 256 + k))
    | .vbus f b c => (s.suspect f).hardFound 13 f 0 (mapEntry 5 f 0 (b * 2048 + c))
    | .host p => (s.hostPortDown p).rasEvent 13 63 0 0
    | .peer p => ((s.modPeerPort p fun h => { h with up := false, downs := h.downs + 1 }).peerResend).rasEvent 13 63 0 0

/-- LINK_RETRAINED: a host link comes up at a width and rate of R371: which one is a free choice (log entry 2); what waits
for a port goes on. -/
def execLinkRetrained (l : LinkRef) (s : State) : Host.Outcome State Fault Refusal :=
  .next <| match l with
    | .host p =>
      let (a, s) := s.drawChoice 2
      let (b, s) := s.drawChoice 3
      (s.countResent (s.modHostPort p fun h => { h with up := true, lanes := 16 >>> a, rate := 128 >>> b })).settleSent
    | .peer p => (s.modPeerPort p fun h => { h with up := true }).peerResend.settleSent
    | _ => s

end Sys2Proof.Machine
end

