-- ==== Sys2Proof/Machine/Commands.lean ====
section
/-! DEFINITION. The commands of CCTL and QCTL (R352 to R356). Commands of all ports are performed one at a time in
order of arrival. -/

namespace Sys2Proof.Machine

/-! ## Status -/

/-- CCTL and QCTL as State holds them: STATUS in bits 15:8, the context or queue named, and in bits 7:0 the command that
is PENDING, which reads as zero. -/
def ctlDone (reg : Word) (code : Nat) : Word := (reg &&& ~~~0xFFFF#64) ||| word (code <<< 8)

def State.ctlEnd (s : State) (port : Nat) (queue : Bool) (code : Nat) : State :=
  let s := { s with fw := { s.fw with ctl := s.fw.ctl.filter (· != (port, queue)) } }
  s.modHostPort port fun h =>
    if queue then { h with qctl := ctlDone h.qctl code } else { h with cctl := ctlDone h.cctl code }

/-- A status of R225 as a code of R356. -/
def ctlStatus (st : Nat) : Nat :=
  match st with
  | 0 => 0
  | 0x0101 => 5
  | _ => 6

/-! ## Contexts (R352, R353) -/

def State.ctxDescWord (s : State) (c i : Nat) : Word := s.ctxDesc.get 0 (8 * c + i)

/-- The records of a fault queue lie wholly in one memory (R353). -/
def State.oneMemory (s : State) (a n : Nat) : Bool :=
  let e := a + n - 1
  match s.memKind? a, s.memKind? e with
  | some .dram, some .dram => true
  | some .fs, some .fs => (a - fsBase) / 0x80000000 == (e - fsBase) / 0x80000000
  | some .host, some .host => s.hostWins.any fun w =>
      w.2.size != 0 && w.2.ports != 0 && w.2.base.toNat ≤ a - hostBase &&
        e - hostBase < w.2.base.toNat + w.2.size.toNat
  | _, _ => false

/-- A descriptor that CREATE takes. -/
def State.ctxDescOk (s : State) (c : Nat) : Bool :=
  let d := s.ctxDescWord c
  let n := bitsOf (d 2) 0 32
  bitsOf (d 0) 0 12 == 0 && bitsOf (d 1) 0 12 == 0 && 16 ≤ n && n ≤ 65536 && isPow2 n && bitsOf (d 2) 32 8 ≤ 19 &&
  bitsOf (d 2) 43 5 == 0 && bitsOf (d 2) 48 8 ≤ 3 && bitsOf (d 2) 56 8 == 0 && ([4, 5, 6, 7].all fun i => d i == 0) &&
  s.oneMemory (d 1).toNat (64 * n)

def State.createContext (s : State) (c : Nat) : Nat × State :=
  if (s.ctx c).live then (3, s)
  else if !s.ctxDescOk c then (2, s)
  else
    let d := s.ctxDescWord c
    (0, s.setCtx c
      { Context.reset with live := true, root := d 0, fqBase := d 1, fqN := bitsOf (d 2) 0 32, ceil := bitsOf (d 2) 32 8
                           flags := byteOf (d 2) 5, irqPort := bitsOf (d 2) 48 8, age := d 3 })

/-- Pages of a destroyed context leave the registries (R393). -/
def State.forgetContext (s : State) (c : Nat) : State :=
  { s.setCtx c Context.reset with
    ageing := s.ageing.map fun kv => (kv.1, { kv.2 with registry := kv.2.registry.filter fun e => e.2 != c }) }

def State.destroyContext (s : State) (c : Nat) : Nat × State :=
  if !(s.ctx c).live then (7, s)
  else if (s.parts.any fun p => p.ctx == c) || s.queues.any fun q => q.2.ctx == c && q.2.state != .disabled then (4, s)
  else (0, s.forgetContext c)

def State.performCctl (s : State) (port : Nat) : State :=
  let h := s.hostPort port
  let c := bitsOf h.cctl 32 6
  let fin (x : Nat × State) : State := x.2.ctlEnd port false x.1
  match bitsOf h.cctl 0 8 with
  | 1 => fin (s.createContext c)
  | 2 => fin (s.destroyContext c)
  | 3 =>
    if !(s.ctx c).live then (s.modHostPort port fun h => { h with cdata := 0 }).ctlEnd port false 7
    else
      let (k, s) := s.grant c (bitsOf h.cdata 0 3) (bitsOf h.cdata 3 3)
      (s.modHostPort port fun h => { h with cdata := word k }).ctlEnd port false 0
  | 4 => let (st, s) := s.freePart c h.cdata; s.ctlEnd port false (ctlStatus st)
  | _ => s

/-! ## Queues (R354 to R356) -/

def State.queueDescOk (s : State) (x : Queue) : Bool :=
  4 ≤ x.logn && x.logn ≤ 16 && bitsOf x.ring 0 12 == 0 && bitsOf x.errrec 0 6 == 0 && x.qprio ≤ 23 && !x.rsv &&
  bitsOf x.cls 40 24 == 0 && ((upto 8).all fun k => bitsOf x.cls (5 * k) 5 ≤ 23) && x.ctx < 64 && (s.ctx x.ctx).live &&
  (s.part? x.ctx x.part).isSome

def State.createQueue (s : State) (q : Nat) : Nat × State :=
  let x := s.queue q
  if x.state != .disabled then (3, s)
  else if !s.queueDescOk x then (2, s)
  else (0, s.setQueue q { x with wridx := x.rdidx, state := .active, inflt := 0, sigfail := 0, killed := 0, head := none
                                 watch := none, mismatch := none })

/-- DESTROY: a packet already fetched starts, of a FAULTED queue too (R370, log entry 47). -/
def State.destroyQueue (s : State) (q : Nat) (kill : Bool) : Nat × State :=
  let x := s.queue q
  if x.state == .active || x.state == .paused || x.state == .faulted then
    let s := s.setQueue q { x with state := .draining }
    (0, if kill then s.killQueue q else s.drainQueue q)
  else (3, s)

def State.moveQueue (s : State) (q : Nat) (a b : QState) : Nat × State :=
  let x := s.queue q
  if x.state == a then (0, s.setQueue q { x with state := b }) else (3, s)

def State.performQctl (s : State) (port : Nat) : State :=
  let h := s.hostPort port
  let q := bitsOf h.qctl 32 10
  let fin (x : Nat × State) : State := x.2.ctlEnd port true x.1
  match bitsOf h.qctl 0 8 with
  | 1 => fin (s.createQueue q)
  | 2 => fin (s.destroyQueue q false)
  | 3 => fin (s.destroyQueue q true)
  | 4 => fin (s.moveQueue q .active .paused)
  | 5 => fin (s.moveQueue q .paused .active)
  | _ => s

/-! ## The steps -/

/-- The firmware serves commands of the ports: no handover holds them, and they wait behind a SUSPEND, EVICT or RESTORE of FWREQ
in progress (R439, R441). -/
def State.servesPorts (s : State) : Bool := s.serving && !(s.pmt.busy && s.pmt.viaFw)

/-- The oldest PENDING command of all ports is this port's, and it is this one. -/
def State.cctlDue (s : State) (port cmd : Nat) : Bool :=
  s.servesPorts && s.fw.ctl.head? == some (port, false) && bitsOf (s.hostPort port).cctl 0 8 == cmd

def State.qctlDue (s : State) (port q cmd : Nat) : Bool :=
  s.servesPorts && s.fw.ctl.head? == some (port, true) && bitsOf (s.hostPort port).qctl 0 8 == cmd &&
    bitsOf (s.hostPort port).qctl 32 10 == q

def State.namesCtx (s : State) (port ctx : Nat) : Bool := bitsOf (s.hostPort port).cctl 32 6 == ctx

def execContextCreate (port ctx : Nat) (s : State) : Host.Outcome State Fault Refusal :=
  .next (if s.cctlDue port 1 && s.namesCtx port ctx then s.performCctl port else s)
def execContextDestroy (port ctx : Nat) (s : State) : Host.Outcome State Fault Refusal :=
  .next (if s.cctlDue port 2 && s.namesCtx port ctx then s.performCctl port else s)
def execGrantPartition (port ctx : Nat) (s : State) : Host.Outcome State Fault Refusal :=
  .next (if s.cctlDue port 3 && s.namesCtx port ctx then s.performCctl port else s)
def execFreePartition (port : Nat) (s : State) : Host.Outcome State Fault Refusal :=
  .next (if s.cctlDue port 4 then s.performCctl port else s)

def execQueueCreate (port q : Nat) (s : State) : Host.Outcome State Fault Refusal :=
  .next (if s.qctlDue port q 1 then s.performQctl port else s)
def execQueueDestroy (port q : Nat) (s : State) : Host.Outcome State Fault Refusal :=
  .next (if s.qctlDue port q 2 then s.performQctl port else s)
def execDestroyWithKill (port q : Nat) (s : State) : Host.Outcome State Fault Refusal :=
  .next (if s.qctlDue port q 3 then s.performQctl port else s)
def execPauseQueue (port q : Nat) (s : State) : Host.Outcome State Fault Refusal :=
  .next (if s.qctlDue port q 4 then s.performQctl port else s)
def execResumeQueue (port q : Nat) (s : State) : Host.Outcome State Fault Refusal :=
  .next (if s.qctlDue port q 5 then s.performQctl port else s)

end Sys2Proof.Machine
end

