-- ==== Sys2Proof/Machine/Resets.lean ====
section
/-! DEFINITION. Requests to the control firmware (R414, R415, R421) and the reset levels below the device (R433 to
R436). -/

namespace Sys2Proof.Machine

/-! ## FWREQ (R415) -/

def State.fwArg (s : State) (i : Nat) : Word := s.fw.args.get 0 i

/-- The request ends with a STATUS. -/
def State.fwEnd (s : State) (code : Nat) : State := { s with fw := { s.fw with reqStatus := code } }

/-- The pending request is this one, and the firmware serves it now. -/
def State.fwDue (s : State) (op : Nat) : Bool := s.serving && s.fw.reqStatus == 1 && s.fw.reqOp == op

/-- SUSPEND, EVICT and RESTORE start as PMTCMD does, once no command is in progress. -/
def State.fwPmt (s : State) (op : Nat) : State :=
  s.pmtStart op (bitsOf (s.fwArg 0) 0 6) (bitsOf (s.fwArg 0) 8 6) (s.fwArg 1) (s.fwArg 2 &&& 0x000F_FFFF_FFFF_F000) true

def execSuspendCtx (s : State) : Host.Outcome State Fault Refusal := .next (if s.fwDue 1 then s.fwPmt 1 else s)
def execEvictCtx (s : State) : Host.Outcome State Fault Refusal := .next (if s.fwDue 2 then s.fwPmt 3 else s)
def execRestoreCtx (s : State) : Host.Outcome State Fault Refusal := .next (if s.fwDue 3 then s.fwPmt 2 else s)

/-- WITHHOLD and OFFER (R421). -/
def State.setWithhold (s : State) (b : Bool) : State := { s with fw := { s.fw with withhold := b } }.fwEnd 0

def execWithholdSuspect (s : State) : Host.Outcome State Fault Refusal :=
  .next (if s.fwDue 4 then s.setWithhold true else s)
def execOfferSuspect (s : State) : Host.Outcome State Fault Refusal :=
  .next (if s.fwDue 5 then s.setWithhold false else s)

/-! ## Strand, engine, reel (R433, R434) -/

/-- A reset cancels commands; one that has reached its home ends with its own status (R312). -/
def State.cancelCmds (s : State) (cs : List Cmd) : State :=
  (cs.filter fun c => !c.atHome).foldl (fun s c => s.endCmd c.id 1) s

/-- Level 1: STATUS and the state after it, of a strand that was scanned out too. -/
def State.resetStrand (s : State) (target : Word) : Nat × State :=
  let h := target.toNat
  let cancelled := (s.cmds.filter fun c => c.handle == h).foldl (fun s c => s.endCmd c.id 1) s
  match s.strands.find? fun x => x.2.handle == h && h != 0 with
  | some (r, _) => (0, cancelled.freeSlot r)
  | none =>
    if (s.savedAt? h).isSome then
      let gone (x : Reel) : Reel := { x with slots := x.slots.filter fun t => t.2.handle != h }
      (0, { cancelled with parts := cancelled.parts.map fun p => { p with saved := p.saved.map fun ix => (ix.1, gone ix.2) } })
    else (5, s)

/-- The reel of a block of the device; blocks are counted over the whole wafer (log entry 40). -/
def deviceReel? (bx by_ : Nat) : Option Nat :=
  if bx < 77 && by_ < 66 then some (reelOf (7 * (by_ / 11) + bx / 11) (11 * (by_ % 11) + bx % 11)) else none

/-- An ageing engine abandons its conversion (R435): a page in CONVERTING stays in STATE 2 and leaves the registry. -/
def State.abandonConversion (s : State) (stack : Nat) : State :=
  match (s.ageing? stack).conv with
  | none => s
  | some c =>
    let s := (s.endHolds stack).modAgeing stack fun a => { a with conv := none, abandoned := a.abandoned + 1 }
    if c.step == .converting then
      -- how far the rewriting had come is a free choice (log entry 2)
      let p := 65536 * c.page
      let (n, s) := s.drawChoice 65473
      (s.homeWrite noField true (p + 64) ((s.convertedBody p).take n)).kvForget c.page
    else s

/-- Level 2. -/
def State.resetEngine (s : State) (target : Word) : Nat × State :=
  let e := bitsOf target 32 4
  let stack := bitsOf target 48 5
  if e == 4 then (if 25 < stack then (2, s) else (0, s.abandonConversion stack))
  else if 5 < e then (2, s)
  else match deviceReel? (bitsOf target 0 16) (bitsOf target 16 16) with
    | none => (5, s)
    | some n =>
      let x := s.reel n
      match e with
      | 0 => (0, (s.cancelCmds x.feedQ).modReel n fun x => { x with boundQ := [] })
      | 1 => (0, s.cancelCmds x.kvQ)
      | 2 => (0, s.cancelCmds x.drainQ)
      | 3 => (0, s.cancelCmds x.copyQ)
      | _ => (0, { s with walks := listMod (fun w => w.field == fieldOfReel n) (fun w => { w with stale := true }) s.walks })

/-- Dirty sectors of a reel reach their homes. -/
def State.flushReel (s : State) (n : Nat) : State :=
  (s.reel n).l1.keys.foldl (fun s k =>
    let s := ((s.reel n).dirtyRuns k).foldl (fun (s : State) (run : Run) => s.homeWrite (fieldOfReel n) true run.1 run.2) s
    s.modReel n fun x => if (x.sector k).dirty == 0 then x else x.clean k) s

/-- The reel's state at level 3: only its cycle number stays, and writes owed to it are discarded (R436). -/
def State.clearReel (s : State) (n : Nat) : State :=
  let s := s.flushReel n
  let x := s.reel n
  let ids := (x.feedQ ++ x.kvQ ++ x.drainQ ++ x.copyQ ++ x.ctlQ).map (·.id)
  let gone (w : Walk) : Bool := match w.who with
    | .strand r => r.reel == n
    | .cmd id => ids.contains id
  { s.setReel n { Reel.reset with cycle := x.cycle } with walks := s.walks.filter fun w => !gone w
                                                          peerOut := s.peerOut.filter fun o => !ids.contains o.cmd }

def State.resetReel (s : State) (target : Word) : Nat × State :=
  match deviceReel? (bitsOf target 0 16) (bitsOf target 16 16) with
  | none => (5, s)
  | some n => (0, s.clearReel n)

/-! ## Kite, field, partition -/

/-- Level 4: as KFREE, without waiting. -/
def State.resetKite (s : State) (target : Word) : Nat × State :=
  match s.kites.find? fun k => k.handle == target.toNat && target != 0 with
  | none => (5, s)
  | some k =>
    let cs := (s.kiteInputs k ++ s.kiteOutputs k).flatMap s.attached
    (0, (cs.foldl (fun s c => s.endCmd c.id 12) s).removeKite k)

/-- The translation caches and the far cache of a field. -/
def State.clearCaches (s : State) (f : Nat) : State :=
  s.modField f fun x => { x with tlb := [], walkCache := [], far := [] }

/-- Every reel of a field, its translation caches and its far cache. -/
def State.clearField (s : State) (f : Nat) : State :=
  ((s.reels.keys.filter fun n => fieldOfReel n == f).foldl State.clearReel s).clearCaches f

/-- Level 5. -/
def State.resetField (s : State) (target : Word) : Nat × State :=
  let f := target.toNat
  if 42 ≤ f then (5, s)
  else if s.parts.any fun p => p.hasField f && !p.evicted then (6, s)
  else (0, s.clearField f)

/-- Level 6: of a suspended partition, the reels that are not yet scanned out (R407), with the caches of its fields. -/
def State.resetPartition (s : State) (target : Word) : Nat × State :=
  match s.partByHandle? target.toNat with
  | none => (5, s)
  | some p =>
    let s := (s.tasks.filter fun t => t.part == p.handle).foldl (fun s t => s.killTask t 8) s
    let s := (s.cmds.filter fun c => c.eng == .config && c.part == p.handle).foldl (fun s c => s.endCmd c.id 1) s
    let s := if p.evicted then s
      else if p.suspended then
        p.fields.foldl State.clearCaches ((p.reels.filter fun n => !p.claimed.contains (.reel n)).foldl State.clearReel s)
      else p.fields.foldl State.clearField s
    let s := { s with kites := s.kites.filter (·.part != p.handle), lines := s.lines.filter (·.part != p.handle)
                      spawns := s.spawns.filter (·.part != p.handle) }
    let s := s.modPart p.handle fun p => { p with barriers := [], colls := [], cfgQ := [], saved := [] }
    (0, (s.tasks.filter fun t => t.part == p.handle).foldl (fun s t => s.taskLeaves t) s)

/-! ## PCIe function -/

/-- Level 7: the port's own registers; its link is down until retrained. -/
def State.resetPort (s : State) (port : Nat) : State :=
  let s := { s with fw := { s.fw with ctl := s.fw.ctl.filter fun x => x.1 != port } }
  ((s.hostPortDown port).modHostPort port fun h => { h with qctl := 0, cctl := 0, cdata := 0, msix := false }).rasEvent 13 63 0 0

/-! ## FWREQ RESET -/

/-- Levels 1 to 7 of a pending RESET; other levels are the device's and Quedon's own steps. -/
def State.performReset (s : State) : Nat × State :=
  let t := s.fwArg 1
  match (s.fwArg 0).toNat with
  | 1 => s.resetStrand t
  | 2 => s.resetEngine t
  | 3 => s.resetReel t
  | 4 => s.resetKite t
  | 5 => s.resetField t
  | 6 => s.resetPartition t
  | 7 => if t.toNat < 4 then (0, s.resetPort t.toNat) else (5, s)
  | _ => (2, s)

/-- The pending request is a RESET of this level and target: it is performed and ends. -/
def State.fwReset (s : State) (level : Nat) (target : Word) : State :=
  if s.fwDue 6 && s.fwArg 0 == word level && s.fwArg 1 == target then
    let (code, s) := s.performReset
    s.fwEnd code
  else s

def execResetStrand (target : Word) (s : State) : Host.Outcome State Fault Refusal := .next (s.fwReset 1 target)
def execResetEngine (target : Word) (s : State) : Host.Outcome State Fault Refusal := .next (s.fwReset 2 target)
def execResetReel (target : Word) (s : State) : Host.Outcome State Fault Refusal := .next (s.fwReset 3 target)
def execResetKiteRelease (target : Word) (s : State) : Host.Outcome State Fault Refusal := .next (s.fwReset 4 target)
def execResetField (target : Word) (s : State) : Host.Outcome State Fault Refusal := .next (s.fwReset 5 target)
def execResetPartition (target : Word) (s : State) : Host.Outcome State Fault Refusal := .next (s.fwReset 6 target)

/-- PCIE_FUNCTION_RESET: the pending request, or FLR or a hot reset of the port. -/
def execPcieFunctionReset (port : Nat) (s : State) : Host.Outcome State Fault Refusal :=
  .next <|
    if s.fwDue 6 && s.fwArg 0 == 7 && s.fwArg 1 == word port then s.fwReset 7 (word port)
    else if port < 4 then s.resetPort port
    else s

/-- A request that names no operation or no level ends at once. -/
def State.fwBad (s : State) : Bool := s.fw.reqOp < 1 || 6 < s.fw.reqOp || (s.fw.reqOp == 6 && (s.fwArg 0 == 0 || 10 < s.fwArg 0))

end Sys2Proof.Machine
end

