-- ==== Sys2Proof/Machine/Boot.lean ====
section
/-! DEFINITION. Defect maps (R416 to R419), binding and health of fields (R424 to R431), starts with their test of the vertical
buses (R411, R412, R422, R429 to R433, R441), full self-test (R412, R413), and map provisioning (R423). -/

namespace Sys2Proof.Machine

/-! ## Maps (R416 to R418) -/

/-- Bits of WHERE that a kind may set, and their ranges (R418). -/
def whereOk (kind w : Nat) : Bool :=
  match kind with
  | 1 | 2 => w < 96
  | 3 => w < 128
  | 4 => w / 512 == 0 && w % 256 < 104
  | 5 => w < 2 ^ 15 && w % 2048 < 1056
  | 6 => w < 16
  | 7 => w == 0
  | 8 => w < 2 ^ 32
  | _ => false

/-- A well-formed entry of a map of KIND 0 factory or 1 delta. -/
def entryOk (mapKind : Nat) (e : Word) : Bool :=
  whereOk (entryKind e) (entryWhere e) && entryField e < 42 && entryState e ≤ 1 &&
  (mapKind == 1 || (entryState e == 1 && entryKind e != 8))

/-- What R417 asks of a map's header and entries, in flash or on its way there; SERIAL is the package's. -/
def State.contentOk (s : State) (kind : Nat) (m : DefectMap) : Bool :=
  m.valid && m.serial == s.fw.serial && m.entries.all (entryOk kind) && m.entries.length ≤ (if kind == 0 then 65536 else 4096) &&
  (if kind == 0 then m.seq == 0 else s.fw.deltaFuse ≤ m.seq)

def storedMap (m : MapImage) : DefectMap := { valid := true, serial := m.serial, seq := m.seq, entries := m.entries }

/-- The integrity check (R417); whether digest and signature match is what the image's check found. -/
def State.mapOk (s : State) (m : MapImage) : Bool :=
  m.keyOk && m.signatureOk && m.magic == 0x4D464544 && m.version == 1 && m.kind ≤ 1 && m.reservedZero &&
  s.contentOk m.kind (storedMap m)

/-- Appends to the delta map, which the firmware re-signs (R419). -/
def DefectMap.append (m : DefectMap) (e : Word) : DefectMap :=
  if m.entries.length < 4096 then { m with entries := m.entries ++ [e], seq := m.seq + 1 } else m

def State.appendEntry (s : State) (e : Word) : State :=
  let d := s.fw.delta.append e
  { s with fw := { s.fw with delta := d, deltaFuse := d.seq } }

def pending (e : Word) : Bool := entryState e == 0

/-- DELTA_PENDING follows the delta map (R414). -/
def State.notePending (s : State) : State :=
  { s with fw := { s.fw with deltaPending := s.fw.delta.entries.any pending } }

/-! ## Binding (R424 to R431) -/

def defectsOf (l : List Word) (kind field : Nat) : List Nat :=
  ((l.filter fun e => entryKind e == kind && entryField e == field).map entryWhere).eraseDups

/-- The n-th of `total` physical units that is not removed: what serves logical unit n (R424 to R426, R428). -/
def nthGood (total : Nat) (gone : List Nat) (n : Nat) : Option Nat := ((upto total).filter fun p => !gone.contains p)[n]?

/-- Physical row and column that serve a field's logical ones (R424), and the physical reel that serves its logical block
11 · by + bx (R425), under the defects bound at the last start. -/
def State.physicalRow (s : State) (field i : Nat) : Option Nat := nthGood 96 (defectsOf s.fw.bound 1 field) i
def State.physicalColumn (s : State) (field i : Nat) : Option Nat := nthGood 96 (defectsOf s.fw.bound 2 field) i
def State.physicalReel (s : State) (field block : Nat) : Option Nat := nthGood 128 (defectsOf s.fw.bound 3 field) block

/-- Good lanes of an edge. -/
def goodLanes (l : List Word) (field edge : Nat) : Nat :=
  104 - ((defectsOf l 4 field).filter fun w => w / 256 == edge).length

/-- The lanes of the edges that a field faces to the west and the north. -/
def edgesOk (l : List Word) (f : Nat) : Bool :=
  (fieldX f == 0 || 88 ≤ goodLanes l (f - 1) 0) && (fieldY f == 0 || 88 ≤ goodLanes l (f - 7) 1)

/-- Faulty positions of a spare group of a bus: 0 to 63, then 64 for spare A and 65 for B (R428). -/
def groupFaults (l : List Word) (f b g : Nat) : List Nat :=
  (upto 66).filter fun p =>
    let conn := if p < 64 then 64 * g + p else 1024 + 2 * g + (p - 64)
    (defectsOf l 5 f).contains (2048 * b + conn)

/-- The repair register for faulty data positions and faulty spares A and B, or `none` where the group cannot be repaired
(R429, R430). -/
def repairWord (data : List Nat) (badA badB : Bool) : Option Nat :=
  match data with
  | [] => some 0
  | [p] => if badA then none else some (0x80 + p)
  | [p, q] => if badA || badB then none else some (0x8080 + p + q <<< 8)
  | _ => none

/-- Positions that a repair register removes. -/
def removedBy (v : Nat) : List Nat :=
  (if v.testBit 7 then [v % 64] else []) ++ (if v.testBit 15 then [v / 256 % 64] else [])

/-- The position that carries logical bit i of a spare group under its repair register (R428). -/
def carrier (v i : Nat) : Option Nat := nthGood 66 (removedBy v) i

def groupRepair (l : List Word) (f b g : Nat) : Option Nat :=
  let fs := groupFaults l f b g
  repairWord (fs.filter (· < 64)) (fs.contains 64) (fs.contains 65)

/-- Buses out of service in this start: retired by the maps or in phase 6 (R430, R431). -/
def busesRetired (l : List Word) (f : Nat) : BitVec 16 :=
  (upto 16).foldl (fun v b =>
    if (defectsOf l 6 f).contains b || (upto 16).any fun g => (groupRepair l f b g).isNone then setBit v b true else v) 0

/-- Repair registers, as phase 6 leaves them, keyed 16 · bus + group. -/
def busRepairs (l : List Word) (f : Nat) : SMap (BitVec 16) :=
  ((defectsOf l 5 f).map fun w => 16 * (w / 2048) + (if w % 2048 < 1024 then w % 2048 / 64 else (w % 2048 - 1024) / 2)).foldl
    (fun m k => m.put 0 k (BitVec.ofNat 16 ((groupRepair l f (k / 16) (k % 16)).getD 0))) []

/-- What the bound defects leave of a field: the figures that R427 and R470 look at. -/
def Field.count (x : Field) (l : List Word) (f : Nat) : Field :=
  { x with
    retired := !(defectsOf l 7 f).isEmpty, rowsGone := (defectsOf l 1 f).length, colsGone := (defectsOf l 2 f).length
    reelsGone := (defectsOf l 3 f).length, eastLanes := goodLanes l f 0, southLanes := goodLanes l f 1 }

/-- The field is healthy (R427). -/
def Field.fits (x : Field) (l : List Word) (f : Nat) : Bool :=
  x.rowsGone ≤ 8 && x.colsGone ≤ 8 && x.reelsGone ≤ 7 && edgesOk l f && x.busesGone != BitVec.allOnes 16 && !x.retired

/-- A field as phases 3 to 5 leave it: not offered, its buses under no repair, its row domains at divider 1 and unstretched (R9,
R433, R452). The lease's floor and share, ballast and heat go on through a warm start (R443, R448, R449), and what Quedon counts
(R459). -/
def bindField (l : List Word) (r : StartReport) (f : Nat) (old : Field) : Field :=
  Field.count { old with
    healthy := false, offered := false, suspect := false, tested := false, testing := false, testFailed := false
    vbret := busesRetired l f, vbtsel := 0, vbtres := Field.reset.vbtres, vbrsel := 0, vbrval := [], busMap := [], busResult := []
    busDone := 0, busOpen := (r.busOpen.filter (·.1 == f)).map (·.2), busShort := (r.busShort.filter (·.1 == f)).map (·.2)
    busStuck := (r.busStuck.filter (·.1 == f)).map (·.2), tlb := [], walkCache := [], far := [], home := [], gated := false
    idleSince := none, idleHint := false, pmDiv := [], stretch := [], lastWarn := [], warn4 := [], divHold := []
    divHoldAt := [] } l f

/-- A field as the end of phase 6 leaves it: its address map fixed from VBRET, its repair registers set (R430, R431). -/
def Field.fix (x : Field) (l : List Word) (slice f : Nat) (safe : Bool) : Field :=
  let ret := busesRetired l f ||| x.vbret
  let y := { x with vbret := ret, busesGone := ret, slice := slice, vbrval := busRepairs l f }
  let ok := y.fits l f
  { y with healthy := ok, offered := ok && !safe, testing := safe }

/-- Bytes of field store and of poison in a range are not kept (R431). -/
def State.dropMemory (s : State) (lo n : Nat) : State :=
  { s with mem := SMap.clear s.mem lo n, mpsn := s.mpsn.clear (lo / 4) (n / 4) }

/-- Binds every field from the defects that phases 3 to 5 know. -/
def State.bindFields (s : State) (l : List Word) (r : StartReport) : State :=
  (upto 42).foldl (fun (s : State) f => s.modField f (bindField l r f)) { s with fw := { s.fw with bound := l } }

/-- Every field-store map is fixed; a field's store is lost where a bus was newly retired (R431). -/
def State.fixFields (s : State) (l : List Word) (safe : Bool) : State :=
  (upto 42).foldl (fun (s : State) f =>
    let old := s.field f
    let new := old.fix l s.fw.fcslice f safe
    let s := s.setField f new
    if new.busesGone &&& ~~~old.busesGone != 0 then s.dropMemory (fsBase + 0x80000000 * f) 0x80000000 else s)
    { s with fw := { s.fw with bound := l } }

/-- PENDING entries become APPLIED, kind-8 entries go, buses retired in phase 6 and fields that fail R427 after a fault
found in service get their entries (R419, R420, R430). -/
def State.applyMaps (s : State) : State :=
  let faulty := ((s.fw.delta.entries.filter fun e => pending e && entryKind e != 8).map entryField).eraseDups
  let keep := (s.fw.delta.entries.filter fun e => entryKind e != 8).map fun e => e ||| word (1 <<< 48)
  let s := { s with fw := { s.fw with delta := { s.fw.delta with entries := keep } } }
  let buses := (upto 42).flatMap fun f =>
    ((onesOf (s.field f).busesGone).filter fun b =>
      !((s.fw.factory.entries ++ keep).any fun e => entryKind e == 6 && entryField e == f && entryWhere e == b)).map
      fun b => mapEntry 6 f 1 b
  let dead := faulty.filter fun f => !(s.field f).healthy && !(s.field f).retired
  let s := dead.foldl (fun s f => s.modField f fun x => { x with retired := true }) s
  ((buses ++ dead.map fun f => mapEntry 7 f 1 0).foldl State.appendEntry s).notePending

/-! ## What a device reset clears (R433) -/

/-- Every reel's dirty data reaches memory first. -/
def State.flushAll (s : State) : State := s.reels.keys.foldl State.flushReel s

/-- Compute state, contexts, queues, partitions, registries, directories and windows. -/
def State.clearCompute (s : State) : State :=
  let s := (upto 26).foldl (fun s k => s.abandonConversion k) s.flushAll
  { s with dirs := [], reqs := [], replays := [], walks := [], invs := [], reels := [], parts := [], kites := [], lines := []
           spawns := [], ctxs := [], ctxDesc := [], queues := [], qptr := [], tasks := [], hostWins := [], peerWins := []
           peertmo := State.reset.peertmo, peerOut := [], peerSeen := [], pmt := Pmt.reset, pendSent := [], held := false
           ageing := s.ageing.map fun kv => (kv.1, { kv.2 with registry := [], conv := none })
           fields := s.fields.map fun kv => (kv.1, { kv.2 with home := [], far := [], tlb := [], walkCache := [] }) }

/-- Ports as phase 7 leaves them; counters count on. -/
def State.trainPorts (s : State) (up : BitVec 4) (peers : BitVec 16) : State :=
  let s := (upto 4).foldl (fun (s : State) p => s.modHostPort p fun h =>
    { h with qctl := 0, cctl := 0, cdata := 0, msix := false, writes := [], order := [], watched := [], up := up.getLsbD p }) s
  (upto 16).foldl (fun (s : State) p => s.modPeerPort p fun h => { h with up := peers.getLsbD p }) s

/-- The bank of a component that a start takes: the active one, else the other; a bank that is empty, invalid, does not verify
or has not been activated never starts (R411, R441). -/
def startBank (ok : BitVec 2) (banks : SMap FwBank) (active : Nat) : Option Nat :=
  [active, 1 - active].find? fun b =>
    let x := banks.get FwBank.empty b
    ok.getLsbD b && x.state == 1 && x.activated

/-- The firmware's own registers at a start (R414); BOOTCFG is kept in flash. -/
def Firmware.started (f : Firmware) (bank : Nat) : Firmware :=
  { f with devMode := .booting, rollback := bank != f.controlActive, mx4Off := true, clkMHz := 750, withhold := false
           ver := (f.controlBanks.get FwBank.empty bank).version, svn := (f.controlBanks.get FwBank.empty bank).svn
           reqStatus := 0, reqOp := 0, args := [], rsp := 0, endPhase := none, phase := 0, start := none, railFailed := false
           controlActive := bank, handover := none, held := [], ctl := [], mapInvalid := false }

/-- A start that ends early: nothing is offered, no bus repaired, and entries say so: one for each stack that fails, at the
field that carries it (R411, R466; log entry 115). -/
def State.startFails (s : State) (phase : Nat) (dead : List Nat) : State :=
  let s := { s.trainPorts 0 0 with fw := { s.fw with endPhase := some phase, phase := phase, railFailed := phase == 1 } }
  let s := (upto 42).foldl (fun (s : State) f => s.modField f fun x =>
    { x with offered := false, healthy := false, testing := false, vbrval := [] }) s
  let s := if phase ≤ 1 then { s with power := { s.power with railOff := true } } else s
  if dead.isEmpty then s.rasEvent 15 0 0 0 else dead.foldl (fun s n => s.rasEvent 15 (stackField n) 0 0) s

/-- What DEFECT_V1 shows until a start comes to phase 7: the fields before it (R471). -/
def State.shownFields (s : State) : Option (SMap Field) := s.fw.before.or (some s.fields)

/-- Phases 1 to 5 of a start over what the reset has kept; it then stands in phase 6 (R411, R422). -/
def State.runStart (s : State) (r : StartReport) : State :=
  let s := { s with peerId := s.quedon.peercfg.extractLsb' 0 16
                    fw := { s.fw.started s.fw.controlActive with before := s.shownFields } }
  if !r.railOk then s.startFails 1 []
  else match startBank r.controlOk s.fw.controlBanks s.fw.controlActive with
    | none => s.startFails 2 []
    | some b =>
      let s := { s with fw := s.fw.started b }
      let safe := s.fw.safeHold || !(r.mapsOk && s.contentOk 0 s.fw.factory && s.contentOk 1 s.fw.delta)
      let maps := if safe then [] else (s.fw.factory.entries ++ s.fw.delta.entries).filter fun e => entryKind e != 8
      let s := s.bindFields (maps ++ r.found) r
      let dead := r.deadStacks.filter (· < 26)
      if !dead.isEmpty then s.startFails 5 dead
      else { s.trainPorts 0 0 with fw := { s.fw with phase := 6, start := some r, safeHold := safe, mapInvalid := safe } }

/-! ## Phase 6: the test of the vertical buses (R429 to R432) -/

def setWordBit (m : SMap Word) (k j : Nat) : SMap Word := m.put 0 (k + j / 64) (m.get 0 (k + j / 64) ||| word (1 <<< (j % 64)))

/-- The drives of the test program on a bus under test, connection by connection, with what each one samples: its fault map
grows from VBTRES, and a drive that more than one other connection answers sets the retire flag (R431). -/
def Field.driveAll (x : Field) (free : Nat → Nat → Bool) (b : Nat) : List Nat → Bool → Field × Bool
  | [], bad => (x, bad)
  | k :: ks, bad =>
    let w := x.drive (free k) k
    let m := if w.getLsbD 0 then x.busMap else setWordBit x.busMap (17 * b) k
    let m := if bitsOf w 16 11 == 0 then m else setWordBit m (17 * b) (bitsOf w 32 11)
    Field.driveAll { x with vbtres := w, busMap := m } free b ks (bad || 1 < bitsOf w 16 11)

/-- Positions that the fault map names in a spare group, and whether its spares are bad. -/
def Field.mapGroup (x : Field) (b g : Nat) : List Nat × Bool × Bool :=
  let spares := x.busMap.get 0 (17 * b + 16)
  (onesOf (x.busMap.get 0 (17 * b + g)), spares.getLsbD (2 * g), spares.getLsbD (2 * g + 1))

/-- The test program of R431 on one bus: drives, repair registers, VBRET and result. Where its text and its words lie no rule
says; the field keeps the words (log entry 114). -/
def Field.testBus (x : Field) (free : Nat → Nat → Bool) (b : Nat) : Field :=
  let (x, bad) := Field.driveAll { x with vbtsel := word (0x100 + b) } free b (upto 1056) false
  let repair (g : Nat) : Option Nat := let (d, a, c) := x.mapGroup b g; repairWord d a c
  let vals := (upto 16).foldl (fun (m : SMap (BitVec 16)) g => match repair g with
    | some v => m.put 0 (16 * b + g) (BitVec.ofNat 16 v)
    | none => m) x.vbrval
  let retire := bad || (upto 16).any fun g => (repair g).isNone
  let ret := if retire then setBit x.vbret b true else x.vbret
  { x with vbtsel := 0, vbrsel := word (16 * b + 15), vbrval := vals, vbret := ret
           busResult := (x.busResult.put 0 (2 * b) (word (bit retire))).put 0 (2 * b + 1) (ret.zeroExtend 64)
           busDone := setBit x.busDone b true }

/-- The control firmware's task on a field tests one bus. -/
def State.testBus (s : State) (f b : Nat) : State :=
  if s.fw.phase != 6 || s.fw.start.isNone || 42 ≤ f || 16 ≤ b || (s.field f).busDone.getLsbD b then s
  else
    let d := s.draws
    { s.modField f fun x => x.testBus (fun k c => Config.busSample (d + 1056 * k + c)) b with draws := d + 1056 * 1056 }

/-- Connections that the test of phase 6 found faulty, as entries (R419). -/
def Field.busFaults (x : Field) (f : Nat) : List Word :=
  (upto 16).flatMap fun b => (upto 17).flatMap fun k =>
    (onesOf (x.busMap.get 0 (17 * b + k))).map fun i => mapEntry 5 f 1 (2048 * b + 64 * k + i)

/-- The end of phase 6, and phase 7: field-store maps fixed, PENDING entries applied, ports trained; the device is in bring-up
service, or in Safe Service with every field under full self-test (R411, R412, R422). -/
def State.startOn (s : State) : State :=
  match s.fw.start with
  | none => s
  | some r =>
    if (upto 42).any fun f => (s.field f).busDone != BitVec.allOnes 16 then s
    else
      let safe := s.fw.safeHold
      let l := s.fw.bound ++ (upto 42).flatMap fun f => (s.field f).busFaults f
      let s := s.fixFields l safe
      let s := if safe then s else s.applyMaps
      let s := s.trainPorts r.portsUp r.peersUp
      { s with fw := { s.fw with devMode := if safe then .safe else .bringup, phase := 8, start := none, before := none } }

/-! ## Device resets (R433) -/

/-- WARM_DEVICE_RESET: DRAM, field store, flash and Quedon are kept; phases 1 to 7 run. After the core rail has gone only a cold
reset starts the device (R449). -/
def execWarmDeviceReset (r : StartReport) (s : State) : Host.Outcome State Fault Refusal :=
  .next (if s.power.railOff then s else s.clearCompute.runStart r)

/-- COLD_DEVICE_RESET (R411): everything but flash and Quedon; the time counter starts again. Quedon's own firmware starts in
phase 0, from its other bank where the active one fails. -/
def execColdDeviceReset (r : StartReport) (s : State) : Host.Outcome State Fault Refusal :=
  let t := s.clearCompute
  let power := { Power.reset with shutField := s.power.shutField, shutTick := s.power.shutTick }
  let quedon := { s.quedon with quietUntil := s.quedon.quietUntil - s.tick, loader := false, gen := 0, snapTick := 0, records := []
                                ras := [], rasNext := 1, rasLost := 0 }
  let fields := s.fields.map fun kv => (kv.1, { Field.reset with temp := kv.2.temp })
  let t := { t with tick := 0, mem := [], mpsn := [], ageing := [], hostPorts := [], peerPorts := [], power := power
                    quedon := quedon, fields := fields, fw := { s.fw with hardFaults := [], soft := [], before := s.shownFields } }
  .next <| match startBank r.quedonOk s.fw.quedonBanks s.fw.quedonActive with
    | none =>
      { t with fw := t.fw.started t.fw.controlActive, quedon := { quedon with loader := true } }.startFails 0 []
    | some b => { t with fw := { t.fw with quedonActive := b } }.runStart r

/-! ## Full self-test (R412, R413, R422) -/

/-- A field whose full self-test can start: offered, not granted, not tested; the lowest of them. -/
def State.nextTest (s : State) : Option Nat :=
  (upto 42).find? fun f =>
    let x := s.field f
    x.offered && !x.tested && !x.testing && !s.parts.any fun p => p.hasField f && !p.evicted

/-- FIELD_SELF_TEST_START: up to four fields at once, in ascending order, each out of offer while it is tested. -/
def execFieldSelfTestStart (field : Nat) (s : State) : Host.Outcome State Fault Refusal :=
  .next <|
    if s.fw.devMode == .bringup && s.nextTest == some field &&
        ((upto 42).filter fun f => (s.field f).testing).length < 4 then
      s.modField field fun x => { x with testing := true, offered := false }
    else s

/-- MODE becomes FULL when every offered field, those out of offer for their test among them, has passed (R412). -/
def State.checkFull (s : State) : State :=
  if s.fw.devMode == .bringup && (upto 42).all fun f =>
      !((s.field f).offered || (s.field f).testing) || ((s.field f).tested && !(s.field f).testFailed) then
    { s with fw := { s.fw with devMode := .full, clkMHz := 1500, mx4Off := false, phase := 9 } }
  else if s.fw.devMode == .safe && !(upto 42).any fun f => (s.field f).testing then
    { s with fw := { s.fw with mx4Off := false } }
  else s

/-- A location in a field that its failed test names: free (log entry 2). -/
def State.testLocation (s : State) (field : Nat) : Word × State :=
  let (k, s) := s.drawChoice 3
  let (w, s) := s.drawChoice 96
  (mapEntry (k + 1) field 0 w, s)

/-- Safe Service repairs a field from what its test found; it is tested anew while it can be healthy (R422). -/
def State.repairSafe (s : State) (field : Nat) (loc : Word) : State :=
  let l := s.fw.bound ++ [loc]
  { s with fw := { s.fw with bound := l } }.modField field fun x =>
    let y := x.count l field
    let ok := y.fits l field
    { y with healthy := ok, testing := ok, tested := false }

/-- FIELD_SELF_TEST_DONE: a failure is a hard fault (R413, R467). In bring-up the field is offered again, since nothing else
changes before the next restart (R420); in Safe Service it is repaired, and fields that pass are offered. -/
def execFieldSelfTestDone (field : Nat) (pass : Bool) (s : State) : Host.Outcome State Fault Refusal :=
  .next <|
    if !(s.field field).testing then s
    else
      let t := s.modField field fun x =>
        { x with testing := false, tested := true, testFailed := !pass, offered := x.healthy && (pass || s.fw.devMode != .safe) }
      if pass then t.checkFull
      else
        let (loc, t) := t.testLocation field
        let t := t.hardFound 15 field 0 loc
        (if s.fw.devMode == .safe then t.repairSafe field loc else t).checkFull

/-! ## Provisioning (R423) -/

/-- MAP_PROVISION: new maps are taken in a session only, and only where they pass R417; SEQ 0 comes with a factory map alone,
and it too must not be below the fuse, which never falls (R417, R423; log entry 112). -/
def execMapProvision (factory delta : Option MapImage) (s : State) : Host.Outcome State Fault Refusal :=
  let fOk := factory.all fun m => m.kind == 0 && s.mapOk m
  let dOk := delta.all fun m => m.kind == 1 && s.mapOk m && (m.seq != 0 || factory.isSome)
  .next <|
    if !(s.quedon.session && fOk && dOk && (factory.isSome || delta.isSome)) then s
    else
      let s := match factory with
        | some m => { s with fw := { s.fw with factory := storedMap m } }
        | none => s
      let s := match delta with
        | some m => { s with fw := { s.fw with delta := storedMap m } }.notePending
        | none => s
      { s with fw := { s.fw with safeHold := false } }

end Sys2Proof.Machine
end

