-- ==== Sys2Proof/Machine/Updates.lean ====
section
/-! DEFINITION. Firmware update (R437 to R441): sessions, transfer, verification, activation, handover and the operations
held during it; the management reset (R433, R456). -/

namespace Sys2Proof.Machine

/-! ## Operations held during a handover (R439, R440) -/

/-- One held operation is performed; a suspension or restore starts. -/
def State.serveOne (s : State) (h : HeldOp) : State :=
  match h with
  | .cctl p _ => s.performCctl p
  | .qctl p _ => s.performQctl p
  | .fwreq _ =>
    if s.fwBad then s.fwEnd 2
    else match s.fw.reqOp with
      | 1 => s.fwPmt 1
      | 2 => s.fwPmt 3
      | 3 => s.fwPmt 2
      | 4 => s.setWithhold true
      | 5 => s.setWithhold false
      | _ => if s.fwArg 0 ≤ 7 then (let (code, s) := s.performReset; s.fwEnd code) else s
  | .pmtcmd op => s.pmtCommand op
  | .boost a c mhz us => let (w, s) := s.boostGrant c mhz us; s.answer a w
  | .boostRel a c => let (w, s) := s.boostRelease c; s.answer a w
  | .boostQry a c => s.answer a (word (s.leaseLeft c))
  | .grant a c w h => let (k, s) := s.allocGrant c w h; s.answer a k
  | .free a handle c => let (k, s) := s.allocFree c handle; s.answer a k

/-- An operation that waits for the command of R405 in progress; commands of the ports wait for one of FWREQ (R441). -/
def State.needsPmt (s : State) : HeldOp → Bool
  | .pmtcmd _ => true
  | .fwreq _ => 1 ≤ s.fw.reqOp && s.fw.reqOp ≤ 3
  | .cctl _ _ | .qctl _ _ => s.pmt.viaFw
  | _ => false

/-- The strand that a held operation answers. -/
def HeldOp.asker? : HeldOp → Option Asker
  | .boost a _ _ _ | .boostRel a _ | .boostQry a _ | .grant a _ _ _ | .free a _ _ => some a
  | _ => none

/-- A held operation waits: for a command in progress, or for the clocks of the reel that it answers (R450). -/
def State.opWaits (s : State) (h : HeldOp) : Bool :=
  (s.needsPmt h && s.pmt.busy) || h.asker?.any fun a => !s.reelRuns a.reel

/-- Held operations are performed in order of arrival, as far as none waits. -/
def serveHeld : Nat → State → State
  | 0, s => s
  | n + 1, s => match s.fw.held with
    | [] => s
    | h :: rest =>
      if s.opWaits h then s
      else serveHeld n ({ s with fw := { s.fw with held := rest } }.serveOne h)

def State.serveAll (s : State) : State :=
  if s.fw.handover.isSome then s else serveHeld s.fw.held.length s

/-- PMT_COMMAND_DONE: the command in progress goes on or ends, and what waited for it follows. -/
def execPmtCommandDone (s : State) : Host.Outcome State Fault Refusal := .next s.pmtStep.serveAll

/-! ## Sessions, transfer, verification (R438) -/

/-- Quedon answers: no management reset is in progress, and it left its boot loader (R411, R456). -/
def State.quedonUp (s : State) : Bool := s.quedon.quietUntil ≤ s.tick && !s.quedon.loader

/-- Quedon takes update commands in its boot loader too (R411). -/
def State.quedonUpdates (s : State) : Bool := s.quedon.quietUntil ≤ s.tick

/-- An update that has not come to its end is dropped; what it has written stays an invalid bank (R438). -/
def State.dropUpdate (s : State) : State := { s with fw := { s.fw with update := none, staged := none } }

/-- SPDM_SESSION: update commands are taken within a session alone, so its end ends an update (R438). -/
def execSpdmSession (est : Bool) (s : State) : Host.Outcome State Fault Refusal :=
  .next <|
    if !s.quedonUpdates then s
    else
      let s := { s with quedon := { s.quedon with session := est } }
      if est then s else s.dropUpdate

/-- Active bank of a component, and its banks. -/
def Firmware.active (f : Firmware) : Component → Nat
  | .quedon => f.quedonActive
  | .control => f.controlActive

def Firmware.banks (f : Firmware) : Component → SMap FwBank
  | .quedon => f.quedonBanks
  | .control => f.controlBanks

def Firmware.setInactive (f : Firmware) (c : Component) (b : FwBank) : Firmware :=
  match c with
  | .quedon => { f with quedonBanks := f.quedonBanks.put FwBank.empty (1 - f.quedonActive) b }
  | .control => { f with controlBanks := f.controlBanks.put FwBank.empty (1 - f.controlActive) b }

def Firmware.inactive (f : Firmware) (c : Component) : FwBank := (f.banks c).get FwBank.empty (1 - f.active c)

/-- REQUEST_UPDATE: refused outside a session. -/
def execRequestUpdate (c : Component) (s : State) : Host.Outcome State Fault Refusal :=
  .next <|
    if s.quedonUpdates && s.quedon.session && s.fw.update.isNone then { s with fw := { s.fw with update := some c } } else s

/-- FIRMWARE_TRANSFER: the inactive bank of the named component, which is not valid before VerifyComplete; a bank that is to be
activated, or is taking over, is not written (R439, R441). -/
def execFirmwareTransfer (c : Component) (img : Image) (s : State) : Host.Outcome State Fault Refusal :=
  .next <|
    if s.quedonUpdates && s.quedon.session && s.fw.update == some c &&
        !(c == .control && (s.fw.handover.isSome || s.fw.activating.isSome)) then
      let b : FwBank := { state := 2, version := img.version, svn := img.svn, healthy := img.healthy, activated := false }
      { s with fw := { (s.fw.setInactive c b) with staged := some img } }
    else s

/-- VERIFY_COMPLETE: signature, component, SVN and length. -/
def execVerifyComplete (c : Component) (s : State) : Host.Outcome State Fault Refusal :=
  .next <| match s.fw.staged with
    | none => s
    | some img =>
      if !(s.quedonUpdates && s.quedon.session && s.fw.update == some c) then s
      else
        let ok := img.signatureOk && img.component == c && s.fw.minSvn ≤ img.svn && img.lengthOk
        let b : FwBank :=
          { state := if ok then 1 else 2, version := img.version, svn := img.svn, healthy := img.healthy, activated := false }
        let f := s.fw.setInactive c b
        { s with fw := { f with update := none, staged := none, lastResult := if ok then f.lastResult else 2 } }

/-- Quedon starts again, silent for at most 2 s; its session ends, a transfer in progress leaves an invalid bank, and the
records it served before are gone (R433, R438, R456). -/
def State.resetQuedon (s : State) : State :=
  let (n, s) := s.drawChoice 2000000001
  { s.dropUpdate with quedon := { s.quedon with session := false, quietUntil := s.tick + n, records := [] } }

/-- MANAGEMENT_RESET: of itself, or as FWREQ RESET 10. -/
def execManagementReset (s : State) : Host.Outcome State Fault Refusal :=
  .next (if s.fwDue 6 && s.fwArg 0 == 10 then s.resetQuedon.fwEnd 0 else s.resetQuedon)

/-! ## Activation and handover (R439, R440) -/

/-- A component's new bank becomes its active one. -/
def Firmware.activate (f : Firmware) (c : Component) : Firmware :=
  let f := f.setInactive c { f.inactive c with activated := true }
  match c with
  | .quedon => { f with quedonActive := 1 - f.quedonActive, lastResult := 1 }
  | .control => { f with controlActive := 1 - f.controlActive, lastResult := 1 }

/-- ACTIVATE_FIRMWARE: Quedon's new bank at once, which leaves the boot loader too, the control firmware's at a quiescent
point. -/
def execActivateFirmware (c : Component) (s : State) : Host.Outcome State Fault Refusal :=
  .next <|
    if !(s.quedonUpdates && s.quedon.session && (s.fw.inactive c).state == 1) then s
    else match c with
      | .quedon => { s with fw := s.fw.activate .quedon, quedon := { s.quedon with loader := false } }.resetQuedon
      | .control => if s.fw.handover.isSome then s else { s with fw := { s.fw with activating := some .control } }

/-- QUIESCENT_POINT: nothing firmware-served is in progress; commands that have not begun are held from now. A bank that is no
longer valid is never started (R441). -/
def execQuiescentPoint (s : State) : Host.Outcome State Fault Refusal :=
  .next <|
    if s.fw.activating.isSome && s.serving && !s.pmt.busy && s.fw.reqStatus != 1 && s.fw.devMode != .booting &&
        (s.fw.inactive .control).state == 1 then
      let ops := s.fw.ctl.map fun x => if x.2 then HeldOp.qctl x.1 (s.hostPort x.1).qctl else HeldOp.cctl x.1 (s.hostPort x.1).cctl
      { s with fw := { s.fw with activating := none, handover := some s.tick, ctl := [], held := ops } }
    else s

/-- HEALTH_CHECK_PASS: within 500 ms of the handover, by a firmware that works. -/
def execHealthCheckPass (s : State) : Host.Outcome State Fault Refusal :=
  .next <| match s.fw.handover with
    | none => s
    | some t =>
      let b := s.fw.inactive .control
      if !b.healthy || t + 500000000 < s.tick then s
      else
        State.serveAll { s with fw := { s.fw.activate .control with handover := none, ver := b.version, svn := b.svn } }

/-- HEALTH_CHECK_FAIL: the old bank goes on with the same state record. -/
def execHealthCheckFail (s : State) : Host.Outcome State Fault Refusal :=
  .next <|
    if s.fw.handover.isNone then s
    else
      let f := s.fw.setInactive .control { s.fw.inactive .control with state := 2 }
      State.serveAll { s with fw := { f with handover := none, rollback := true, lastResult := 3 } }

/-- SVN_RAISE: the fused minimum never falls. -/
def execSvnRaise (v : BitVec 32) (s : State) : Host.Outcome State Fault Refusal :=
  .next <|
    if s.quedonUpdates && s.quedon.session && s.fw.minSvn < v then { s with fw := { s.fw with minSvn := v } } else s

/-- PCIE_CONFIG_WRITE: MSI-X of a function is enabled or disabled (R468). -/
def execPcieConfigWrite (port : Nat) (msixOn : Bool) (s : State) : Host.Outcome State Fault Refusal :=
  .next (if port < 4 && (s.hostPort port).up then s.modHostPort port fun h => { h with msix := msixOn } else s)

end Sys2Proof.Machine
end

