-- ==== Sys2Proof/Machine/Errors.lean ====
section
/-! DEFINITION. Detections and what they poison (R394, R395, R466 to R468), and hard faults (R420, R467). -/

namespace Sys2Proof.Machine

/-! ## Poisoning a unit (R395) -/

/-- Poisons a 4-byte granule of a sector of L1. -/
def Sector.poison (x : Sector) (g : Nat) (c : Code) : Sector :=
  let y := (upto 4).foldl (fun (y : Sector) i =>
    { y with data := (y.data &&& ~~~(0xFF#1024 <<< (8 * (4 * g + i)))) ||| ((byteOf c i).zeroExtend 1024 <<< (8 * (4 * g + i))) }) x
  { y with psn := setBit y.psn g true }

def FarLine.poison (x : FarLine) (g : Nat) (c : Code) : FarLine :=
  { data := (x.data &&& ~~~(0xFFFFFFFF#2048 <<< (32 * g))) ||| (c.zeroExtend 2048 <<< (32 * g)), psn := setBit x.psn g true }

/-- Every 4-byte word of a poisoned flit holds the code. -/
def Flit.poison (f : Flit) (c : Code) : Flit :=
  { f with psn := some c, data := (upto f.data.length).map fun i => byteOf c (i % 4) }

def listAt {α : Type} (l : List α) (i : Nat) (f : α → α) : List α :=
  match l.drop i with
  | [] => l
  | x :: rest => l.take i ++ f x :: rest

/-- Four bytes of a code, all poisoned. -/
def codeGranule (c : Code) : List PByte := (bytesOf c 4).map fun b => (b, some c)

def State.poisonUnit (s : State) (u : PoisonUnit) (c : Code) : State :=
  match u with
  | .mem pa => if (s.memKind? pa).isSome then s.putMem (4 * (pa / 4)) (codeGranule c) else s
  | .l1 n pa =>
    let k := pa / 128
    if (s.reel n).sector k == Sector.empty then s
    else s.modReel n fun x => x.setSector k ((x.sector k).poison (pa % 128 / 4) c)
  | .far f pa =>
    s.modField f fun x => { x with far := listMod (fun kv => kv.1 == pa / 256) (fun kv => (kv.1, kv.2.poison (pa % 256 / 4) c)) x.far }
  | .ls n off =>
    s.modReel n fun x =>
      if off < lsSize && x.slabLive (off / 1024) then
        let (ls, p) := putBytes (fun _ => some c) 5 x.ls x.lsPsn (4 * (off / 4)) (bytesOf c 4)
        { x with ls := ls, lsPsn := p }
      else x
  | .scalar r n => s.modSlot r fun t => if t.phase == .free then t else t.setS n (SReg.poison c)
  | .mask r n => s.modSlot r fun t => if t.phase == .free then t else t.setM n (SReg.poison c)
  | .pred r n => s.modSlot r fun t => if t.phase == .free then t else t.setP n { t.getP n with code := some c }
  | .vector r n g => s.modSlot r fun t =>
      if t.isLive n then { t with v := t.v.put VReg.zero n ((t.getV n).setGranule (g % 64) c true) } else t
  | .tile n row lane => s.modReel n fun x =>
      { x with tile := x.tile.put VReg.zero row ((x.tile.get VReg.zero row).setGranule (lane % 64) c true) }
  | .flit l i => s.modLine l fun x =>
      if i < x.buf.length then { x with buf := listAt x.buf i fun f => f.poison c }
      else { x with arrived := listAt x.arrived (i - x.buf.length) fun f => f.poison c }
  | .plane k cell shadow => s.modKite k fun x =>
      let bad : Plane := { data := BitVec.ofNat 1664 (natOfLanes 32 (List.replicate 52 c.toNat)), psn := some c }
      if shadow then { x with shadow := x.shadow.put Plane.zero cell bad } else { x with active := x.active.put Plane.zero cell bad }
  | .ctxWord k cell tag => s.modKite k fun x =>
      { x with words := x.words.put CtxWord.zero (8 * cell + tag) { val := c.zeroExtend 64, psn := true } }
  | .none => s

/-! ## Detections (R466, R467) -/

/-- Storage whose uncorrectable errors mark logic as unfit (R467): local store, register file, tile, line buffer, cells. -/
def hardKind (k : Nat) : Bool := 6 ≤ k && k ≤ 10

/-- Field of an entry: 63 for host and peer (R394). -/
def kindField (k f : Nat) : Nat := if k == 11 || k == 12 then 63 else f

/-- A corrected error; the seventeenth at one such location within an hour is a hard fault, and that is its entry (R466,
R467). -/
def State.corrected (s : State) (d : Detection) : State :=
  let noted (s : State) : State := s.rasCorrected d.kind (kindField d.kind d.field) d.pa d.loc
  if !hardKind d.kind then noted s
  else
    let soft := (s.fw.soft ++ [(d.loc, s.tick)]).filter fun x => s.tick ≤ x.2 + 3600000000000
    let n := (soft.filter fun x => x.1 == d.loc).length
    if 17 ≤ n then
      ({ s with fw := { s.fw with soft := soft.filter fun x => x.1 != d.loc } }).hardFound d.kind d.field d.pa d.loc
    else noted { s with fw := { s.fw with soft := soft } }

/-- ERROR_DETECTION: corrected, or uncorrected with poison and an origin code, or an event. -/
def execErrorDetection (d : Detection) (s : State) : Host.Outcome State Fault Refusal :=
  .next <|
    if d.severity == 0 then s.corrected d
    else if d.severity == 3 then s.rasEvent d.kind (kindField d.kind d.field) d.pa d.loc
    else
      let hard := hardKind d.kind
      let (c, s) := s.rasAppend d.kind (kindField d.kind d.field) (if hard then 2 else 1) true d.pa d.loc
      let s := d.units.foldl (fun s u => s.poisonUnit u c) s
      if hard then { s with fw := { s.fw with hardFaults := s.fw.hardFaults ++ [d.loc] } } else s

/-! ## Hard faults (R420) -/

/-- HARD_FAULT: entries PENDING, the field suspect, and the tasks of partitions that hold it killed with FIELD_FAULT. -/
def execHardFault (loc : Word) (s : State) : Host.Outcome State Fault Refusal :=
  .next <|
    if !s.fw.hardFaults.contains loc then s
    else
      let f := entryField loc
      let code := ((s.quedon.ras.reverse.find? fun e => e.loc == loc && e.severity == 2).map (·.code)).getD 0
      let s := { s with fw := { s.fw with hardFaults := s.fw.hardFaults.erase loc } }
      let s := if s.fw.devMode == .safe then s
        else ((s.appendEntry (mapEntry (entryKind loc) f 0 (entryWhere loc))).appendEntry (mapEntry 8 f 0 code.toNat)).notePending
      let s := s.suspect f
      let hit (t : Task) : Bool := (s.partByHandle? t.part).any fun p => p.hasField f && !p.evicted
      (s.tasks.filter hit).foldl (fun s t => s.killTask t 9) s

end Sys2Proof.Machine
end

