-- ==== Sys2Proof/Machine/Power.lean ====
section
/-! DEFINITION. The power manager: current floor and ballast (R443), the control interval and its steps (R445 to R447),
heat (R448, R449), gating (R444, R450), margin stretches (R451), the end of a lease (R454). -/

namespace Sys2Proof.Machine

/-- A change of the power manager's registers. -/
def State.modPower (s : State) (f : Power → Power) : State := { s with power := f s.power }

/-! ## The registers in force (R442) -/

def clampNat (lo hi x : Nat) : Nat := max lo (min hi x)

/-- CAP in W, as a register value gives it, and as it is in force. -/
def capOf (v : Word) : Nat := 50 * clampNat 160 480 (bitsOf v 0 16)
def Power.capW (p : Power) : Nat := capOf p.capNow
/-- DOWN in A/µs. -/
def Power.down (p : Power) : Nat := clampNat 100 2000 (bitsOf p.slopeNow 0 16)
def Power.lateMax (p : Power) : Nat := min 63 (bitsOf p.polNow 16 8)

/-! ## Current floor (R443) -/

/-- The floor of a field in µA for one switch cycle: its demand, or the last floor less the field's share of DOWN. -/
def floorNext (demand floor share : Nat) : Nat := max demand (floor - share)

/-- CURRENT_FLOOR: one switch cycle of a field's power unit; demand in A. -/
def execCurrentFloor (field demand : Nat) (s : State) : Host.Outcome State Fault Refusal :=
  .next <|
    if s.power.railOff then s
    else
      let d := 1000000 * demand
      let f := floorNext d (s.field field).floor (s.field field).share
      (s.modField field fun x => { x with floor := f, ballast := f - d }).modPower fun p =>
        { p with ballastSum := p.ballastSum + (f - d) }

/-- Each field's share of DOWN in µA for one switch cycle: its share of the rail current (R443). -/
def State.shareDown (s : State) (m : Measurement) : State :=
  let total := m.fieldPower.foldl (· + ·) 0
  (upto 42).foldl (fun (s : State) f =>
    let share := if total == 0 then 0 else s.power.down * 1000000 * m.fieldPower.getD f 0 / (1500 * total)
    s.modField f fun x => { x with share := share }) s

/-! ## Heat (R448, R449) -/

/-- A field as its hottest sensor leaves it. -/
def Field.sense (x : Field) (thot tcrit tick : Nat) (t : Int) : Field :=
  let x := { x with temp := t }
  let x := if (thot : Int) < t then { x with hot := true, coolSince := none }
    else if x.hot && t < (thot : Int) - 3 then { x with coolSince := some (x.coolSince.getD tick) }
    else { x with coolSince := none }
  if (tcrit : Int) < t then { x with crit := true }
  else if t < (thot : Int) then { x with crit := false } else x

def State.senseAll (s : State) (m : Measurement) : State :=
  (upto 42).foldl (fun (s : State) f =>
    s.modField f fun x => x.sense s.power.thotNow s.power.tcritNow s.tick (m.temps.getD f x.temp)) s

def shutdownTemp : Int := 115

/-- Removing the core rail: everything that ran stops until a cold device reset. -/
def State.shutdown (s : State) (field : Nat) : State :=
  let s := s.clearCompute.rasEvent 14 field 0 0
  let s := s.modPower fun p => { p with railOff := true, shutField := field, shutTick := s.tick }
  let s := (upto 42).foldl (fun (s : State) f => s.modField f fun x => { x with floor := 0, share := 0, ballast := 0 }) s
  { s with fw := { s.fw with devMode := .booting, start := none } }

/-! ## Steps (R445) -/

/-- The field that draws the most power; the first of equals. -/
def maxField (l : List Nat) : Option Nat :=
  let best := (l.take 42).foldl max 0
  (upto 42).find? fun f => f < l.length && l.getD f 0 == best

/-- Whether a step is open. -/
def State.stepOpen (s : State) (m : Measurement) (n : Nat) : Bool :=
  match n with
  | 1 => s.power.polNow.getLsbD 0 && (s.field 0).late < s.power.lateMax
  | 2 => s.power.polNow.getLsbD 1 && s.power.window < 12
  | 3 => !(s.power.steps.any (·.1 == 3)) && (upto 42).any fun f => (s.fieldLease f).any fun l => l.mhz != 1500
  | _ => match maxField m.fieldPower with
    | some f => (upto 11).any fun r => (s.field f).pmDiv.get 1 r < 8
    | none => false

/-- A change of every row domain's divider of a field by the power manager. -/
def State.modDividers (s : State) (field : Nat) (g : Nat → Nat) : State :=
  s.modField field fun x => { x with pmDiv := (upto 11).foldl (fun m r => m.put 1 r (g (m.get 1 r))) x.pmDiv }

/-- Step 4 in one field. -/
def State.slowField (s : State) (field : Nat) : State :=
  if (upto 11).any fun r => (s.field field).pmDiv.get 1 r < 8 then
    (s.modDividers field fun d => min 8 (d + 1)).modPower fun p =>
      { p with steps := (4, field) :: p.steps, highNow := max p.highNow 4 }
  else s

/-- Takes a step; step 1 remembers the count it replaces. -/
def State.takeStep (s : State) (m : Measurement) (n : Nat) : State :=
  match n with
  | 1 =>
    let old := (s.field 0).late
    let new := min s.power.lateMax (old + 4)
    ((upto 42).foldl (fun (s : State) f => s.modField f fun x => { x with late := new }) s).modPower fun p =>
      { p with steps := (1, old) :: p.steps, highNow := max p.highNow 1 }
  | 2 => s.modPower fun p => { p with window := p.window + 1, steps := (2, 0) :: p.steps, highNow := max p.highNow 2 }
  | 3 => s.modPower fun p => { p with steps := (3, 0) :: p.steps, highNow := max p.highNow 3 }
  | _ => match maxField m.fieldPower with
    | some f => s.slowField f
    | none => s

/-- Undoes the last step taken. -/
def State.undoStep (s : State) : State :=
  match s.power.steps with
  | [] => s
  | (n, k) :: rest =>
    let s := s.modPower fun p => { p with steps := rest }
    match n with
    | 1 => (upto 42).foldl (fun (s : State) f => s.modField f fun x => { x with late := k }) s
    | 2 => s.modPower fun p => { p with window := p.window - 1 }
    | 3 => s
    | _ => s.modDividers k fun d => max 1 (d - 1)

/-- One step of the order, or one undone; steps 3 and 4 are held while energy is owed (R445, R446). -/
def State.regulate (s : State) (m : Measurement) : State :=
  if s.power.enfw < m.power then
    match [1, 2, 3, 4].find? (s.stepOpen m) with
    | some n => s.takeStep m n
    | none => s
  else if m.power * 100 < 98 * s.power.enfw then
    match s.power.steps with
    | (n, _) :: _ => if 3 ≤ n && s.power.owed != 0 then s else s.undoStep
    | [] => s
  else s

/-- Switch cycles late at which a field's routers return a freed buffer slot: LATEMAX in a hot field, elsewhere the count that
step 1 has reached (R448). It changes only time. -/
def State.lateReturn (s : State) (f : Nat) : Nat := if (s.field f).hot then s.power.lateMax else (s.field f).late

/-! ## The enforced cap and overshoot (R446, R447) -/

/-- The registers as this control interval finds them are in force from now (R442). -/
def Power.takeRegs (p : Power) : Power :=
  { p with polNow := p.pwrpol, capNow := p.pwrcap, slopeNow := p.pwrslope, tcritNow := p.tcrit, thotNow := p.thot }

/-- The average power of each of the 10 µs of an interval. -/
def eachMicro (m : Measurement) : List Nat := (upto 10).map fun k => m.trace.getD k m.power

/-- A control interval of 10 µs has ended: its energy above CAP in µJ, and what the average of its window counts (R446, R460). -/
def Power.drawn (p : Power) (m : Measurement) : Power :=
  { p with above := (eachMicro m).foldl (fun n w => n + (w - p.capW)) p.above
           sum := (eachMicro m).foldl (· + ·) p.sum, count := p.count + 10
           power := m.power, railmV := m.railmV, railA := m.railA }

/-- The 1 ms windows of the time counter: at the end of one, its energy above CAP is owed in the next, and the figures of
POWER_V1 follow (R446, R453, R460). -/
def Power.roll (p : Power) (tick : Nat) : Power :=
  let n := tick / 1000000
  if n ≤ p.windowNo then p
  else
    { p with windowNo := n, owed := if n == p.windowNo + 1 then min 65535 (p.above / 1000) else 0, above := 0
             average := if p.count == 0 then p.average else p.sum / p.count, highest := p.highNow
             overTime := p.overNowTime, sum := 0, count := 0, highNow := 0, overNowTime := 0 }

/-- ENFW falls from `from_` W at this tick. -/
def Power.ramp (p : Power) (tick from_ : Nat) : Power := { p with enfw := from_, rampFrom := from_, rampAt := some tick }

/-- ENFW at a later tick: on its way down it has fallen by 0.72 · DOWN W/µs (R446). -/
def Power.fallTo (p : Power) (tick : Nat) : Power :=
  match p.rampAt with
  | none => p
  | some t =>
    let w := max p.capW (p.rampFrom - 72 * p.down * (tick - t) / 100000)
    { p with enfw := w, rampAt := if w == p.capW then none else some t }

/-- ENFW for this interval, after the registers `old`: a raised CAP is taken at once; one lowered below the present power is
reached from that power, from ENFW itself where that lies lower (log entry 113). -/
def Power.nextCap (p old : Power) (tick power : Nat) : Power :=
  let t := p.capW
  if old.capW < t then { p with enfw := t, rampAt := none }
  else if t < old.capW && t < power then p.ramp tick (max t (min p.enfw power))
  else if p.rampAt.isSome then (if p.down == old.down then p else p.ramp tick p.enfw)
  else { p with enfw := t }

/-- Records an overshoot of this interval: counted once for each time power rises above ENFW. -/
def Power.noteOvershoot (p : Power) (tick power : Nat) : Power :=
  let recent := p.overAt.filter fun t => tick < t + 1000000
  if p.enfw < power then
    { p with overBit := true, overshoots := if p.overNow then p.overshoots else p.overshoots + 1, overNow := true
             overNowTime := p.overNowTime + 10, overAt := recent ++ [tick] }
  else { p with overNow := false, overAt := recent }

/-- An overshoot that passes a bound, or would by going on: 2 % of CAP, or 100 µs in total in any 1 ms (R447). -/
def Power.outOfBounds (p : Power) (power : Nat) : Bool :=
  p.enfw < power && (p.capW < 50 * (power - p.enfw) || 10 ≤ p.overAt.length)

/-- CONTROL_INTERVAL: registers, sensors, enforced cap, overshoot, and one step. During a handover no register is taken and ENFW
stays as it is; enforcement goes on at that setting (R439). -/
def execControlInterval (m : Measurement) (s : State) : Host.Outcome State Fault Refusal :=
  .next <|
    if s.power.railOff then s
    else
      let served := s.fw.handover.isNone
      let old := s.power
      let s := s.modPower fun p =>
        let p := (p.drawn m).roll s.tick
        if served then p.takeRegs else p
      let s := (s.shareDown m).senseAll m
      match (upto 42).find? fun f => shutdownTemp < (s.field f).temp with
      | some f => s.shutdown f
      | none =>
        let s := if served then s.modPower fun p => p.nextCap old s.tick m.power else s
        let s := s.modPower fun p => p.noteOvershoot s.tick m.power
        if s.power.outOfBounds m.power then (upto 42).foldl State.slowField s else s.regulate m

/-- ENERGY_WINDOW: the window of this number has ended by the time counter (R446, R453). -/
def execEnergyWindow (window : Nat) (s : State) : Host.Outcome State Fault Refusal :=
  .next (if s.tick / 1000000 ≤ window then s else s.modPower fun p => p.roll s.tick)

/-- HOT_CLEAR: the sensors have read below THOT − 3 °C for 1 ms (R448). -/
def execHotClear (field : Nat) (s : State) : Host.Outcome State Fault Refusal :=
  .next <| match (s.field field).coolSince with
    | some t => if t + 1000000 ≤ s.tick then s.modField field fun x => { x with hot := false, coolSince := none } else s
    | none => s

/-! ## Margin stretches (R451) -/

/-- STRETCH_WARNING: one step more for the clock group; after 1 µs of warnings at 4 steps the divider rises and is held. -/
def execStretchWarning (rd : Nat) (s : State) : Host.Outcome State Fault Refusal :=
  .next <|
    let n := s.groupStretch rd
    let r := rd % 11
    let s := s.modGroup rd fun x k => { x with lastWarn := x.lastWarn.put 0 k s.tick }
    if n < 4 then s.modGroup rd fun x k => { x with stretch := x.stretch.put 0 k (n + 1) }
    else
      let since := (s.field (rd / 11)).warn4.get 0 r
      if since == 0 then s.modField (rd / 11) fun x => { x with warn4 := x.warn4.put 0 r (s.tick + 1) }
      else if since - 1 + 1000 ≤ s.tick then
        let d := min 8 (s.divider rd + 1)
        s.modField (rd / 11) fun x =>
          { x with warn4 := x.warn4.put 0 r 0, divHold := x.divHold.put 1 r d, divHoldAt := x.divHoldAt.put 0 r (s.tick + 1000000) }
      else s

/-- STRETCH_RELAX: 1 µs without a warning in the clock group takes one step back. -/
def execStretchRelax (rd : Nat) (s : State) : Host.Outcome State Fault Refusal :=
  .next <|
    let n := s.groupStretch rd
    let warned := (s.clockGroup rd).foldl (fun m d => max m ((s.field (d / 11)).lastWarn.get 0 (d % 11))) 0
    if n != 0 && warned + 1000 ≤ s.tick then
      s.modGroup rd fun x k =>
        { x with stretch := x.stretch.put 0 k (n - 1), lastWarn := x.lastWarn.put 0 k s.tick, warn4 := x.warn4.put 0 k 0 }
    else s

/-- DIVIDER_HOLD_END: the held divider ends after 1 ms. -/
def execDividerHoldEnd (rd : Nat) (s : State) : Host.Outcome State Fault Refusal :=
  .next <|
    let x := s.field (rd / 11)
    if x.divHold.get 1 (rd % 11) != 1 && x.divHoldAt.get 0 (rd % 11) ≤ s.tick then
      s.modField (rd / 11) fun x =>
        { x with divHold := x.divHold.put 1 (rd % 11) 1, divHoldAt := x.divHoldAt.put 0 (rd % 11) 0 }
    else s

/-! ## Gating (R444, R450) -/

/-- A strand is READY (R26): live, not waiting, and its next instruction not held. -/
def State.isReady (s : State) (r : StrandRef) : Bool :=
  let t := s.slot r
  let c := (s.reel r.reel).cycle
  !t.stopped c && match s.fetch r with
    | .word w => match decode w with
      | .ok i => !t.regsHold c i && (State.bankHold { s with cur := r } i).isNone
      | .error _ => true
    | _ => true

/-- No slot of the field READY, no engine of its reels holding a command, no flit bound for its cells (R450). -/
def State.fieldIdle (s : State) (f : Nat) : Bool :=
  (s.reels.all fun rx => fieldOfReel rx.1 != f ||
    (rx.2.feedQ.isEmpty && rx.2.kvQ.isEmpty && rx.2.drainQ.isEmpty && rx.2.copyQ.isEmpty && rx.2.ctlQ.isEmpty &&
      rx.2.slots.all fun kt => !s.isReady { reel := rx.1, slot := kt.1 })) &&
  s.lines.all fun l => !(3 ≤ l.snk.kind && l.snk.kind ≤ 4) || (l.buf.isEmpty && l.arrived.isEmpty) ||
    s.kites.all fun k => k.handle != l.snk.kite || (s.kiteRows k).all fun rd => rd / 11 != f

/-- An event that is held for the row domains of the field: data, an answer, a collective's result or a token for one of its
reels, a configuration command, a task or a strand to start there (R450). -/
def State.fieldEvent (s : State) (f : Nat) : Bool :=
  let mine (n : Nat) : Bool := fieldOfReel n == f
  (s.reqs.any fun q => mine q.reel && s.replyDue q && q.dst != .none) ||
  (s.spawns.any fun sp => (mine sp.reel || mine sp.target) && s.spawnDue sp) ||
  (s.saves.any fun v => mine v.reel) ||
  (s.invs.any fun v => mine v.reel && popCount v.waiting ≤ 1) ||
  (s.fw.handover.isNone && (s.fw.held.head?.bind (·.asker?)).any fun a => mine a.reel) ||
  s.parts.any fun p =>
    (!p.suspended && (s.configTurn? p).any fun c => (s.configFields p c).contains f) ||
    (mine (p.reel 0 0) && (s.chosen p).any fun q => (s.queue q).head.any (·.type == 1)) ||
    p.colls.any fun c => let cs := p.openRound c.id; s.collDue p cs && cs.any fun c => mine c.reel

/-- FIELD_GATE: the first look at an idle field notes the time; after IDLEUS, or at once on a hint, its clocks stop. -/
def execFieldGate (field : Nat) (s : State) : Host.Outcome State Fault Refusal :=
  .next <|
    let x := s.field field
    if x.gated || !s.fieldIdle field then s
    else
      let since := x.idleSince.getD s.tick
      let now := x.idleHint || since + 1000 * s.power.idleUs ≤ s.tick
      s.modField field fun x => if now then { x with gated := true, idleHint := false, idleSince := some since }
        else { x with idleSince := some since }

/-- FIELD_UNGATE: for what no longer idles, or for an event that is held; one field at a time, no more than one for every 2 µs (R444). -/
def execFieldUngate (field : Nat) (s : State) : Host.Outcome State Fault Refusal :=
  .next <|
    let free := match s.power.ungateAt with
      | some t => t + 2000 ≤ s.tick
      | none => true
    if (s.field field).gated && (!s.fieldIdle field || s.fieldEvent field) && free then
      (s.modField field fun x => { x with gated := false, idleSince := none }).modPower fun p => { p with ungateAt := some s.tick }
    else s

/-- LEASE_EXPIRY: a lease that is not suspended ends at its tick (R454). -/
def execLeaseExpiry (ctx : Nat) (s : State) : Host.Outcome State Fault Refusal :=
  .next <| match (s.ctx ctx).lease with
    | some l => if l.kept.isNone && l.expiry ≤ s.tick then s.modCtx ctx fun x => { x with lease := none } else s
    | none => s

end Sys2Proof.Machine
end

