-- ==== Sys2Proof/Machine/Registers.lean ====
section
/-! DEFINITION. Writes to the register window (R351 to R357, R373, R377, R379, R414, R415). -/

namespace Sys2Proof.Machine

/-! ## Descriptors -/

/-- A word of a queue descriptor: written only while the queue is DISABLED (R354). -/
def State.writeQueueDesc (s : State) (q i : Nat) (v : Word) : State :=
  let x := s.queue q
  if x.state != .disabled then s
  else match i with
    | 0 => s.setQueue q { x with ring := v }
    | 1 => s.setQueue q { x with logn := bitsOf v 0 8, ctx := bitsOf v 8 8, qprio := bitsOf v 16 8, rsv := bitsOf v 24 40 != 0 }
    | 2 => s.setQueue q { x with part := v.toNat }
    | 3 => s.setQueue q { x with cls := v }
    | 4 => s.setQueue q { x with errrec := v }
    | 5 => s.setQueue q { x with rdidx := v.toNat }
    | _ => s

/-- A word of a context descriptor: while the context exists only AGE, FLAGS bits 2:1 and IRQPORT take effect (R352). -/
def State.writeCtxDesc (s : State) (c i : Nat) (v : Word) : State :=
  let put (s : State) (v : Word) : State := { s with ctxDesc := s.ctxDesc.put 0 (8 * c + i) v }
  if !(s.ctx c).live then put s v
  else match i with
    | 2 =>
      let keep := s.ctxDescWord c 2
      let irq := if bitsOf v 48 8 ≤ 3 then bitsOf v 48 8 else (s.ctx c).irqPort
      let flags := ((s.ctx c).flags &&& 0xF9) ||| (byteOf v 5 &&& 6)
      (put s ((keep &&& 0xFF00_00FF_FFFF_FFFF) ||| word (flags.toNat <<< 40 + irq <<< 48))).modCtx c fun x =>
        { x with flags := flags, irqPort := irq }
    | 3 => (put s v).modCtx c fun x => { x with age := v }
    | _ => s

/-- Words of a host window; reserved bytes are ignored (R8, R373). -/
def State.writeHostWin (s : State) (w i : Nat) (v : Word) : State :=
  let x := s.hostWins.get HostWindow.reset w
  let put (x : HostWindow) : State := { s with hostWins := s.hostWins.put HostWindow.reset w x }
  match i with
  | 0 => put { x with base := v }
  | 1 => put { x with size := v }
  | 2 => put { x with ports := byteOf v 0 }
  | _ => s

/-- Words of a peer window (R377). -/
def State.writePeerWin (s : State) (w i : Nat) (v : Word) : State :=
  let x := s.peerWindow w
  let put (x : PeerWindow) : State := { s with peerWins := s.peerWins.put PeerWindow.reset w x }
  match i with
  | 0 => put { x with base := v }
  | 1 => put { x with size := v }
  | 2 => put { x with ctx := bitsOf v 0 8, flags := byteOf v 1 &&& 3, sender := v.extractLsb' 16 16 }
  | _ => s

/-! ## Commands -/

/-- A write of QCTL or CCTL: a known command becomes PENDING, served in order or held (R353, R355, R439); while one is PENDING
another is ignored, and a write with CMD 0 writes the name alone. -/
def State.writeCtl (s : State) (port : Nat) (queue : Bool) (v : Word) : State :=
  let old := if queue then (s.hostPort port).qctl else (s.hostPort port).cctl
  let name := bitsOf v 32 (if queue then 10 else 6) <<< 32
  let cmd := bitsOf v 0 8
  if bitsOf old 8 8 == 1 then
    if cmd != 0 then s
    else
      let new := word (name + bitsOf old 0 16)
      s.modHostPort port fun h => if queue then { h with qctl := new } else { h with cctl := new }
  else
    let known := 1 ≤ cmd && cmd ≤ (if queue then 5 else 4)
    let new := if known then word (name + 0x100 + cmd) else word (name + bitsOf old 8 8 <<< 8)
    let s := s.modHostPort port fun h => if queue then { h with qctl := new } else { h with cctl := new }
    if !known then s
    else if s.serving then { s with fw := { s.fw with ctl := s.fw.ctl ++ [(port, queue)] } }
    else
      let op := if queue then HeldOp.qctl port new else HeldOp.cctl port new
      { s with fw := { s.fw with held := s.fw.held ++ [op] } }

/-- A write of FWREQ (R415). -/
def State.writeFwreq (s : State) (v : Word) : State :=
  let op := bitsOf v 0 8
  if s.fw.reqStatus == 1 || op == 0 then s
  else
    let s := { s with fw := { s.fw with reqStatus := 1, reqOp := op } }
    if !s.serving then { s with fw := { s.fw with held := s.fw.held ++ [.fwreq v] } }
    else if s.fwBad then s.fwEnd 2
    else s

/-- Identity and capability registers (R414). -/
def State.writeIdent (s : State) (off : Nat) (v : Word) : State :=
  match off with
  | 0x008 => { s with fw := { s.fw with rollback := s.fw.rollback && !v.getLsbD 51 } }
  | 0x020 => if bitsOf v 0 3 ≤ 4 then { s with fw := { s.fw with fcslice := bitsOf v 0 3 } } else s
  | 0x040 => s.writeFwreq v
  | 0x048 | 0x050 | 0x058 | 0x060 => { s with fw := { s.fw with args := s.fw.args.put 0 ((off - 0x48) / 8) v } }
  | _ => s

/-! ## The window (R351) -/

/-- An aligned 8-byte write at an offset of BAR0; every other access writes nothing. -/
def State.barWrite (s : State) (port off : Nat) (v : Word) : State :=
  if off % 8 != 0 then s
  else if off < 0x1000 then s.writeIdent off v
  else if 0x100000 ≤ off && off < 0x110000 then s.writeQueueDesc ((off - 0x100000) / 64) (off % 64 / 8) v
  else if off == 0x110000 then s.writeCtl port true v
  else if 0x120000 ≤ off && off < 0x121000 then s.writeCtxDesc ((off - 0x120000) / 64) (off % 64 / 8) v
  else if off == 0x121000 then s.writeCtl port false v
  else if off == 0x121008 then s.modHostPort port fun h => { h with cdata := v }
  else if 0x130000 ≤ off && off < 0x130100 then s.writeHostWin ((off - 0x130000) / 32) (off % 32 / 8) v
  else if 0x140000 ≤ off && off < 0x142000 then s.writePeerWin ((off - 0x140000) / 32) (off % 32 / 8) v
  else if off == 0x142000 then { s with peertmo := v }
  else if 0x200000 ≤ off && off < 0x600000 && off % 4096 == 0 then s.ring ((off - 0x200000) / 4096) v
  else s

/-- REGISTER_WRITE: through a port that is up, once BAR0 answers (R411). -/
def execRegisterWrite (port off : Nat) (v : Word) (s : State) : Host.Outcome State Fault Refusal :=
  .next (if port < 4 && (s.hostPort port).up && s.fw.devMode != .booting then s.barWrite port off v else s)

/-! ## What the window reads (R351 to R357, R373, R377, R379, R414) -/

def DevMode.code : DevMode → Nat
  | .booting => 0 | .bringup => 1 | .full => 2 | .safe => 3

def QState.code : QState → Nat
  | .disabled => 0 | .active => 1 | .paused => 2 | .faulted => 3 | .draining => 4

/-- Bits 51:48 of DEVSTATE. -/
def Firmware.stateBits (f : Firmware) : Nat :=
  bit f.mapInvalid + 2 * bit f.mx4Off + 4 * bit f.deltaPending + 8 * bit f.rollback

/-- A bit for each field. -/
def State.fieldBits (s : State) (p : Field → Bool) : Nat := natOfLanes 1 ((upto 42).map fun f => bit (p (s.field f)))

/-- Identity and capability registers. -/
def State.readIdent (s : State) (off : Nat) : Word :=
  match off with
  | 0x000 => word (0x0B20 <<< 32 + Config.stepping.toNat <<< 16 + Config.vendorId.toNat <<< 48)
  | 0x008 => word (s.fw.devMode.code <<< 56 + s.fw.stateBits <<< 48 + s.fw.clkMHz % 65536)
  | 0x010 => word (s.fieldBits (·.offered))
  | 0x018 => word (bit s.fw.withhold <<< 63 + s.fieldBits (·.suspect))
  | 0x020 => word s.fw.fcslice
  | 0x028 => word (s.fw.ver.toNat <<< 32 + s.fw.svn.toNat)
  | 0x040 => word (s.fw.reqStatus <<< 8)
  | 0x048 | 0x050 | 0x058 | 0x060 => s.fw.args.get 0 ((off - 0x48) / 8)
  | 0x068 => s.fw.rsp
  | _ => 0

/-- Words of a queue descriptor; reserved fields read zero (R8). -/
def State.readQueueDesc (s : State) (q i : Nat) : Word :=
  let x := s.queue q
  match i with
  | 0 => x.ring
  | 1 => word (x.logn + x.ctx <<< 8 + x.qprio <<< 16)
  | 2 => word x.part
  | 3 => x.cls &&& 0xFF_FFFF_FFFF
  | 4 => x.errrec
  | 5 => word x.rdidx
  | 6 => word x.wridx
  | _ => word (x.state.code + x.errcode <<< 16 + x.inflt <<< 32)

def State.readHostWin (s : State) (w i : Nat) : Word :=
  let x := s.hostWins.get HostWindow.reset w
  match i with
  | 0 => x.base
  | 1 => x.size
  | 2 => x.ports.zeroExtend 64
  | _ => 0

def State.readPeerWin (s : State) (w i : Nat) : Word :=
  let x := s.peerWindow w
  match i with
  | 0 => x.base
  | 1 => x.size
  | 2 => word (x.ctx + x.flags.toNat <<< 8 + x.sender.toNat <<< 16)
  | _ => 0

/-- Words of a context descriptor; reserved fields read zero (R8). -/
def State.readCtxDesc (s : State) (c i : Nat) : Word :=
  match i with
  | 0 | 1 | 3 => s.ctxDescWord c i
  | 2 => s.ctxDescWord c i &&& 0x00FF_07FF_FFFF_FFFF
  | _ => 0

/-- The value of an aligned 8-byte read of BAR0; any other access, a write-only or an unlisted offset reads zero. -/
def State.barRead (s : State) (port off : Nat) : Word :=
  if off % 8 != 0 || s.fw.devMode == .booting then 0
  else if off < 0x1000 then s.readIdent off
  else if 0x100000 ≤ off && off < 0x110000 then s.readQueueDesc ((off - 0x100000) / 64) (off % 64 / 8)
  else if off == 0x110000 then (s.hostPort port).qctl &&& 0x0000_03FF_0000_FF00
  else if 0x120000 ≤ off && off < 0x121000 then s.readCtxDesc ((off - 0x120000) / 64) (off % 64 / 8)
  else if off == 0x121000 then (s.hostPort port).cctl &&& 0x0000_003F_0000_FF00
  else if off == 0x121008 then (s.hostPort port).cdata
  else if 0x130000 ≤ off && off < 0x130100 then s.readHostWin ((off - 0x130000) / 32) (off % 32 / 8)
  else if 0x140000 ≤ off && off < 0x142000 then s.readPeerWin ((off - 0x140000) / 32) (off % 32 / 8)
  else if off == 0x142000 then s.peertmo
  else 0

end Sys2Proof.Machine
end

