-- ==== Sys2Proof/Machine/Scalar.lean ====
section
/-! DEFINITION. Scalar integer, predicate and immediate instructions (R110, R195 to R208). -/

namespace Sys2Proof.Machine

/-! ## Shared forms -/

/-- s[DST] takes a value computed from s[SA] and s[SB]; poison travels (R212). -/
def scalar2 (i : Instr) (f : RF) (s : State) (v : Word → Word → Word) : Host.Outcome State Fault Refusal :=
  issue i s fun a b =>
    let x := a.rs f.sa
    let y := a.rs f.sb
    .done (b.setRs f.dst (SReg.of [(a.me).guardCode f.grd, x.code, y.code] (v x.val y.val)))

/-- The same from s[SA] alone. -/
def scalar1 (i : Instr) (f : RF) (s : State) (v : Word → Word) : Host.Outcome State Fault Refusal :=
  issue i s fun a b =>
    let x := a.rs f.sa
    .done (b.setRs f.dst (SReg.of [(a.me).guardCode f.grd, x.code] (v x.val)))

/-- The same from three sources. -/
def scalar3 (i : Instr) (f : RF) (s : State) (v : Word → Word → Word → Word) :
    Host.Outcome State Fault Refusal :=
  issue i s fun a b =>
    let x := a.rs f.sa
    let y := a.rs f.sb
    let z := a.rs f.sc
    .done (b.setRs f.dst (SReg.of [(a.me).guardCode f.grd, x.code, y.code, z.code] (v x.val y.val z.val)))

/-- Format I: s[DST] takes a value computed from s[SA] and the immediate. -/
def scalarImm (i : Instr) (f : IF) (s : State) (v : Word → Word) : Host.Outcome State Fault Refusal :=
  issue i s fun a b =>
    let x := a.rs f.sa
    .done (b.setRs f.dst (SReg.of [(a.me).guardCode f.grd, x.code] (v x.val)))

/-- sext64(IMM) and zext64(IMM) of R107. -/
def immS (f : IF) : Word := f.imm.signExtend 64
def immZ (f : IF) : Word := f.imm.zeroExtend 64

/-! ## Values (R198 to R201) -/

/-- Arithmetic on the exact values of two operands (R198). -/
def arith2 (f : RF) (op : Int → Int → Int) (x y : Word) : Word := result f.ty f.sat (op (opnd f.ty x) (opnd f.ty y))

/-- A bit pattern in the type's width (R198). -/
def patResult (t : Ty) (n : Nat) : Word := result t false (n : Int)

def mulhVal (t : Ty) (a b : Int) : Int := (a * b) / ((2 ^ t.bits : Nat) : Int)

/-- DIV of R199. -/
def divVal (t : Ty) (a b : Int) : Int :=
  if b = 0 then if t.sgn64 then -1 else ((2 ^ t.bits : Nat) : Int) - 1 else a.tdiv b
/-- REM of R199. -/
def remVal (a b : Int) : Int := if b = 0 then a else a - b * a.tdiv b

/-- SHL: A · 2^n, where a count of the width or more leaves no bit of a wrapped result (R198). -/
def shlVal (w : Nat) (sat : Bool) (a : Int) (n : Nat) : Int :=
  if sat then if n ≤ w then a * (2 ^ n : Nat) else a * (2 ^ w : Nat)
  else if n < w then a * (2 ^ n : Nat) else 0

/-- SHR of a pattern (R198). -/
def shrVal (w p n : Nat) : Nat := if n < w then p >>> n else 0
/-- SAR of a pattern read as signed (R198). -/
def sarVal (w p n : Nat) : Int := (signed w p) / ((2 ^ (min n w) : Nat) : Int)
/-- ROL of a pattern (R198). -/
def rolVal (w p n : Nat) : Nat := let k := n % w; (p <<< k + p >>> (w - k)) % 2 ^ w
/-- CLZ of a pattern (R198). -/
def clzVal (w p : Nat) : Nat := if p == 0 then w else w - 1 - p.log2
/-- POPC of a pattern (R198). -/
def popcVal (w p : Nat) : Nat := (upto w).foldl (fun a i => a + (p >>> i) % 2) 0
/-- BREV of a pattern (R198). -/
def brevVal (w p : Nat) : Nat := (upto w).foldl (fun a i => 2 * a + (p >>> i) % 2) 0

/-- pos and len of a field descriptor (R200). -/
def bfPos (d : Word) : Nat := bitsOf d 0 6
def bfLen (d : Word) : Nat := min (bitsOf d 8 7) (64 - bfPos d)

/-- BFX of R200. -/
def bfxVal (t : Ty) (x d : Word) : Word :=
  let len := bfLen d
  let v := bitsOf x (bfPos d) len
  if len == 0 then 0
  else if t == .n64 then word v
  else wordOfInt (signed len v)

/-- BFI of R200. -/
def bfiVal (x y d : Word) : Word :=
  let mk : Word := maskBits 64 (bfPos d) (bfLen d)
  (x &&& ~~~mk) ||| ((y <<< bfPos d) &&& mk)

/-- EXT of R201. -/
def extVal (t : Ty) (sat : Bool) (x : Word) : Word :=
  if sat then result t true (if t.sgn64 then x.toInt else (x.toNat : Int))
  else result t false (opnd t x)

/-! ## Meanings -/

/-- NOP: the pc advances, whichever way the guard falls (R110). -/
def execNop (g : Guard) (s : State) : Host.Outcome State Fault Refusal := issue (.nop g) s fun _ b => .done b

def execAdd (f : RF) (s : State) : Host.Outcome State Fault Refusal := scalar2 (.add f) f s (arith2 f (· + ·))
def execSub (f : RF) (s : State) : Host.Outcome State Fault Refusal := scalar2 (.sub f) f s (arith2 f (· - ·))
def execMul (f : RF) (s : State) : Host.Outcome State Fault Refusal := scalar2 (.mul f) f s (arith2 f (· * ·))
def execMulh (f : RF) (s : State) : Host.Outcome State Fault Refusal :=
  scalar2 (.mulh f) f s (arith2 f (mulhVal f.ty))
def execMadd (f : RF) (s : State) : Host.Outcome State Fault Refusal :=
  scalar3 (.madd f) f s fun x y z => result f.ty f.sat (opnd f.ty x * opnd f.ty y + opnd f.ty z)
def execDiv (f : RF) (s : State) : Host.Outcome State Fault Refusal := scalar2 (.div f) f s (arith2 f (divVal f.ty))
def execRem (f : RF) (s : State) : Host.Outcome State Fault Refusal := scalar2 (.rem f) f s (arith2 f remVal)
def execAbsd (f : RF) (s : State) : Host.Outcome State Fault Refusal :=
  scalar2 (.absd f) f s fun x y => word (opnd f.ty x - opnd f.ty y).natAbs
def execMin (f : RF) (s : State) : Host.Outcome State Fault Refusal :=
  scalar2 (.min f) f s (arith2 f fun a b => if b < a then b else a)
def execMax (f : RF) (s : State) : Host.Outcome State Fault Refusal :=
  scalar2 (.max f) f s (arith2 f fun a b => if a < b then b else a)
def execAnd (f : RF) (s : State) : Host.Outcome State Fault Refusal :=
  scalar2 (.and_ f) f s fun x y => patResult f.ty (pat f.ty (x &&& y))
def execOr (f : RF) (s : State) : Host.Outcome State Fault Refusal :=
  scalar2 (.or_ f) f s fun x y => patResult f.ty (pat f.ty (x ||| y))
def execXor (f : RF) (s : State) : Host.Outcome State Fault Refusal :=
  scalar2 (.xor_ f) f s fun x y => patResult f.ty (pat f.ty (x ^^^ y))
def execAndn (f : RF) (s : State) : Host.Outcome State Fault Refusal :=
  scalar2 (.andn f) f s fun x y => patResult f.ty (pat f.ty (x &&& ~~~y))
def execShl (f : RF) (s : State) : Host.Outcome State Fault Refusal :=
  scalar2 (.shl f) f s fun x y => result f.ty f.sat (shlVal f.ty.bits f.sat (opnd f.ty x) y.toNat)
def execShr (f : RF) (s : State) : Host.Outcome State Fault Refusal :=
  scalar2 (.shr f) f s fun x y => patResult f.ty (shrVal f.ty.bits (pat f.ty x) y.toNat)
def execSar (f : RF) (s : State) : Host.Outcome State Fault Refusal :=
  scalar2 (.sar f) f s fun x y => result f.ty false (sarVal f.ty.bits (pat f.ty x) y.toNat)
def execRol (f : RF) (s : State) : Host.Outcome State Fault Refusal :=
  scalar2 (.rol f) f s fun x y => patResult f.ty (rolVal f.ty.bits (pat f.ty x) y.toNat)
def execClz (f : RF) (s : State) : Host.Outcome State Fault Refusal :=
  scalar1 (.clz f) f s fun x => word (clzVal f.ty.bits (pat f.ty x))
def execPopc (f : RF) (s : State) : Host.Outcome State Fault Refusal :=
  scalar1 (.popc f) f s fun x => word (popcVal f.ty.bits (pat f.ty x))
def execBrev (f : RF) (s : State) : Host.Outcome State Fault Refusal :=
  scalar1 (.brev f) f s fun x => patResult f.ty (brevVal f.ty.bits (pat f.ty x))
def execBfx (f : RF) (s : State) : Host.Outcome State Fault Refusal := scalar2 (.bfx f) f s (bfxVal f.ty)
def execBfi (f : RF) (s : State) : Host.Outcome State Fault Refusal := scalar3 (.bfi f) f s bfiVal
def execExt (f : RF) (s : State) : Host.Outcome State Fault Refusal := scalar1 (.ext f) f s (extVal f.ty f.sat)
def execMov (f : RF) (s : State) : Host.Outcome State Fault Refusal := scalar1 (.mov f) f s fun x => x

/-- SEL: only the chosen source and the predicate carry poison (R202, R212). -/
def execSel (f : RF) (s : State) : Host.Outcome State Fault Refusal :=
  issue (.sel f) s fun a b =>
    let p := (a.me).getP f.sc.toNat
    let x := a.rs (if p.val then f.sa else f.sb)
    .done (b.setRs f.dst (SReg.of [(a.me).guardCode f.grd, x.code, p.code] x.val))

def execLea (f : RF) (s : State) : Host.Outcome State Fault Refusal :=
  scalar2 (.lea f) f s fun x y => x + y <<< (f.sub.toNat % 4)

/-- CMP writes a predicate (R204). -/
def execCmp (f : RF) (s : State) : Host.Outcome State Fault Refusal :=
  issue (.cmp f) s fun a b =>
    let x := a.rs f.sa
    let y := a.rs f.sb
    .done (b.setRp f.dst [(a.me).guardCode f.grd, x.code, y.code] (condScalar f.ty (f.sub.toNat % 8) x.val y.val))

/-- PLOG: a truth table of two predicates (R205). -/
def execPlog (f : RF) (s : State) : Host.Outcome State Fault Refusal :=
  issue (.plog f) s fun a b =>
    let x := (a.me).getP f.sa.toNat
    let y := (a.me).getP f.sb.toNat
    .done (b.setRp f.dst [(a.me).guardCode f.grd, x.code, y.code] (f.sub.getLsbD (2 * bit x.val + bit y.val)))

/-- PMOV by its operation (R206). -/
def execPmov (f : RF) (s : State) : Host.Outcome State Fault Refusal :=
  issue (.pmov f) s fun a b =>
    let g := (a.me).guardCode f.grd
    match f.sub.toNat with
    | 0 =>
      let ps := (upto 8).map fun i => (a.me).getP i
      .done (b.setRs f.dst (SReg.of (g :: ps.map (·.code)) (word (natOfLanes 1 (ps.map fun p => bit p.val)))))
    | 1 =>
      let x := a.rs f.sa
      .done ((upto 8).foldl (fun (b : State) i => b.setRp (BitVec.ofNat 6 i) [g, x.code] (x.val.getLsbD i)) b)
    | 2 =>
      let x := a.rs f.sa
      .done (b.setRp f.dst [g, x.code] (x.val != 0))
    | _ =>
      let p := (a.me).getP f.sa.toNat
      .done (b.setRs f.dst (SReg.of [g, p.code] (word (bit p.val))))

def execAddi (f : IF) (s : State) : Host.Outcome State Fault Refusal := scalarImm (.addi f) f s fun x => x + immS f
def execMuli (f : IF) (s : State) : Host.Outcome State Fault Refusal := scalarImm (.muli f) f s fun x => x * immS f
def execLogi (f : IF) (s : State) : Host.Outcome State Fault Refusal :=
  scalarImm (.logi f) f s fun x =>
    match f.sub.toNat with
    | 0 => x &&& immZ f
    | 1 => x ||| immZ f
    | 2 => x ^^^ immZ f
    | _ => x &&& ~~~immZ f
def execShi (f : IF) (s : State) : Host.Outcome State Fault Refusal :=
  scalarImm (.shi f) f s fun x =>
    let n := bitsOf f.imm 0 6
    match f.sub.toNat with
    | 0 => result .i64 false (shlVal 64 false (opnd .i64 x) n)
    | 1 => patResult .i64 (shrVal 64 x.toNat n)
    | 2 => result .i64 false (sarVal 64 x.toNat n)
    | _ => patResult .i64 (rolVal 64 x.toNat n)

/-- CMPI (R208). -/
def execCmpi (f : IF) (s : State) : Host.Outcome State Fault Refusal :=
  issue (.cmpi f) s fun a b =>
    let x := a.rs f.sa
    .done (b.setRp f.dst [(a.me).guardCode f.grd, x.code] (condImm f.sub.toNat x.val f.imm))

def execMovi (f : IF) (s : State) : Host.Outcome State Fault Refusal :=
  issue (.movi f) s fun a b => .done (b.setRs f.dst (SReg.of [(a.me).guardCode f.grd] (immS f)))
def execMovhi (f : IF) (s : State) : Host.Outcome State Fault Refusal :=
  scalarImm (.movhi f) f s fun x => (immZ f <<< 32) ||| (x &&& 0xFFFFFFFF)

end Sys2Proof.Machine
end

