-- ==== Sys2Proof/Machine/Telemetry.lean ====
section
/-! DEFINITION. Quedon's records and messages (R442, R456 to R466, R470). -/

namespace Sys2Proof.Machine

/-! ## Records (R458, R459) -/

/-- Little-endian bytes of a natural number. -/
def le (n v : Nat) : List Byte := bytesOf (BitVec.ofNat (8 * n) v) n

def zeros (n : Nat) : List Byte := List.replicate n 0

/-- The first 16 bytes of a record. -/
def recHead (schema len gen tick : Nat) : List Byte := le 1 schema ++ zeros 1 ++ le 2 len ++ le 4 gen ++ le 8 tick

/-- POWER_V1 (R460). One unit of the ballast sum is 48 · 10⁻¹⁴ mJ. -/
def State.powerRecord (s : State) (gen : Nat) : List Byte :=
  let p := s.power
  recHead 0x11 64 gen s.tick ++ le 4 p.average ++ le 4 p.enfw ++ le 2 (bitsOf p.pwrcap 0 16) ++ le 2 p.railmV ++ le 4 p.railA ++
  le 8 (p.ballastSum * 48 / 10 ^ 14) ++ le 4 p.overshoots.toNat ++ le 4 p.overTime ++ le 4 p.cancelled.toNat ++
  le 1 p.highest ++ le 1 (bit s.fw.railFailed + 2 * bit p.overBit) ++ le 2 p.owed ++ zeros 8

/-- THERMAL_V1 (R461). -/
def State.thermalRecord (s : State) (gen : Nat) : List Byte :=
  let t (f : Nat) : Byte := if (s.field f).gated then BitVec.ofInt 8 (-128) else BitVec.ofInt 8 (s.field f).temp
  recHead 0x21 96 gen s.tick ++ (upto 42).map t ++ zeros 6 ++ le 8 (s.fieldBits (·.hot)) ++
  le 8 (s.fieldBits fun x => (s.power.tcritNow : Int) < x.temp) ++
  le 1 s.power.shutField ++ zeros 7 ++ le 8 s.power.shutTick

/-- Banks of a field: 121 reels with 8 · 16 vector banks and 32 of the local store (R53, R56). -/
def banksOfField : Nat := 19360

/-- BANKS_V1 (R462): what the counters of R63 have counted in the field since cold device reset (R459), those of strands that
have ended among them. -/
def State.banksRecord (s : State) (gen f : Nat) : List Byte :=
  let x := s.field f
  recHead 0x31 96 gen s.tick ++ le 8 x.bkwr ++ le 8 x.bkwo ++ le 8 x.bkwc ++ le 8 x.lswr ++ le 8 x.lswo ++ le 8 x.lswc ++
  le 8 (x.bankFull / 1000) ++ le 8 (x.bankRetain / 1000) ++
  le 8 ((banksOfField * s.tick - x.bankFull - x.bankRetain) / 1000) ++ le 4 x.deadregs.toNat ++ le 4 x.deadlss.toNat

/-- KVAGE_V1 (R463). -/
def State.kvageRecord (s : State) (gen stack : Nat) : List Byte :=
  let a := s.ageing? stack
  recHead 0x41 64 gen s.tick ++ le 4 a.registry.length ++ le 8 a.done.toNat ++ le 4 a.abandoned.toNat ++
  le 8 a.heldCount.toNat ++ le 4 a.longest.toNat ++ le 4 a.ageFull.toNat ++ zeros 16

/-- The log summary: oldest serial held, newest, entries overwritten unread (R466). -/
def State.rasRecord (s : State) (gen : Nat) : List Byte :=
  let q := s.quedon
  recHead 0x51 64 gen s.tick ++ le 4 ((q.ras.head?.map (·.serial)).getD 0) ++ le 4 (q.rasNext - 1) ++ le 8 q.rasLost ++ zeros 32

/-- DEFECT_V1 (R470), of a field as it was before a start that has not come to phase 7 (R471). -/
def State.defectRecord (s : State) (gen f : Nat) : List Byte :=
  let x := (s.fw.before.getD s.fields).get Field.reset f
  let d := s.fw.delta
  let store := if x.healthy then 128 * (16 - popCount x.busesGone - x.slice) else 0
  recHead 0x61 64 gen s.tick ++
  le 1 (bit x.healthy + 2 * bit x.offered + 4 * bit x.suspect + 8 * bit x.retired) ++
  le 1 x.rowsGone ++ le 1 x.colsGone ++ le 1 x.reelsGone ++
  le 1 (if fieldX f == 6 then 0 else x.eastLanes) ++ le 1 (if fieldY f == 5 then 0 else x.southLanes) ++
  le 2 x.busesGone.toNat ++ le 1 x.slice ++ zeros 1 ++ le 2 store ++
  le 2 (d.entries.filter fun e => pending e && entryField e == f).length ++ zeros 2 ++
  le 4 d.entries.length ++ le 8 d.seq.toNat ++ zeros 20

/-- LINK_V1 (R464). -/
def State.linkRecord (s : State) (gen i : Nat) : List Byte :=
  if i < 4 then
    let h := s.hostPort i
    recHead 0x71 64 gen s.tick ++ le 1 (bit h.up) ++ le 1 h.lanes ++ le 2 h.rate ++ le 8 h.crc.toNat ++ le 8 h.replays.toNat ++
    le 4 h.downs.toNat ++ le 8 h.resent.toNat ++ zeros 16
  else
    let h := s.peerPorts.get PeerPort.reset (i - 4)
    recHead 0x71 64 gen s.tick ++ le 1 (bit h.up) ++ le 1 h.lanes ++ le 2 h.rate ++ le 8 h.crc.toNat ++ le 8 h.replays.toNat ++
    le 4 h.downs.toNat ++ le 8 h.resent.toNat ++ le 4 h.aborted.toNat ++ zeros 12

/-- FW_V1 (R465). -/
def State.fwRecord (s : State) (gen : Nat) : List Byte :=
  let f := s.fw
  let q := f.quedonBanks.get FwBank.empty f.quedonActive
  recHead 0x81 64 gen s.tick ++ le 1 f.quedonActive ++ le 1 f.controlActive ++
  le 2 ((f.inactive .quedon).state + 4 * (f.inactive .control).state) ++ le 4 q.version.toNat ++ le 4 q.svn.toNat ++
  le 4 f.ver.toNat ++ le 4 f.svn.toNat ++ le 4 f.minSvn.toNat ++ le 1 f.lastResult ++ le 1 (f.endPhase.getD 0xFF) ++
  le 1 f.devMode.code ++ le 1 f.stateBits ++ zeros 20

/-- Instances of a schema; 0 for a number that is none (R458). -/
def instances (schema : Nat) : Nat :=
  match schema with
  | 0x11 | 0x21 | 0x51 | 0x81 => 1
  | 0x31 | 0x61 => 42
  | 0x41 => 26
  | 0x71 => 20
  | _ => 0

def State.recordOf (s : State) (gen schema i : Nat) : List Byte :=
  match schema with
  | 0x11 => s.powerRecord gen
  | 0x21 => s.thermalRecord gen
  | 0x31 => s.banksRecord gen i
  | 0x41 => s.kvageRecord gen i
  | 0x51 => s.rasRecord gen
  | 0x61 => s.defectRecord gen i
  | 0x71 => s.linkRecord gen i
  | _ => s.fwRecord gen

def schemas : List Nat := [0x11, 0x21, 0x31, 0x41, 0x51, 0x61, 0x71, 0x81]

/-- Key of a record in the snapshot. -/
def recordKey (schema i : Nat) : Nat := 65536 * schema + i

/-- Every record at one instant (R459). -/
def State.snapshot (s : State) : State :=
  let gen := s.quedon.gen + 1
  let all := schemas.flatMap fun k => (upto (instances k)).map fun i => (recordKey k i, s.recordOf gen k i)
  { s with quedon := { s.quedon with gen := gen, snapTick := s.tick, records := all } }

/-- TELEMETRY_SNAPSHOT; none while Quedon is silent (R456, R459). -/
def execTelemetrySnapshot (s : State) : Host.Outcome State Fault Refusal := .next (if s.quedonUp then s.snapshot else s)

/-! ## Messages (R456, R457) -/

/-- A response to a request. -/
def State.respond (s : State) (tag : Byte) (command code : Nat) (payload : List Byte) : State :=
  { s with sent := s.sent ++ [.response tag (BitVec.ofNat 8 command) (BitVec.ofNat 8 code) payload] }

/-- GET_RECORD: the latest snapshot; where there is none yet, as after Quedon's silence, one is taken first, so that every count
is in it (R456). -/
def execGetRecord (tag schema : Byte) (inst : BitVec 16) (s : State) : Host.Outcome State Fault Refusal :=
  let k := schema.toNat
  let i := inst.toNat
  .next <|
    if !s.quedonUp then s
    else if instances k == 0 then s.respond tag 1 2 []
    else if instances k ≤ i then s.respond tag 1 3 []
    else
      let s := if s.quedon.records.isEmpty then s.snapshot else s
      s.respond tag 1 0 (((s.quedon.records.find? (·.1 == recordKey k i)).map (·.2)).getD [])

/-- PWRSTAT (R442). -/
def State.pwrstat (s : State) : Word :=
  word (bit s.power.overBit <<< 63 + bit ((upto 42).any fun f => (s.field f).ballast != 0) <<< 62 +
    (min s.power.owed 65535) <<< 32 + s.power.enfw % 2 ^ 32)

/-- Registers of R442 and R457, or none at an unassigned index. -/
def State.quedonReg (s : State) (index : Nat) : Option Word :=
  match index with
  | 0 => some s.power.pwrcap
  | 1 => some s.power.pwrslope
  | 2 => some s.power.pwrpol
  | 3 => some (word (115 <<< 16 + s.power.tcrit <<< 8 + s.power.thot))
  | 4 => some s.pwrstat
  | 0x10 => some s.quedon.peercfg
  | _ => none

/-- A write of one of them; reserved bits keep their zeros, and a PWRTHERM that breaks its ranges changes nothing. -/
def State.writeQuedonReg (s : State) (index : Nat) (v : Word) : State :=
  match index with
  | 0 => s.modPower fun p => { p with pwrcap := v &&& 0xFFFF }
  | 1 => s.modPower fun p => { p with pwrslope := v &&& 0xFFFF }
  | 2 => s.modPower fun p => { p with pwrpol := v &&& 0xFFFF_FFFF_00FF_FF07 }
  | 3 =>
    let hot := bitsOf v 0 8
    let crit := bitsOf v 8 8
    if 90 ≤ crit && crit ≤ 110 && 70 ≤ hot && hot + 5 ≤ crit then s.modPower fun p => { p with thot := hot, tcrit := crit } else s
  | 4 => if v.getLsbD 63 then s.modPower fun p => { p with overBit := false } else s
  | 0x10 => { s with quedon := { s.quedon with peercfg := v &&& 0xFFFF } }
  | _ => s

/-- READ_REG. -/
def execReadReg (tag index : Byte) (s : State) : Host.Outcome State Fault Refusal :=
  .next <|
    if !s.quedonUp then s
    else match s.quedonReg index.toNat with
      | some v => s.respond tag 2 0 (bytesOf v 8)
      | none => s.respond tag 2 4 []

/-- WRITE_REG: in a session only. -/
def execWriteReg (tag index : Byte) (v : Word) (s : State) : Host.Outcome State Fault Refusal :=
  .next <|
    if !s.quedonUp then s
    else if !s.quedon.session then s.respond tag 3 5 []
    else if (s.quedonReg index.toNat).isNone then s.respond tag 3 4 []
    else (s.writeQuedonReg index.toNat v).respond tag 3 0 []

/-- One RAS_V1 entry (R466). -/
def rasBytes (e : RasEntry) : List Byte :=
  recHead 0x51 64 e.serial e.tick ++ le 1 e.kind ++ le 1 e.field ++ le 1 e.severity ++ zeros 1 ++ le 4 e.code.toNat ++
  le 8 e.pa.toNat ++ le 8 e.loc.toNat ++ le 4 e.merged ++ zeros 20

/-- RAS_READ: an entry still held, which is read from now. -/
def execRasRead (tag : Byte) (serial : BitVec 32) (s : State) : Host.Outcome State Fault Refusal :=
  .next <|
    if !s.quedonUp then s
    else match s.quedon.ras.find? fun e => e.serial == serial.toNat with
      | some e =>
        let ras := listMod (fun x => x.serial == e.serial) (fun x => { x with read := true }) s.quedon.ras
        { s with quedon := { s.quedon with ras := ras } }.respond tag 4 0 (rasBytes e)
      | none => s.respond tag 4 6 []

/-- UNASSIGNED_COMMAND, or a payload of the wrong length: BAD_COMMAND. -/
def execUnassignedCommand (tag command : Byte) (s : State) : Host.Outcome State Fault Refusal :=
  .next (if s.quedonUp then s.respond tag command.toNat 1 [] else s)

end Sys2Proof.Machine
end

