-- ==== Sys2Proof/Machine/VecMem.lean ====
section
/-! DEFINITION. Vector memory instructions (R285 to R288). -/

namespace Sys2Proof.Machine

/-- Addresses of the elements (R285): consecutive, strided, or by index lanes. -/
inductive AddrForm where
  | unit | stride | index
  deriving DecidableEq, Repr

/-- Bytes of an element. -/
def vecWidth (f : MF) : Nat := f.ty.lane / 8

/-- MSK of format M. -/
def mskM (t : Slot) (f : MF) : SReg := t.getM f.msk

/-- Enabled elements, rising (R286). -/
def enabledElems (t : Slot) (f : MF) : List Nat :=
  (upto (256 / vecWidth f)).filter fun k => (mskM t f).val.getLsbD (k * vecWidth f / 4)

/-- Address of element `k` (R285). -/
def elemAddr (a : State) (f : MF) (form : AddrForm) (k : Nat) : Word :=
  let base := (a.rs f.base).val
  let off := f.off.signExtend 64
  match form with
  | .unit => effAddr base (a.rs f.idx).val f.scl f.off + word (k * vecWidth f)
  | .stride => base + word k * ((a.rs f.idx).val <<< f.scl.toNat) + off
  | .index => base + wordOfInt (signed 32 (laneOf ((a.me).getV f.idx.toNat).val 32 k)) <<< f.scl.toNat + off

/-- Codes of the address operands (R286). Where several are poisoned no rule orders them: the guard's code comes first, then
MSK's, BASE's, IDX's or the enabled index lanes' (DESIGN CHOICE, log entry 75). -/
def vecAddrCodes (a : State) (f : MF) (form : AddrForm) (ks : List Nat) : List (Option Code) :=
  let t := a.me
  let idx := match form with
    | .index => ks.map fun k => (t.getV f.idx.toNat).code k
    | _ => [(a.rs f.idx).code]
  [t.guardCode f.grd, (mskM t f).code, (a.rs f.base).code] ++ idx

/-- An enabled element, translated: its number, virtual and physical address, and entry. -/
structure Elem where
  k : Nat
  va : Word
  pa : Nat
  e : Word
  deriving DecidableEq, Repr

def Elem.unit (w : Nat) (x : Elem) : Unit' :=
  { pa := x.pa, w := w, pos := x.k * w, kv := pteKv x.e, fc := pteFc x.e }

/-- Elements grouped as they are performed: those on plain pages, and those on KV pages page by page (R288). -/
def elemGroups (l : List Elem) : List (List Elem) :=
  let kv := l.filter fun x => pteKv x.e
  let pages := (kv.map fun x => x.pa / 65536).eraseDups
  [l.filter fun x => !pteKv x.e].filter (fun g => !g.isEmpty) ++ pages.map fun p => kv.filter fun x => x.pa / 65536 == p

/-- The shared checks: POISON, MISALIGN, XLATE of every enabled element (R237, R286). The record of a poisoned address operand, of
which no rule says what ADDR and FLAGS bit 0 hold, has ADDR 0 and the bit clear, for a store too (DESIGN CHOICE, log entry
121). -/
def vecAccess (f : MF) (form : AddrForm) (store : Bool) (a : State) (k : List Elem → Eff) : Eff :=
  let t := a.me
  let w := vecWidth f
  let ks := enabledElems t f
  let vas := ks.map (elemAddr a f form)
  Eff.consume (vecAddrCodes a f form ks) <|
    match vas.find? fun v => v.toNat % w != 0 with
    | some v => misalignTrap v store
    | none => a.translated (if store then .write else .read) (vas.map fun v => (v, w)) fun l =>
      k ((ks.zip (vas.zip l)).map fun x => { k := x.1, va := x.2.1, pa := x.2.2.1, e := x.2.2.2.2 })

def vecLoad (f : MF) (form : AddrForm) (a b : State) : Eff :=
  vecAccess f form false a fun l =>
    let b := b.putV a f.dst.toNat (mskM a.me f).val VReg.zero
    .done <| (elemGroups l).foldl (fun (s : State) g =>
      s.access { op := .read (f.cache != 2), units := g.map (Elem.unit (vecWidth f)), dst := .v f.dst.toNat, ef := f.cache == 1 }) b

def vecStore (i : Instr) (f : MF) (form : AddrForm) (a b : State) : Eff :=
  vecAccess f form true a fun l =>
    let d := (a.me).getV f.dst.toNat
    let w := vecWidth f
    match l.findSome? fun x => (d.code (x.k * w / 4)).map fun c => (c, x.va) with
    | some (c, va) => .trap { poisonTrap c with wrote := true, addr := va }
    | none =>
      let accs := (elemGroups l).map fun g =>
        ({ op := .write (f.cache != 2), units := g.map (Elem.unit w), data := d.val, ef := f.cache == 1 } : Acc)
      a.storeParts b i accs fun page => ((l.find? fun x => x.pa / 65536 == page).map (·.va)).getD 0

def execVld (f : MF) (s : State) : Host.Outcome State Fault Refusal := issue (.vld f) s (vecLoad f .unit)
def execVst (f : MF) (s : State) : Host.Outcome State Fault Refusal := issue (.vst f) s (vecStore (.vst f) f .unit)
def execVlds (f : MF) (s : State) : Host.Outcome State Fault Refusal := issue (.vlds f) s (vecLoad f .stride)
def execVsts (f : MF) (s : State) : Host.Outcome State Fault Refusal := issue (.vsts f) s (vecStore (.vsts f) f .stride)
def execVgath (f : MF) (s : State) : Host.Outcome State Fault Refusal := issue (.vgath f) s (vecLoad f .index)
def execVscat (f : MF) (s : State) : Host.Outcome State Fault Refusal := issue (.vscat f) s (vecStore (.vscat f) f .index)

end Sys2Proof.Machine
end

