-- ==== Sys2Proof/Machine/Dispatch.lean ====
section
/-! DEFINITION. One arm for each constructor: the direct call of its meaning. -/

namespace Sys2Proof.Machine

def exec (i : Instr) (s : State) : Host.Outcome State Fault Refusal :=
  match i with
  | .nop g => Sys2Proof.Machine.execNop g s
  | .add f => Sys2Proof.Machine.execAdd f s
  | .sub f => Sys2Proof.Machine.execSub f s
  | .mul f => Sys2Proof.Machine.execMul f s
  | .mulh f => Sys2Proof.Machine.execMulh f s
  | .madd f => Sys2Proof.Machine.execMadd f s
  | .div f => Sys2Proof.Machine.execDiv f s
  | .rem f => Sys2Proof.Machine.execRem f s
  | .absd f => Sys2Proof.Machine.execAbsd f s
  | .min f => Sys2Proof.Machine.execMin f s
  | .max f => Sys2Proof.Machine.execMax f s
  | .and_ f => Sys2Proof.Machine.execAnd f s
  | .or_ f => Sys2Proof.Machine.execOr f s
  | .xor_ f => Sys2Proof.Machine.execXor f s
  | .andn f => Sys2Proof.Machine.execAndn f s
  | .shl f => Sys2Proof.Machine.execShl f s
  | .shr f => Sys2Proof.Machine.execShr f s
  | .sar f => Sys2Proof.Machine.execSar f s
  | .rol f => Sys2Proof.Machine.execRol f s
  | .clz f => Sys2Proof.Machine.execClz f s
  | .popc f => Sys2Proof.Machine.execPopc f s
  | .brev f => Sys2Proof.Machine.execBrev f s
  | .bfx f => Sys2Proof.Machine.execBfx f s
  | .bfi f => Sys2Proof.Machine.execBfi f s
  | .ext f => Sys2Proof.Machine.execExt f s
  | .mov f => Sys2Proof.Machine.execMov f s
  | .sel f => Sys2Proof.Machine.execSel f s
  | .lea f => Sys2Proof.Machine.execLea f s
  | .cmp f => Sys2Proof.Machine.execCmp f s
  | .plog f => Sys2Proof.Machine.execPlog f s
  | .pmov f => Sys2Proof.Machine.execPmov f s
  | .addi f => Sys2Proof.Machine.execAddi f s
  | .muli f => Sys2Proof.Machine.execMuli f s
  | .logi f => Sys2Proof.Machine.execLogi f s
  | .shi f => Sys2Proof.Machine.execShi f s
  | .cmpi f => Sys2Proof.Machine.execCmpi f s
  | .movi f => Sys2Proof.Machine.execMovi f s
  | .movhi f => Sys2Proof.Machine.execMovhi f s
  | .br f => Sys2Proof.Machine.execBr f s
  | .brr f => Sys2Proof.Machine.execBrr f s
  | .call f => Sys2Proof.Machine.execCall f s
  | .callr f => Sys2Proof.Machine.execCallr f s
  | .ret f => Sys2Proof.Machine.execRet f s
  | .loop f => Sys2Proof.Machine.execLoop f s
  | .dbnz f => Sys2Proof.Machine.execDbnz f s
  | .exit f => Sys2Proof.Machine.execExit f s
  | .yield f => Sys2Proof.Machine.execYield f s
  | .waitt f => Sys2Proof.Machine.execWaitt f s
  | .waitq f => Sys2Proof.Machine.execWaitq f s
  | .spawn f => Sys2Proof.Machine.execSpawn f s
  | .prio f => Sys2Proof.Machine.execPrio f s
  | .time f => Sys2Proof.Machine.execTime f s
  | .strid f => Sys2Proof.Machine.execStrid f s
  | .bkpt f => Sys2Proof.Machine.execBkpt f s
  | .ld f => Sys2Proof.Machine.execLd f s
  | .st f => Sys2Proof.Machine.execSt f s
  | .ldl f => Sys2Proof.Machine.execLdl f s
  | .stl f => Sys2Proof.Machine.execStl f s
  | .ldacq f => Sys2Proof.Machine.execLdacq f s
  | .strel f => Sys2Proof.Machine.execStrel f s
  | .pref f => Sys2Proof.Machine.execPref f s
  | .cline f => Sys2Proof.Machine.execCline f s
  | .fence f => Sys2Proof.Machine.execFence f s
  | .spkill f => Sys2Proof.Machine.execSpkill f s
  | .aadd f => Sys2Proof.Machine.execAadd f s
  | .afadd f => Sys2Proof.Machine.execAfadd f s
  | .amin f => Sys2Proof.Machine.execAmin f s
  | .amax f => Sys2Proof.Machine.execAmax f s
  | .aand f => Sys2Proof.Machine.execAand f s
  | .aor f => Sys2Proof.Machine.execAor f s
  | .axor f => Sys2Proof.Machine.execAxor f s
  | .axchg f => Sys2Proof.Machine.execAxchg f s
  | .acas f => Sys2Proof.Machine.execAcas f s
  | .adcas f => Sys2Proof.Machine.execAdcas f s
  | .amove f => Sys2Proof.Machine.execAmove f s
  | .aadd2 f => Sys2Proof.Machine.execAadd2 f s
  | .waita f => Sys2Proof.Machine.execWaita f s
  | .bara f => Sys2Proof.Machine.execBara f s
  | .barw f => Sys2Proof.Machine.execBarw f s
  | .coll f => Sys2Proof.Machine.execColl f s
  | .vadd f => Sys2Proof.Machine.execVadd f s
  | .vsub f => Sys2Proof.Machine.execVsub f s
  | .vmul f => Sys2Proof.Machine.execVmul f s
  | .vfma f => Sys2Proof.Machine.execVfma f s
  | .vmin f => Sys2Proof.Machine.execVmin f s
  | .vmax f => Sys2Proof.Machine.execVmax f s
  | .vabs f => Sys2Proof.Machine.execVabs f s
  | .vneg f => Sys2Proof.Machine.execVneg f s
  | .vdiv f => Sys2Proof.Machine.execVdiv f s
  | .vsqrt f => Sys2Proof.Machine.execVsqrt f s
  | .vrcp f => Sys2Proof.Machine.execVrcp f s
  | .vrsq f => Sys2Proof.Machine.execVrsq f s
  | .vexp2 f => Sys2Proof.Machine.execVexp2 f s
  | .vlog2 f => Sys2Proof.Machine.execVlog2 f s
  | .vround f => Sys2Proof.Machine.execVround f s
  | .vclamp f => Sys2Proof.Machine.execVclamp f s
  | .vand f => Sys2Proof.Machine.execVand f s
  | .vor f => Sys2Proof.Machine.execVor f s
  | .vxor f => Sys2Proof.Machine.execVxor f s
  | .vnot f => Sys2Proof.Machine.execVnot f s
  | .vshl f => Sys2Proof.Machine.execVshl f s
  | .vshr f => Sys2Proof.Machine.execVshr f s
  | .vsar f => Sys2Proof.Machine.execVsar f s
  | .vmulh f => Sys2Proof.Machine.execVmulh f s
  | .vclz f => Sys2Proof.Machine.execVclz f s
  | .vpopc f => Sys2Proof.Machine.execVpopc f s
  | .vacs f => Sys2Proof.Machine.execVacs f s
  | .vcmp f => Sys2Proof.Machine.execVcmp f s
  | .vsel f => Sys2Proof.Machine.execVsel f s
  | .vmov f => Sys2Proof.Machine.execVmov f s
  | .vbcast f => Sys2Proof.Machine.execVbcast f s
  | .viota f => Sys2Proof.Machine.execViota f s
  | .vins f => Sys2Proof.Machine.execVins f s
  | .vext f => Sys2Proof.Machine.execVext f s
  | .vperm f => Sys2Proof.Machine.execVperm f s
  | .vshuf f => Sys2Proof.Machine.execVshuf f s
  | .vred f => Sys2Proof.Machine.execVred f s
  | .vscan f => Sys2Proof.Machine.execVscan f s
  | .vcomp f => Sys2Proof.Machine.execVcomp f s
  | .vexpd f => Sys2Proof.Machine.execVexpd f s
  | .vcvt f => Sys2Proof.Machine.execVcvt f s
  | .vqnt f => Sys2Proof.Machine.execVqnt f s
  | .vdqnt f => Sys2Proof.Machine.execVdqnt f s
  | .mlog f => Sys2Proof.Machine.execMlog f s
  | .mpopc f => Sys2Proof.Machine.execMpopc f s
  | .mfirst f => Sys2Proof.Machine.execMfirst f s
  | .mmov f => Sys2Proof.Machine.execMmov f s
  | .vld f => Sys2Proof.Machine.execVld f s
  | .vst f => Sys2Proof.Machine.execVst f s
  | .vlds f => Sys2Proof.Machine.execVlds f s
  | .vsts f => Sys2Proof.Machine.execVsts f s
  | .vgath f => Sys2Proof.Machine.execVgath f s
  | .vscat f => Sys2Proof.Machine.execVscat f s
  | .sfeed f => Sys2Proof.Machine.execSfeed f s
  | .sdrain f => Sys2Proof.Machine.execSdrain f s
  | .sbnd f => Sys2Proof.Machine.execSbnd f s
  | .pmark f => Sys2Proof.Machine.execPmark f s
  | .copy f => Sys2Proof.Machine.execCopy f s
  | .copy2d f => Sys2Proof.Machine.execCopy2d f s
  | .fill f => Sys2Proof.Machine.execFill f s
  | .gathr f => Sys2Proof.Machine.execGathr f s
  | .scatr f => Sys2Proof.Machine.execScatr f s
  | .kvld f => Sys2Proof.Machine.execKvld f s
  | .kvappRows f => Sys2Proof.Machine.execKvappRows f s
  | .kvappInit f => Sys2Proof.Machine.execKvappInit f s
  | .kvseal f => Sys2Proof.Machine.execKvseal f s
  | .retry f => Sys2Proof.Machine.execRetry f s
  | .ecancel f => Sys2Proof.Machine.execEcancel f s
  | .estat f => Sys2Proof.Machine.execEstat f s
  | .kfuse f => Sys2Proof.Machine.execKfuse f s
  | .kfree f => Sys2Proof.Machine.execKfree f s
  | .kctx f => Sys2Proof.Machine.execKctx f s
  | .kldw f => Sys2Proof.Machine.execKldw f s
  | .kswap f => Sys2Proof.Machine.execKswap f s
  | .kmma f => Sys2Proof.Machine.execKmma f s
  | .kroute f => Sys2Proof.Machine.execKroute f s
  | .kunroute f => Sys2Proof.Machine.execKunroute f s
  | .kqry f => Sys2Proof.Machine.execKqry f s
  | .kclk f => Sys2Proof.Machine.execKclk f s
  | .atld f => Sys2Proof.Machine.execAtld f s
  | .atst f => Sys2Proof.Machine.execAtst f s
  | .atadd f => Sys2Proof.Machine.execAtadd f s
  | .atmax f => Sys2Proof.Machine.execAtmax f s
  | .atclr f => Sys2Proof.Machine.execAtclr f s
  | .vdrop f => Sys2Proof.Machine.execVdrop f s
  | .bkq f => Sys2Proof.Machine.execBkq f s
  | .boostReq f => Sys2Proof.Machine.execBoostReq f s
  | .boostRel f => Sys2Proof.Machine.execBoostRel f s
  | .boostQry f => Sys2Proof.Machine.execBoostQry f s
  | .pwrhintIdle f => Sys2Proof.Machine.execPwrhintIdle f s
  | .pwrhintRamp f => Sys2Proof.Machine.execPwrhintRamp f s
  | .trap f => Sys2Proof.Machine.execTrap f s
  | .eret f => Sys2Proof.Machine.execEret f s
  | .csrr f => Sys2Proof.Machine.execCsrr f s
  | .csrw f => Sys2Proof.Machine.execCsrw f s
  | .csrx f => Sys2Proof.Machine.execCsrx f s
  | .tlbinv f => Sys2Proof.Machine.execTlbinv f s
  | .ctxsv f => Sys2Proof.Machine.execCtxsv f s
  | .ctxld f => Sys2Proof.Machine.execCtxld f s
  | .idle f => Sys2Proof.Machine.execIdle f s
  | .evpost f => Sys2Proof.Machine.execEvpost f s
  | .allocqGrant f => Sys2Proof.Machine.execAllocqGrant f s
  | .allocqFree f => Sys2Proof.Machine.execAllocqFree f s
  | .spawnAnswer id => Sys2Proof.Machine.execSpawnAnswer id s
  | .loadDataArrival id => Sys2Proof.Machine.execLoadDataArrival id s
  | .bankWakeDone b => Sys2Proof.Machine.execBankWakeDone b s
  | .bankRetain b => Sys2Proof.Machine.execBankRetain b s
  | .bankOff b => Sys2Proof.Machine.execBankOff b s
  | .waitaWake r => Sys2Proof.Machine.execWaitaWake r s
  | .watchReread r => Sys2Proof.Machine.execWatchReread r s
  | .waitqWake r => Sys2Proof.Machine.execWaitqWake r s
  | .waitDeadline r => Sys2Proof.Machine.execWaitDeadline r s
  | .barrierRelease part b => Sys2Proof.Machine.execBarrierRelease part b s
  | .collResult part id => Sys2Proof.Machine.execCollResult part id s
  | .watchdog r => Sys2Proof.Machine.execWatchdog r s
  | .engineCommandStart reel e => Sys2Proof.Machine.execEngineCommandStart reel e s
  | .engineUnitDone id n => Sys2Proof.Machine.execEngineUnitDone id n s
  | .configUnitPerform part => Sys2Proof.Machine.execConfigUnitPerform part s
  | .lineFlitDelivery line => Sys2Proof.Machine.execLineFlitDelivery line s
  | .kiteTokenPass kite => Sys2Proof.Machine.execKiteTokenPass kite s
  | .homeRequest id => Sys2Proof.Machine.execHomeRequest id s
  | .l1Writeback reel sector => Sys2Proof.Machine.execL1Writeback reel sector s
  | .farCacheDrop field line => Sys2Proof.Machine.execFarCacheDrop field line s
  | .invalidationAck line field => Sys2Proof.Machine.execInvalidationAck line field s
  | .directoryEvict line => Sys2Proof.Machine.execDirectoryEvict line s
  | .pageWalk id => Sys2Proof.Machine.execPageWalk id s
  | .tlbinvAck id field => Sys2Proof.Machine.execTlbinvAck id field s
  | .requestResend id => Sys2Proof.Machine.execRequestResend id s
  | .replyAck id => Sys2Proof.Machine.execReplyAck id s
  | .kvConversionStart stack page => Sys2Proof.Machine.execKvConversionStart stack page s
  | .kvClosing stack => Sys2Proof.Machine.execKvClosing stack s
  | .kvConverting stack => Sys2Proof.Machine.execKvConverting stack s
  | .kvFlip stack => Sys2Proof.Machine.execKvFlip stack s
  | .packetFetch q => Sys2Proof.Machine.execPacketFetch q s
  | .seqRecheck q => Sys2Proof.Machine.execSeqRecheck q s
  | .launchPacket q => Sys2Proof.Machine.execLaunchPacket q s
  | .barrierAndPacket q => Sys2Proof.Machine.execBarrierAndPacket q s
  | .signalPacket q => Sys2Proof.Machine.execSignalPacket q s
  | .nopPacket q => Sys2Proof.Machine.execNopPacket q s
  | .depWatchWake q entry => Sys2Proof.Machine.execDepWatchWake q entry s
  | .taskComplete task => Sys2Proof.Machine.execTaskComplete task s
  | .faultRecordAppend ctx => Sys2Proof.Machine.execFaultRecordAppend ctx s
  | .scanOutDone u => Sys2Proof.Machine.execScanOutDone u s
  | .pmtCommandDone => Sys2Proof.Machine.execPmtCommandDone s
  | .hostSnoopResponse line => Sys2Proof.Machine.execHostSnoopResponse line s
  | .unassignedOpcode w => Sys2Proof.Machine.execUnassignedOpcode w s
  | .fetchFault r => Sys2Proof.Machine.execFetchFault r s
  | .linkReplay l => Sys2Proof.Machine.execLinkReplay l s
  | .linkDown l => Sys2Proof.Machine.execLinkDown l s
  | .linkRetrained l => Sys2Proof.Machine.execLinkRetrained l s
  | .doorbell q v => Sys2Proof.Machine.execDoorbell q v s
  | .contextCreate port ctx => Sys2Proof.Machine.execContextCreate port ctx s
  | .contextDestroy port ctx => Sys2Proof.Machine.execContextDestroy port ctx s
  | .grantPartition port ctx => Sys2Proof.Machine.execGrantPartition port ctx s
  | .freePartition port => Sys2Proof.Machine.execFreePartition port s
  | .queueCreate port q => Sys2Proof.Machine.execQueueCreate port q s
  | .queueDestroy port q => Sys2Proof.Machine.execQueueDestroy port q s
  | .destroyWithKill port q => Sys2Proof.Machine.execDestroyWithKill port q s
  | .pauseQueue port q => Sys2Proof.Machine.execPauseQueue port q s
  | .resumeQueue port q => Sys2Proof.Machine.execResumeQueue port q s
  | .suspendCtx => Sys2Proof.Machine.execSuspendCtx s
  | .evictCtx => Sys2Proof.Machine.execEvictCtx s
  | .restoreCtx => Sys2Proof.Machine.execRestoreCtx s
  | .withholdSuspect => Sys2Proof.Machine.execWithholdSuspect s
  | .offerSuspect => Sys2Proof.Machine.execOfferSuspect s
  | .resetStrand target => Sys2Proof.Machine.execResetStrand target s
  | .resetEngine target => Sys2Proof.Machine.execResetEngine target s
  | .resetReel target => Sys2Proof.Machine.execResetReel target s
  | .resetKiteRelease target => Sys2Proof.Machine.execResetKiteRelease target s
  | .resetField target => Sys2Proof.Machine.execResetField target s
  | .resetPartition target => Sys2Proof.Machine.execResetPartition target s
  | .pcieFunctionReset port => Sys2Proof.Machine.execPcieFunctionReset port s
  | .warmDeviceReset r => Sys2Proof.Machine.execWarmDeviceReset r s
  | .coldDeviceReset r => Sys2Proof.Machine.execColdDeviceReset r s
  | .managementReset => Sys2Proof.Machine.execManagementReset s
  | .fieldSelfTestDone field pass => Sys2Proof.Machine.execFieldSelfTestDone field pass s
  | .errorDetection d => Sys2Proof.Machine.execErrorDetection d s
  | .hardFault loc => Sys2Proof.Machine.execHardFault loc s
  | .hostMemWrite port pa bytes relaxed => Sys2Proof.Machine.execHostMemWrite port pa bytes relaxed s
  | .hostMemRead port pa n => Sys2Proof.Machine.execHostMemRead port pa n s
  | .hostSnoop pa bytes => Sys2Proof.Machine.execHostSnoop pa bytes s
  | .peerTransferArrival t => Sys2Proof.Machine.execPeerTransferArrival t s
  | .peerAcknowledge port tag refused => Sys2Proof.Machine.execPeerAcknowledge port tag refused s
  | .reductionAnswer id performed => Sys2Proof.Machine.execReductionAnswer id performed s
  | .peerTimeout id => Sys2Proof.Machine.execPeerTimeout id s
  | .currentFloor field demand => Sys2Proof.Machine.execCurrentFloor field demand s
  | .controlInterval m => Sys2Proof.Machine.execControlInterval m s
  | .energyWindow mJ => Sys2Proof.Machine.execEnergyWindow mJ s
  | .hotClear field => Sys2Proof.Machine.execHotClear field s
  | .stretchWarning rd => Sys2Proof.Machine.execStretchWarning rd s
  | .stretchRelax rd => Sys2Proof.Machine.execStretchRelax rd s
  | .dividerHoldEnd rd => Sys2Proof.Machine.execDividerHoldEnd rd s
  | .fieldGate field => Sys2Proof.Machine.execFieldGate field s
  | .fieldUngate field => Sys2Proof.Machine.execFieldUngate field s
  | .leaseExpiry ctx => Sys2Proof.Machine.execLeaseExpiry ctx s
  | .telemetrySnapshot => Sys2Proof.Machine.execTelemetrySnapshot s
  | .getRecord tag schema inst => Sys2Proof.Machine.execGetRecord tag schema inst s
  | .readReg tag index => Sys2Proof.Machine.execReadReg tag index s
  | .writeReg tag index v => Sys2Proof.Machine.execWriteReg tag index v s
  | .rasRead tag serial => Sys2Proof.Machine.execRasRead tag serial s
  | .requestUpdate c => Sys2Proof.Machine.execRequestUpdate c s
  | .firmwareTransfer c img => Sys2Proof.Machine.execFirmwareTransfer c img s
  | .verifyComplete c => Sys2Proof.Machine.execVerifyComplete c s
  | .activateFirmware c => Sys2Proof.Machine.execActivateFirmware c s
  | .quiescentPoint => Sys2Proof.Machine.execQuiescentPoint s
  | .healthCheckPass => Sys2Proof.Machine.execHealthCheckPass s
  | .healthCheckFail => Sys2Proof.Machine.execHealthCheckFail s
  | .svnRaise v => Sys2Proof.Machine.execSvnRaise v s
  | .mapProvision factory delta => Sys2Proof.Machine.execMapProvision factory delta s
  | .registerWrite port off v => Sys2Proof.Machine.execRegisterWrite port off v s
  | .fieldSelfTestStart field => Sys2Proof.Machine.execFieldSelfTestStart field s
  | .spdmSession est => Sys2Proof.Machine.execSpdmSession est s
  | .pcieConfigWrite port msixOn => Sys2Proof.Machine.execPcieConfigWrite port msixOn s
  | .unassignedCommand tag command => Sys2Proof.Machine.execUnassignedCommand tag command s

end Sys2Proof.Machine
end

