-- ==== Sys2Proof/Machine/Cycle.lean ====
section
/-! DEFINITION. A reel's issue cycle (R26, R33, R46, R55), the passing of time, and the step an idle agenda takes. -/

namespace Sys2Proof.Machine

/-! ## Time -/

/-- Banks of a reel in a supply state. -/
def Reel.banksIn (x : Reel) (k : Supply) : Nat :=
  (x.slots.foldl (fun n t => n + (t.2.banks.filter fun b => b.2.supply == k).length) 0) +
    (x.lsBanks.filter fun b => b.2.supply == k).length

/-- Bank time of a field (R462). -/
def State.bankTime (s : State) (dt : Nat) : State :=
  s.reels.foldl (fun (s : State) rx => s.modField (fieldOfReel rx.1) fun f =>
    { f with bankFull := f.bankFull + dt * rx.2.banksIn .full, bankRetain := f.bankRetain + dt * rx.2.banksIn .retain }) s

/-- A field that is no longer idle starts its idle time anew (R450). -/
def State.wakeFields (s : State) : State :=
  { s with fields := s.fields.map fun kv =>
      if kv.2.idleSince.isSome && !kv.2.gated && !s.fieldIdle kv.1 then (kv.1, { kv.2 with idleSince := none }) else kv }

/-- `dt` ticks pass (R446, R453). -/
def State.advance (s : State) (dt : Nat) : State :=
  { (if dt == 0 then s else s.bankTime dt) with tick := s.tick + dt, power := s.power.fallTo (s.tick + dt) }.wakeFields

/-! ## Waits of a loaded image (R218, R232) -/

/-- The next word, filling the instruction L1 where memory holds it and can be read (R113, R386, R399). -/
def State.fetchWord (s : State) (r : StrandRef) : Fetch × State :=
  match s.fetch r with
  | .fill pa e =>
    if s.hostDown pa || s.changing r.reel pa then (.fill pa e, s)
    else match s.fetchCode r.reel pa (pteFc e) with
    | some c => (.fail { poison := true, sub := 3, level := 0, code := c }, s)
    | none =>
      let s := s.icacheFill r.reel pa (pteFc e)
      (s.fetch r, s)
  | f => (f, s)

/-- The word has been fetched at the strand's pc. -/
def State.noteWord (s : State) (r : StrandRef) (w : Word) : State := s.modSlot r fun t => { t with ir := some (t.pc, w) }

/-- A wait continues from the restored registers once its word is there; a pc that stands at no wait has none to continue. -/
def State.continueWait (s : State) (r : StrandRef) (deadline : Nat) : State :=
  let (w, s) := { s with cur := r }.fetchWord r
  let s := match w with
    | .word w => s.noteWord r w
    | _ => s
  let t := s.slot r
  let c := (s.reel r.reel).cycle
  let ended := s.modSlot r fun t => { t with wait := .none }
  let put (w : Wait) : State := s.modSlot r fun t => { t with wait := w }
  let dl := if deadline == 0 then none else some deadline
  match w with
  | .fail f => s.takeFetchFault r f
  | .walk => s.awaitWalk t.pc .fetch
  | .fill _ _ => s
  | .word w => match decode w with
    | .ok i =>
      if t.regsHold c i then s
      else match i with
        | .waitq f =>
          let k := t.getS f.sa.toNat
          let seen := t.getS f.sb.toNat
          if k.psn || seen.psn then ended
          else (put (.waitq (bitsOf k.val 0 5) seen.val dl f.dst.toNat)).checkWaitq r
        | .idle f =>
          let seen := t.getS f.sa.toNat
          if seen.psn then ended else (put (.idle seen.val f.dst.toNat)).checkWaitq r
        | .waita f =>
          let a := t.getS f.addr.toNat
          let seen := t.getS f.sb.toNat
          if a.psn || seen.psn || a.val.toNat % atomBytes f.ty != 0 then ended
          else match s.translate r.reel t.ctx a.val .read t.mode with
            | .fault x => s.takeFault r x w
            | .miss => s.awaitWalk a.val .read
            | .ok pa e =>
              (put (.waita { va := a.val.toNat, pa := pa, w := atomBytes f.ty, seen := seen.val, deadline := dl, once := false
                             scope := f.scope.toNat, acq := f.ord == 1, ty := f.ty, dst := f.dst.toNat, kv := pteKv e
                             fc := pteFc e, after := [] })).checkWaita r
        | .barw f =>
          let n := t.getS f.addr.toNat
          let seen := t.getS f.sb.toNat
          match s.partOfReel? r.reel with
          | some p =>
            if n.psn || seen.psn || p.ctx != t.ctx then ended
            else (put (.barw p.handle (bitsOf n.val 0 6) (seen.val.extractLsb' 0 16) f.scope.toNat (f.ord == 1) f.dst.toNat)).checkBarw r
          | none => ended
        | _ => ended
    | .error _ => ended

/-! ## Readiness (R26, R46) -/

/-- What a strand that is READY would issue: an instruction, a word that no instruction is, a word it cannot fetch. -/
inductive Next where
  | instr (i : Instr)
  | illegal (w : Word)
  | fetch (f : FetchFail)
  deriving DecidableEq, Repr

/-- The instruction is held by its entry, or started bank wakes; else the strand is READY. A faulting instruction wakes no
bank (R55, R386). An LDL whose slab is killed while its bank wakes raises DEADLS in the next cycle that looks at it, not when
the wake has run: R55 says only that it raises it at issue (DESIGN CHOICE, log entry 80). -/
def State.judge (s : State) (r : StrandRef) (i : Instr) : Option Next × State :=
  match exec i s with
  | .next t =>
    if t.held then (none, { t with held := false })
    else if (t.slot r).phase == .faulted then (some (.instr i), s)
    else match s.bankHold i with
      | some u => (none, u)
      | none => (some (.instr i), s)
  | _ => (some (.instr i), s)

/-- The wait of a strand, looked at again (R36). -/
def State.recheckWait (s : State) (r : StrandRef) : State :=
  ((s.modSlot r fun t => { t with recheck := false }).checkWaitq r |>.checkWaita r).checkBarw r

/-- One strand at the start of its reel's cycle: what it would issue, and what its being held asks for; a word that is missing from
the instruction L1 holds it in this cycle (R27, R211). -/
def State.look (s : State) (r : StrandRef) : Option Next × State :=
  let s := { s with cur := r }
  let c := (s.reel r.reel).cycle
  match (s.slot r).phase, (s.slot r).wait with
  | .live, .image _ d => (none, if (s.slot r).walk.isSome then s else s.continueWait r d)
  | .live, .ctxld _ => (none, s.checkCtxld r)
  | _, _ =>
    if (s.slot r).stopped c then
      (none, if (s.slot r).kvHold.isSome then s.kvSettle r else if (s.slot r).recheck then s.recheckWait r else s)
    else match s.fetch r with
      | .fail f => (some (.fetch f), s)
      | .walk => (none, s.awaitWalk (s.slot r).pc .fetch)
      | .fill _ _ => (none, s.modSlot r fun t => { t with missing := true })
      | .word w =>
        let s := s.noteWord r w
        match decode w with
        | .error _ => (some (.illegal w), s)
        | .ok i => if (s.slot r).regsHold c i then (none, s) else s.judge r i

/-- Slots in the order in which R33 looks at them. -/
def Reel.order (x : Reel) : List Nat :=
  (upto 24).flatMap fun j =>
    let l := 23 - j
    if x.slots.any fun kt => kt.2.phase == .live && kt.2.prio == l then
      ((upto 8).map fun i => (x.ptr.get 0 l + i) % 8).filter fun k => (x.slot k).phase == .live && (x.slot k).prio == l
    else []

/-- Every strand in that order: those that are READY. -/
def State.lookAll (n : Nat) : List Nat → State → List (Nat × Next) × State
  | [], s => ([], s)
  | k :: ks, s =>
    let (o, s) := s.look { reel := n, slot := k }
    let (l, s) := State.lookAll n ks s
    (match o with | some x => (k, x) :: l | none => l, s)

/-! ## The cycle -/

/-- Words that strands missed in an earlier cycle come, where memory can be read; a poisoned one fails the fetch (R211, R386). -/
def State.fillMissing (s : State) (n : Nat) : State :=
  (s.reel n).slots.foldl (fun s kt =>
    let r : StrandRef := { reel := n, slot := kt.1 }
    if !kt.2.missing then s
    else match s.fetchWord r with
      | (.fill _ _, s) => s
      | (.fail f, s) => s.modSlot r fun t => { t with missing := false, fetchFail := if t.phase == .live then some f else none }
      | (_, s) => s.modSlot r fun t => { t with missing := false }) s

/-- A reel's cycle begins: its number, its banks (R54, R55), results of loads that can change no more (R48), words that have come. -/
def State.startCycle (s : State) (n : Nat) : State :=
  let c := (s.reel n).cycle + 1
  let s := { s with reqs := s.reqs.filter fun q => q.reel != n || q.hit.all fun d => c < d }
  (s.modReel n fun x =>
    { x with cycle := c, slots := x.slots.map fun (kt : Nat × Slot) => (kt.1, kt.2.settle c) }.settleLs).fillMissing n

/-- Judgements that have come for strands which a WATCHDOG has stopped meanwhile (R242, log entry 101). -/
def State.settleFaulted (s : State) (n : Nat) : State :=
  (s.reel n).slots.foldl (fun s kt =>
    if kt.2.phase == .faulted && kt.2.kvHold.isSome then s.kvSettle { reel := n, slot := kt.1 } else s) s

/-- The READY strands' watchdogs start anew (R389), and the rotation pointer of the chosen one's level moves (R33). -/
def State.select (s : State) (n k : Nat) (ready : List Nat) : State :=
  let s := ready.foldl (fun (s : State) j => s.modSlot { reel := n, slot := j } fun t => { t with readyTick := s.tick }) s
  s.modReel n fun x => { x with ptr := x.ptr.put 0 (x.slot k).prio ((k + 1) % 8) }

/-- What the chosen strand issues. -/
def State.issueNext (s : State) (r : StrandRef) : Next → Host.Outcome State Fault Refusal
  | .instr i => exec i { s with cur := r }
  | .illegal w => .next (s.takeFault r { cls := clsIllegal } w)
  | .fetch f => .next (s.takeFetchFault r f)

/-- What issues in a cycle: at most one instruction, from the strand that R33 chooses. -/
def State.issueOne (s : State) (n : Nat) : Host.Outcome State Fault Refusal :=
  match State.lookAll n (s.reel n).order s with
  | ([], s) => .next s
  | ((k, x) :: l, s) => (s.select n k (k :: l.map (·.1))).issueNext { reel := n, slot := k } x

/-- One cycle of a reel; tokens of bounds that entered before it are written in it, and what waits for them is READY in the
next (R27, R301). -/
def State.reelCycle (s : State) (n : Nat) : Host.Outcome State Fault Refusal :=
  if s.power.railOff || (s.field (fieldOfReel n)).gated then .next s
  else
    let s := (s.startCycle n).settleFaulted n
    match s.issueOne n with
    | .next t => .next (t.endBounds (s.boundsOf n))
    | o => o

/-! ## Steps without a row (R113, R135, R141, R359, R400, R403) -/

/-- A peer may acknowledge the reply to its transfer: it has been sent. -/
def State.replySent (s : State) (r : PeerSeen) : Bool :=
  !s.pendSent.any fun x => match x.2 with
    | .peerReply _ q => q == r
    | _ => false

/-- One unit access of a request, what a cache gives up of its own accord, or a write that has waited. -/
def State.move (s : State) : Move → State
  | .unit id k => match s.req? id with
    | some q => s.performUnit q k
    | none => s
  | .farTake id => match s.req? id with
    | some q => s.farTake q
    | none => s
  | .dropWord r w => s.modReel r fun x => { x with icache := x.icache.del w }
  | .dropLeaf r k => s.modReel r fun x => { x with tlb := x.tlb.eraseIdx k }
  | .dropFieldLeaf f k => s.modField f fun x => { x with tlb := x.tlb.eraseIdx k }
  | .dropPointer f k => s.modField f fun x => { x with walkCache := x.walkCache.eraseIdx k }
  | .dropHome l => s.modField (stackField (homeOfDram (256 * l)).1) fun x => { x with home := x.home.del l }
  | .dropSeen k => match s.peerSeen.drop k with
    | r :: _ => if s.replySent r then { s with peerSeen := s.peerSeen.eraseIdx k } else s
    | [] => s
  | .save id => s.saveMove id
  | .errors q => s.writeErrors q (s.queue q).errors
  | .busTest f b => s.testBus f b
  | .startOn => s.startOn

/-! ## What an empty agenda leaves to choice (log entry 1) -/

/-- Steps of the memory system. -/
def State.memMoves (s : State) : List (Host.Outcome State Fault Refusal) :=
  s.reqs.flatMap (fun q => [execHomeRequest q.id s, execLoadDataArrival q.id s, execRequestResend q.id s]) ++
  s.replays.map (fun r => execReplyAck r.req s) ++
  s.dirs.flatMap (fun kd => execDirectoryEvict kd.1 s :: execHostSnoopResponse kd.1 s ::
    (onesOf kd.2.pending).map fun f => execInvalidationAck kd.1 f s) ++
  s.reels.flatMap (fun rx => rx.2.l1.keys.map fun k => execL1Writeback rx.1 k s) ++
  s.fields.flatMap (fun kf => kf.2.far.keys.map fun l => execFarCacheDrop kf.1 l s) ++
  s.walks.map (fun w => execPageWalk w.id s) ++
  s.invs.flatMap (fun v => (onesOf v.waiting).map fun f => execTlbinvAck v.id f s) ++
  s.ageing.flatMap fun ka => execKvClosing ka.1 s :: execKvConverting ka.1 s :: execKvFlip ka.1 s ::
    ka.2.registry.map fun p => execKvConversionStart ka.1 p.1 s

/-- Steps that have no row in the opcode table. -/
def State.moveList (s : State) : List Move :=
  s.reqs.flatMap (fun q => if q.left.length < 2 then [] else (upto q.left.length).map fun k => Move.unit q.id k) ++
  s.reqs.map (fun q => Move.farTake q.id) ++ s.saves.map (fun v => Move.save v.id) ++
  s.reels.flatMap (fun rx => rx.2.icache.keys.map (Move.dropWord rx.1) ++ (upto rx.2.tlb.length).map (Move.dropLeaf rx.1)) ++
  (s.fields.flatMap fun kf => (upto kf.2.tlb.length).map (Move.dropFieldLeaf kf.1) ++
    (upto kf.2.walkCache.length).map (Move.dropPointer kf.1) ++ kf.2.home.keys.map Move.dropHome) ++
  (upto s.peerSeen.length).map Move.dropSeen ++ s.queues.keys.map Move.errors ++
  if s.fw.start.isSome then Move.startOn :: (upto 42).flatMap fun f => (upto 16).map (Move.busTest f) else []

/-- Steps of strands' waits, engines, lines and kites. -/
def State.fabricMoves (s : State) : List (Host.Outcome State Fault Refusal) :=
  s.strands.flatMap (fun x => [execWaitaWake x.1 s, execWaitqWake x.1 s, execWaitDeadline x.1 s, execWatchdog x.1 s]) ++
  s.spawns.map (fun p => execSpawnAnswer p.id s) ++
  s.reels.flatMap (fun rx => [Eng.feed, .kv, .drain, .copy].map fun e => execEngineCommandStart rx.1 e s) ++
  s.cmds.map (fun c => execEngineUnitDone c.id 1 s) ++
  s.parts.flatMap (fun p => execConfigUnitPerform p.handle s ::
    ((p.barriers.keys.map fun b => execBarrierRelease p.handle b s) ++ (upto 16).map fun i => execCollResult p.handle i s)) ++
  s.lines.map (fun l => execLineFlitDelivery l.id s) ++ s.kites.map fun k => execKiteTokenPass k.handle s

/-- Steps of the dispatcher, the fault queues and pre-emption. -/
def State.queueMoves (s : State) : List (Host.Outcome State Fault Refusal) :=
  s.queues.keys.flatMap (fun q => [execPacketFetch ⟨q, false⟩ s, execSeqRecheck ⟨q, false⟩ s, execLaunchPacket q s, execBarrierAndPacket q s,
    execSignalPacket q s, execNopPacket q s, execDepWatchWake q 0 s, execDepWatchWake q 1 s, execDepWatchWake q 2 s,
    execDepWatchWake q 3 s]) ++
  s.tasks.map (fun t => execTaskComplete t.id s) ++ s.ctxs.keys.map (fun c => execFaultRecordAppend c s) ++
  (s.parts.filter (·.suspended)).flatMap (fun p => p.reels.flatMap fun n =>
    [execScanOutDone (.reel n) s, execScanOutDone (.block n) s]) ++
  if s.pmt.busy then [execPmtCommandDone s] else []

/-- Steps of the control firmware: commands of the ports, requests, hard faults, self-test, handover. -/
def State.firmwareMoves (s : State) : List (Host.Outcome State Fault Refusal) :=
  (upto 4).flatMap (fun p =>
    let c := bitsOf (s.hostPort p).cctl 32 6
    let q := bitsOf (s.hostPort p).qctl 32 10
    [execContextCreate p c s, execContextDestroy p c s, execGrantPartition p c s, execFreePartition p s,
     execQueueCreate p q s, execQueueDestroy p q s, execDestroyWithKill p q s, execPauseQueue p q s, execResumeQueue p q s]) ++
  (let t := s.fwArg 1
   [execSuspendCtx s, execEvictCtx s, execRestoreCtx s, execWithholdSuspect s, execOfferSuspect s, execResetStrand t s,
    execResetEngine t s, execResetReel t s, execResetKiteRelease t s, execResetField t s, execResetPartition t s]) ++
  s.fw.hardFaults.map (fun l => execHardFault l s) ++ (upto 42).map (fun f => execFieldSelfTestStart f s) ++
  if s.fw.handover.isSome then [execHealthCheckPass s, execHealthCheckFail s] else [execQuiescentPoint s]

/-- Steps of the power manager that the time counter makes due. -/
def State.powerMoves (s : State) : List (Host.Outcome State Fault Refusal) :=
  (upto 42).flatMap (fun f => [execFieldGate f s, execFieldUngate f s, execHotClear f s]) ++
  s.fields.keys.flatMap (fun f => (upto 11).flatMap fun r => [execStretchRelax (11 * f + r) s, execDividerHoldEnd (11 * f + r) s]) ++
  s.ctxs.keys.map (fun c => execLeaseExpiry c s) ++ [execEnergyWindow s.power.windowNo s]

/-- Quedon's snapshot of each millisecond (R459). -/
def State.quedonMoves (s : State) : List (Host.Outcome State Fault Refusal) :=
  if s.quedon.snapTick + 1000000 ≤ s.tick then [execTelemetrySnapshot s] else []

/-- Steps of agents that the core rail feeds (R449). -/
def State.railMoves (s : State) : List (Host.Outcome State Fault Refusal) :=
  if s.power.railOff then []
  else s.memMoves ++ s.fabricMoves ++ s.queueMoves ++ s.firmwareMoves ++ s.powerMoves ++ s.moveList.map fun m => .next (s.move m)

/-- The states that some agent of the device may bring about now, each other than the present one. -/
def State.moves (s : State) : List State :=
  let rows := (s.railMoves ++ s.quedonMoves).filterMap fun o =>
    match o with
    | .next t => some t
    | _ => none
  rows.filter fun t => !decide (t = s)

/-- With nothing on the agenda, time passes, and one of the agents that can move does: which, no rule says. -/
def State.freeMove (s : State) : Host.Outcome State Fault Refusal :=
  let n := s.draws
  let s := { s.advance (Config.freeTicks n) with draws := n + 1 }
  let ms := s.moves
  let rs := s.reels.keys
  let k := Config.freeChoice n % (ms.length + rs.length)
  match ms.drop k with
  | t :: _ => .next t
  | [] => match rs.drop (k - ms.length) with
    | n :: _ => s.reelCycle n
    | [] => .next s

/-! ## One turn -/

/-- Steps of Quedon and of the operator, and the cold reset: they need no core rail (R411, R449, R456). -/
def railless : Instr → Bool
  | .coldDeviceReset _ | .managementReset | .telemetrySnapshot | .getRecord _ _ _ | .readReg _ _ | .writeReg _ _ _
  | .rasRead _ _ | .unassignedCommand _ _ | .spdmSession _ | .requestUpdate _ | .firmwareTransfer _ _ | .verifyComplete _
  | .activateFirmware _ | .svnRaise _ | .mapProvision _ _ => true
  | _ => false

/-- A turn of the agenda. An instruction is no step of another agent: it issues only through a reel's cycle. With the core rail
off nothing runs but Quedon (R449). -/
def State.turn_ (s : State) : Turn → Host.Outcome State Fault Refusal
  | .cycle dt n => (s.advance dt).reelCycle n
  | .event dt i => match i.shape with
    | .event => if s.power.railOff && !railless i then .next (s.advance dt) else exec i (s.advance dt)
    | _ => .next (s.advance dt)
  | .move dt m => .next (if s.power.railOff then s.advance dt else (s.advance dt).move m)

/-! ## Placing an instruction (log entry 4) -/

/-- The strand that runs a placed instruction: device mode, the highest level, every vector bank FULL; its word, missing from the
instruction L1 so far, comes from memory as the next cycle begins. -/
def probeSlot (h c : Nat) : Slot :=
  { Slot.reset with
    phase := .live, handle := h, mode := .device, prio := 23, missing := true
    banks := (upto 16).map fun b => (b, { supply := .full, touch := c, dead := some c, wake := none }) }

/-- A translation of the first page of context 0 to the first page of DRAM, readable, writable and executable. -/
def probeLeaf : Leaf := { ctx := 0, base := 0, size := 65536, level := 4, entry := 0x0C00_0000_0000_001F }

/-- The agenda, memory and reel 0 that make the next step issue the word `w` from slot 0 of reel 0. -/
def State.placeWord (s : State) (w : Word) : State :=
  let bs := bytesOf w 8
  let mem := (upto 8).foldl (fun (m : List Host.Cell) k => SMap.put 0 m k (bs.getD k 0)) s.mem
  let x := s.reel 0
  let full : SMap Bank := (upto 32).map fun b => (b, { supply := .full, touch := x.cycle, dead := some x.cycle, wake := none })
  let y := { x with slots := [(0, probeSlot s.nextId x.cycle)], ptr := [], tileBusy := 0, l1 := x.l1.filter (·.1 != 0)
                    icache := x.icache.filter (16 ≤ ·.1), tlb := [probeLeaf], lsBanks := full }
  let s := { s with power := { s.power with railOff := false }, mem := mem, mpsn := s.mpsn.filter (2 ≤ ·.1)
                    agenda := .cycle 0 0 :: s.agenda, held := false, nextId := s.nextId + 1 }
  (s.modField 0 fun f => { f with gated := false }).setReel 0 y

end Sys2Proof.Machine
end

