-- ==== Sys2Proof/Machine/Step.lean ====
section
/-! DEFINITION. One step of the device: the next turn of its agenda, or a move of some agent where none is listed. -/

namespace Sys2Proof.Machine

def step (s : State) : Host.Outcome State Fault Refusal :=
  match s.agenda with
  | t :: rest => State.turn_ { s with agenda := rest } t
  | [] => s.freeMove

/-- The state with a word placed where the next step fetches it (log entry 4). Every instruction is one word of 64 bits. -/
def State.withFetchWord (s : State) (_nbits w : Nat) : State := s.placeWord (BitVec.ofNat 64 w)

end Sys2Proof.Machine
end

