-- ==== Sys2Proof/Safety.lean ====
section
/-! DEFINITION. The terms in which statements are made: when an instruction issues for its own effect, what a step
leaves alone, what units of engines and commands of kites do, and the invariant of memory. No run ends in a fault or a
refusal: each fault of the manual is taken. -/

namespace Sys2Proof.Machine

/-! ## Issue -/

/-- The constructor stands for instruction words, not for a step of another agent. -/
def isWord (i : Instr) : Bool :=
  match i.shape with
  | .event | .word _ => false
  | _ => true

/-- The instruction gets past what R112 checks first: its encoding and mode are accepted, its guard holds and is not a poisoned
predicate that it consumes, and every vector register it reads is live (R50, R51, R88, R212). -/
def accepted (i : Instr) (s : State) : Bool :=
  i.wf && decide (rankOf i ≤ (s.me).mode.rank) && !(guardConsumed i && ((s.me).guardCode (guardOf i)).isSome) &&
    (s.me).guardHolds (guardOf i) && ((s.me).firstDead (usesOf i).reads).isNone

/-- The instruction issues for its own effect: it is accepted, and no resource of its entry, acquire or fence holds it (R46,
R148). -/
def issues (i : Instr) (s : State) : Bool := accepted i s && !s.issueHold i

/-- A scalar result under a guard whose poison goes into it (R212). -/
def tainted (g : Option Code) (v : Word) : SReg := SReg.of [g] v

/-- The outcome in which s[d] takes `v`, or the first code among `codes`, and the shared part of the issue is done. -/
def scalarDone (i : Instr) (s : State) (d : BitVec 6) (codes : List (Option Code)) (v : Word) :
    Host.Outcome State Fault Refusal :=
  .next ((s.retire i).setRs d (SReg.of codes v))

/-- The same for p[d]. -/
def predDone (i : Instr) (s : State) (d : BitVec 6) (codes : List (Option Code)) (v : Bool) :
    Host.Outcome State Fault Refusal :=
  .next ((s.retire i).setRp d codes v)

/-- The outcome in which the instruction faults: the state of `trapAt`. -/
def faults (i : Instr) (s : State) (t : Trap) : Host.Outcome State Fault Refusal := .next (s.trapAt i t)

/-- Code of the guard of a strand that issues. -/
def State.gcode (s : State) (g : Guard) : Option Code := (s.me).guardCode g

/-! ## What a step leaves alone -/

def SameS (t u : Slot) (but : List Nat) : Prop := ∀ n, n ∉ but → u.getS n = t.getS n
def SameP (t u : Slot) (but : List Nat) : Prop := ∀ n, n ∉ but → u.getP n = t.getP n
def SameM (t u : Slot) (but : List Nat) : Prop := ∀ n, n ∉ but → u.getM n = t.getM n
/-- Vector registers: liveness and contents. -/
def SameV (t u : Slot) (but : List Nat) : Prop := ∀ n, n ∉ but → u.isLive n = t.isLive n ∧ u.getV n = t.getV n

/-- What a strand is and the CSRs of it that no plain instruction writes: identity, mode, priority, bank delays, wake
counters, pending tokens, and a suspended image's wait. -/
def SameIdentity (t u : Slot) : Prop :=
  u.handle = t.handle ∧ u.ctx = t.ctx ∧ u.task = t.task ∧ u.part = t.part ∧ u.mode = t.mode ∧ u.prio = t.prio ∧
    u.dly = t.dly ∧ u.bkOff = t.bkOff ∧ u.bkRet = t.bkRet ∧ u.bkwr = t.bkwr ∧ u.bkwo = t.bkwo ∧ u.bkwc = t.bkwc ∧ u.toks = t.toks ∧
    u.owed = t.owed ∧ u.spawns = t.spawns

/-- Nothing changes but the strand that issues: no other slot, nothing of any reel beside its slots (local store, tile,
data L1, engine queues), no memory, no other part of the device; of contexts at most fault records are added, of fields
the two fault counters. The model's counter of free values and its mark that the instruction is held may move. -/
def OnlyStrand (s t : State) : Prop :=
  t = { s with reels := t.reels, ctxs := t.ctxs, fields := t.fields, draws := t.draws, held := t.held } ∧
  (∀ r, r ≠ s.cur → t.slot r = s.slot r) ∧
  (∀ n, t.reel n = { s.reel n with slots := (t.reel n).slots }) ∧
  (∀ c, t.ctx c = { s.ctx c with records := (t.ctx c).records, lost := (t.ctx c).lost }) ∧
  ∀ n, t.field n = { s.field n with deadregs := (t.field n).deadregs, deadlss := (t.field n).deadlss }

/-- Nothing changes but the slot of the strand that issues: no other slot, nothing else of any reel, and nothing else of the
device. -/
def OnlySlot (s t : State) : Prop :=
  t = { s with reels := t.reels } ∧ (∀ r, r ≠ s.cur → t.slot r = s.slot r) ∧
  ∀ n, t.reel n = { s.reel n with slots := (t.reel n).slots }

/-- Every byte of memory, with its poison, reads as before. -/
def SameMemory (s t : State) : Prop := ∀ a, t.memByte a = s.memByte a

/-- A byte as a strand of a reel finds it: in its data L1 where that holds it, else at its home. -/
def State.seen (s : State) (r pa : Nat) : PByte :=
  if pa < dramTop && (s.reel r).l1Valid pa then (s.reel r).l1Byte pa else s.memByte pa

/-- Every byte that strands of a reel find is as it was, in the data L1 or at its home as before. -/
def SameSeen (s t : State) : Prop :=
  ∀ r x, t.seen r x = s.seen r x ∧ (t.reel r).l1Valid x = (s.reel r).l1Valid x

/-- The byte that strands of a reel find at an address is as it was, or the reel's data L1 has given it up. -/
def KeptOrGone (s t : State) (r x : Nat) : Prop :=
  t.seen r x = s.seen r x ∨ ((s.reel r).l1Valid x = true ∧ (t.reel r).l1Valid x = false)

/-- Outside the translated parts `l` every byte that strands find is as it was, or has left the data L1; where no part of the
store was translated all of it is as it was. -/
def OnlyParts (s t : State) : XlAll → Prop
  | .ok l => ∀ r x, (∀ y ∈ l, x < y.1 ∨ y.1 + y.2.1 ≤ x) → KeptOrGone s t r x
  | _ => SameSeen s t

/-- A sector of a data L1 is as it was, has left, or has been filled with what lies below it. -/
def FilledOrGone (s t : State) : Prop :=
  ∀ r k, let x := (s.reel r).sector k
    let y := (t.reel r).sector k
    y = x ∨ y = Sector.empty ∨ ∃ far, y = { x.fill (fun i => s.lowerByte r far (128 * k + i)) with ef := y.ef }

/-- Of contexts at most fault records are added, and of fields the counters of two faults move. -/
def OnlyRecords (s t : State) : Prop :=
  (∀ c, t.ctx c = { s.ctx c with records := (t.ctx c).records, lost := (t.ctx c).lost }) ∧
  ∀ n, t.field n = { s.field n with deadregs := (t.field n).deadregs, deadlss := (t.field n).deadlss }

/-- Nothing changes but the strand that issues, the data L1 of its reel, what the reel has sent, and fault records with their
counters: every other strand and reel, and of the strand's reel the local store, the tile, the instruction L1, the
translations, the queues and the schedule, stay. -/
def OnlySent (s t : State) : Prop :=
  t = { s with reels := t.reels, reqs := t.reqs, walks := t.walks, nextId := t.nextId, ctxs := t.ctxs, fields := t.fields
               draws := t.draws, held := t.held } ∧
  (∀ r, r ≠ s.cur → t.slot r = s.slot r) ∧ (∀ n, n ≠ s.cur.reel → t.reel n = s.reel n) ∧
  (let n := s.cur.reel
   t.reel n = { s.reel n with slots := (t.reel n).slots, l1 := (t.reel n).l1 }) ∧ OnlyRecords s t

/-- Nothing changes but the strand that issues, what its reel has sent, and what reading memory moves: copies in the caches of
the reel and of the fields with the directory's note of them, the lines a host port watches, the holds that a conversion counts,
fault records with their counters; every other strand and reel, the reel's local store and its tile stay. -/
def OnlyCached (s t : State) : Prop :=
  t = { s with reels := t.reels, reqs := t.reqs, walks := t.walks, nextId := t.nextId, ctxs := t.ctxs, fields := t.fields
               dirs := t.dirs, ageing := t.ageing, hostPorts := t.hostPorts, draws := t.draws, held := t.held } ∧
  (∀ r, r ≠ s.cur → t.slot r = s.slot r) ∧ (∀ n, n ≠ s.cur.reel → t.reel n = s.reel n) ∧
  (let n := s.cur.reel
   t.reel n = { s.reel n with slots := (t.reel n).slots, l1 := (t.reel n).l1, icache := (t.reel n).icache }) ∧
  (∀ c, t.ctx c = { s.ctx c with records := (t.ctx c).records, lost := (t.ctx c).lost }) ∧
  (∀ n, t.field n = { s.field n with far := (t.field n).far, home := (t.field n).home, deadregs := (t.field n).deadregs
                                     deadlss := (t.field n).deadlss }) ∧
  (∀ p, t.hostPort p = { s.hostPort p with watched := (t.hostPort p).watched }) ∧
  ∀ k, t.ageing? k = { s.ageing? k with heldCount := (t.ageing? k).heldCount, holds := (t.ageing? k).holds }

/-- Nothing changes but the strand that issues, what its reel has sent, fault records with their counters, and, of the partition
that holds the reel, the barriers and contributions of its configuration unit, with the unit's records of requests and the
rounds that the reel counts. -/
def OnlyUnit (s t : State) : Prop :=
  t = { s with reels := t.reels, reqs := t.reqs, nextId := t.nextId, ctxs := t.ctxs, fields := t.fields, parts := t.parts
               replays := t.replays, draws := t.draws, held := t.held } ∧
  (∀ r, r ≠ s.cur → t.slot r = s.slot r) ∧ (∀ n, n ≠ s.cur.reel → t.reel n = s.reel n) ∧
  (let n := s.cur.reel
   t.reel n = { s.reel n with slots := (t.reel n).slots, l1 := (t.reel n).l1, collRound := (t.reel n).collRound }) ∧
  OnlyRecords s t ∧ t.parts.length = s.parts.length ∧
  ∀ (k : Nat) (p : Partition), s.parts[k]? = some p → ∃ q, t.parts[k]? = some q ∧
    q = { p with barriers := q.barriers, colls := q.colls } ∧
    (some p.handle ≠ (s.partOfReel? s.cur.reel).map (·.handle) → q = p)

/-! ## Memory accesses -/

/-- The hypotheses under which an access by format M reaches memory: clean address operands, every page of the range
translated to `l`, no acquire of the strand still out. -/
def reaches (s : State) (f : MF) (acc : Access) (n : Nat) (l : List (Nat × Nat × Word)) : Prop :=
  (s.rs f.base).psn = false ∧ (s.rs f.idx).psn = false ∧ s.xlParts acc (s.me).mode (pageParts (eaOf s f) n) = .ok l ∧
    (s.me).acqs = []

/-- The vector load and store of an address form. -/
def vecLoadOf : AddrForm → MF → Instr
  | .unit => .vld
  | .stride => .vlds
  | .index => .vgath

def vecStoreOf : AddrForm → MF → Instr
  | .unit => .vst
  | .stride => .vsts
  | .index => .vscat

/-! ## Engines -/

/-- The command stands in the device and may move (R295, R403, R406). -/
def State.running (s : State) (c : Cmd) : Prop := s.cmd? c.id = some c ∧ s.cmdBlocked c = false

/-- A range of virtual addresses within one page is translated for a command, to a page where its engine's port need not wait
(R150, R158, R295). -/
def State.portAt (s : State) (c : Cmd) (acc : Access) (va : Word) (n pa : Nat) : Prop :=
  ∃ e, s.cmdParts c acc (pageParts va n) = .ok [(pa, n, e)] ∧ s.partWaits c (acc == .read) (pa, n, e) = false ∧
    (acc = .write → pteKv e = false)

/-- A range of the local store of the command's reel lies in it, in banks that are FULL, and no granule there is poisoned. -/
def State.lsOpen (s : State) (c : Cmd) (a : Word) (n : Nat) : Prop :=
  a.toNat + n ≤ lsSize ∧ (∀ b ∈ lsBanksOf a.toNat n, ((s.reel c.reel).lsBank b).supply = .full) ∧
    ∀ g, (s.reel c.reel).lsPsn.get false g = false

/-- A command's port of a kind (R303: 0 memory, 1 local store) reads the bytes `l`, none of them poisoned. -/
def State.portGives (s : State) (c : Cmd) (kind : Nat) (a : Word) (l : List Byte) : Prop :=
  (kind = 1 ∧ s.lsOpen c a l.length ∧ (s.reel c.reel).lsReadable a.toNat l.length = true ∧
    l = (s.reel c.reel).lsBytes a.toNat l.length) ∨
  (kind = 0 ∧ ∃ pa, s.portAt c .read a l.length pa ∧
    (upto l.length).map (fun i => s.engineByte c.reel (pa + i)) = cleanBytes l)

/-- A command's port takes `n` bytes now, where no granule is poisoned. -/
def State.portTakes (s : State) (c : Cmd) (kind : Nat) (a : Word) (n : Nat) : Prop :=
  (kind = 1 ∧ s.lsOpen c a n) ∨ (kind = 0 ∧ (∃ pa, s.portAt c .write a n pa) ∧ ∀ g, s.mpsn.get false g = false)

/-- The bytes `l` have gone through a command's port, and every other byte of the local store and of memory is as it was. -/
def State.portStored (s : State) (c : Cmd) (kind : Nat) (a : Word) (l : List Byte) (u : State) : Prop :=
  let x := s.reel c.reel
  let y := u.reel c.reel
  (kind = 1 ∧ SameMemory s u ∧ (∀ k, k < l.length → y.ls.get 0 (a.toNat + k) = l.getD k 0) ∧
    ∀ k, k < a.toNat ∨ a.toNat + l.length ≤ k → y.ls.get 0 k = x.ls.get 0 k) ∨
  (kind = 0 ∧ (∀ k, y.ls.get 0 k = x.ls.get 0 k) ∧ ∃ pa, s.portAt c .write a l.length pa ∧
    (∀ k, k < l.length → u.memByte (pa + k) = (l.getD k 0, none)) ∧
    ∀ x, x < pa ∨ pa + l.length ≤ x → u.memByte x = s.memByte x)

/-- R303, R304, R378: a piece of COPY or COPY2D of about `n` bytes is read at the source and written at the destination, or sent
to a peer, and PROG moves by it; an element of GATHR or SCATR goes where its index says, a poisoned index of GATHR poisons the
element, one of SCATR ends the command with POISON and its record. A piece is widened to whole granules of the destination, the
model's choice (log entry 73). -/
def MovesUnits : Prop :=
  ∀ (s : State) (c : Cmd) (n : Nat), s.running c → c.eng ≠ .walk → c.eng ≠ .config → 0 < n → c.pos < c.total →
    let done (u : State) : Prop := exec (.engineUnitDone c.id n) s = .next u
    (∀ (d src : Word) (left : Nat),
      (c.opc = 0xA4 ∧ d = c.a + word c.pos ∧ src = c.b + word c.pos ∧ left = c.total - c.pos) ∨
        (c.opc = 0xA5 ∧ d = c.a + wordOfInt ((c.pos / c.rowBytes : Nat) * c.dstPitch) + word (c.pos % c.rowBytes) ∧
          src = c.b + wordOfInt ((c.pos / c.rowBytes : Nat) * c.srcPitch) + word (c.pos % c.rowBytes) ∧
          left = c.rowBytes - c.pos % c.rowBytes) →
      let room := min left (portRoom c.dk d)
      let m := wholeGranules d (min room (min n (portRoom c.sk src))) room
      ∀ l, l.length = m → s.portGives c c.sk src l →
        (s.portTakes c c.dk d m → ∃ u : State, done (u.moved c m) ∧ s.portStored c c.dk d l u) ∧
        (c.dk = 2 → s.peersOn ≠ [] → (d - c.a).toNat < 2 ^ 63 → bitsOf c.a 0 40 + (d - c.a).toNat + m ≤ 2 ^ 40 →
          ∃ (u : State) (o : PeerOut), done u ∧ u.sent = s.sent ++ [.peer o] ∧ u.peerOut = s.peerOut ++ [o] ∧ o.cmd = c.id ∧
            o.bytes = cleanBytes l ∧ o.units = m ∧ o.dest = bitsOf c.a 48 16 ∧ o.window = bitsOf c.a 40 8 ∧
            o.offset = bitsOf c.a 0 40 + (d - c.a).toNat ∧ o.red = c.red ∧ o.port ∈ s.peersOn ∧ SameMemory s u)) ∧
    (c.opc = 0xA7 ∨ c.opc = 0xA8 →
      let ia := c.c + word (c.pos * c.idxBytes)
      let here := word (c.pos * c.elem)
      (∀ il, il.length = c.idxBytes → s.portGives c 0 ia il →
        let away := wordOfInt (intVal c.ty.bits c.ty.isSigned (natOfBytes il) * c.elem)
        let d := c.a + (if c.opc = 0xA7 then here else away)
        ∀ l, l.length = c.elem → s.portGives c c.sk (c.b + (if c.opc = 0xA7 then away else here)) l → s.portTakes c c.dk d c.elem →
          ∃ u : State, done (u.moved c 1) ∧ s.portStored c c.dk d l u) ∧
      (∀ pa k, s.portAt c .read ia c.idxBytes pa →
        firstCode ((upto c.idxBytes).map fun i => s.engineByte c.reel (pa + i)) = some k →
        (c.opc = 0xA7 → c.dk = 0 → ∀ q, s.portAt c .write (c.a + here) c.elem q → q + c.elem ≤ hostBase →
          ∃ u : State, done (u.moved c 1) ∧ ∀ i, i < c.elem → (u.memByte (q + i)).2.isSome = true) ∧
        (c.opc = 0xA8 →
          done ((s.cmdRecord c { cls := clsPoison, sub := 5, wrote := true, addr := ia, info := k.zeroExtend 64 } true).endCmd c.id 6))))

/-- The line at a port of the command's reel, of which a step takes or to which it adds a flit. -/
def State.atLine (s : State) (l : Line) (x : Option Line) : Prop := x = some l ∧ (s.lines.find? fun y => y.id == l.id) = some l

/-- The flits that a line without a filter holds in flight. -/
def State.inFlight (s : State) (l : Line) : Option (List Flit) := (s.lines.find? fun y => y.id == l.id).map (·.buf)

/-- R187, R298 to R300, R302: a unit of a feed sends the token it has read, the open token of a steered feed or a mark, which
closes the round; a unit of a drain takes the flit at the head of the line, a mark that may end it, or a token, which goes to a
row of the tile, added or in its place, to the ring and its progress word, to memory, or to a register. -/
def StreamUnits : Prop :=
  ∀ (s : State) (c : Cmd) (l : Line), s.running c → c.eng ≠ .walk → c.eng ≠ .config →
    let does (u : State) : Prop := exec (.engineUnitDone c.id 1) s = .next u
    (c.opc = 0xA0 → s.atLine l (s.feedLine? c) → s.tagOk l (c.bits 7 3) = true → l.stopped = false → l.space = true → l.op = 0 →
      l.gather = [] →
      (c.bits 10 1 = 0 → c.stage ≠ 0 → ∃ u : State, does u ∧ u.inFlight l = some (l.buf ++ [markFlit l.round (c.stage - 1) (c.bits 7 3)]) ∧
        (u.lines.find? fun y => y.id == l.id).map (·.round) = some ((l.round + 1) % 256)) ∧
      (c.bits 10 1 = 0 → c.stage = 0 → c.toBegin = none → ∀ bs, bs.length = s.tokenBytes l (c.bits 7 3) (c.bits 6 1 == 1) →
        s.portGives c (c.bits 4 2) c.feedAddr bs → ∃ u : State, does u ∧
          u.inFlight l = some (l.buf ++ [dataFlit l.round (c.bits 7 3) bs none (BitVec.allOnes 32)])) ∧
      (c.bits 10 1 = 1 → let last := c.prog == bitsOf c.b 0 32
        let k := c.open_.length
        k = 32 ∨ (last = true ∧ 0 < k ∧ k ≤ 32) → ∃ u : State, does u ∧
          u.inFlight l = some (l.buf ++ [dataFlit l.round (c.bits 7 3) (bytes32 (c.open_.map (·.toNat) ++ List.replicate (32 - k) 0))
            c.openPsn (BitVec.ofNat 32 (2 ^ k - 1))]))) ∧
    (c.opc = 0xA3 → s.atLine l (s.feedLine? c) → l.stopped = false → l.space = true → l.op = 0 → l.gather = [] →
      ∃ u : State, does (u.endCmd c.id 0) ∧ u.inFlight l = some (l.buf ++ [markFlit l.round c.cmd.toNat 0])) ∧
    (c.opc = 0xA1 → s.atLine l (s.drainLine? c) → ∀ f rest, l.arrived = f :: rest →
      (f.mark = true → ∃ u : State, does (if c.bits 3 1 = 1 ∧ c.bits 4 2 ≤ f.lvl then u.endCmd c.id 0 else u) ∧ SameMemory s u ∧
        (u.lines.find? fun y => y.id == l.id) = some { l with arrived := rest }) ∧
      (f.mark = false →
        let took (u : State) : Prop := does (u.tookToken c l).1
        let row := (bitsOf c.a 0 8 + c.prog % (max c.c.toNat 1)) % 256
        let v := f.lanes
        let off := c.a + word (256 * c.prog % (max c.c.toNat 1))
        (c.bits 0 3 ≤ 1 → ∃ u : State, took u ∧ SameMemory s u ∧ ∀ r, (u.reel c.reel).row r =
          if r = row then (if c.bits 0 3 = 0 then addRow c.ty ((s.reel c.reel).row row) v else v) else (s.reel c.reel).row r) ∧
        (c.bits 0 3 = 2 → c.ringBad = false → f.psn = none → s.lsOpen c off 256 → s.lsOpen c c.d 8 → ∃ u : State, took u ∧ SameMemory s u ∧
          (∀ k, k < 256 → (u.reel c.reel).ls.get 0 (off.toNat + k) = byteOf v.val k) ∧
          (∀ k, k < 8 → (u.reel c.reel).ls.get 0 (c.d.toNat + k) = byteOf (word (c.prog + 1)) k) ∧
          ∀ k, k < off.toNat ∨ off.toNat + 256 ≤ k → k < c.d.toNat ∨ c.d.toNat + 8 ≤ k →
            (u.reel c.reel).ls.get 0 k = (s.reel c.reel).ls.get 0 k) ∧
        (c.bits 0 3 = 3 → f.psn = none → let d := c.a + word c.prog * c.c
          s.portTakes c 0 d 256 → ∃ u : State, took u ∧ s.portStored c 0 d ((upto 256).map fun i => byteOf v.val i) u) ∧
        (c.bits 0 3 = 4 → ∀ r, s.slotOf? c.reel c.slot c.handle = some r → (s.slot r).exited = false →
          ((s.slot r).bank ((c.sd + c.prog) / 4)).supply = .full → ∃ u : State, took u ∧ SameMemory s u ∧
            (u.slot r).getV (c.sd + c.prog) = v)))

/-- The page of a KV command is open to it (R157, R159, R305). -/
def State.pageOpen (s : State) (c : Cmd) (acc : Access) (p : Nat) : Prop :=
  s.kvBehind c = false ∧ (∃ e, s.cmdParts c acc [(c.a, 1)] = .ok [(p, 1, e)] ∧ pteKv e = true) ∧ s.kvClosed (p / 65536) = false ∧
    (acc = .write → s.replayFull c.reel (s.homeField p) = false)

/-- R306 to R308: KVLD delivers its rows to registers, to the local store, or as tokens of the feed line, and the header it saw
to s[SC]; where the header or its limits refuse it, it delivers nothing, and the header is still told. KVAPP.rows appends its
rows, converted to e4m3, and NTOK rises in the same step, s[SD] holding the first row; KVAPP.init writes a fresh header, KVSEAL
closes the page. -/
def KvUnits : Prop :=
  ∀ (s : State) (c : Cmd) (p : Nat), s.running c → c.eng ≠ .walk → c.eng ≠ .config →
    let does (u : State) : Prop := exec (.engineUnitDone c.id 1) s = .next u
    let told (u : State) : Prop := c.sc ≠ 0 → ∀ r, s.slotOf? c.reel c.slot c.handle = some r → (u.slot r).getS c.sc = s.kvHead p
    let pure : Prop := ∀ g, s.mpsn.get false g = false
    (c.opc = 0xA9 → c.stage = 0 → s.pageOpen c .read p →
      let t0 := bitsOf c.b 0 16
      let m := bitsOf c.b 16 16
      let b := c.kvBytes s p m
      let whole : Prop := s.kvHeaderOk p = true ∧ m ≠ 0 ∧ t0 + m ≤ s.kvNtok p
      (c.bits 0 2 = 0 → whole → b ≤ 256 * (c.bits 2 3 + 1) → ∀ r, s.slotOf? c.reel c.slot c.handle = some r →
        (s.slot r).exited = false → (∀ k, k ≤ c.bits 2 3 → ((s.slot r).bank ((c.sd + k) / 4)).supply = .full) →
        ∃ u : State, does (u.endCmd c.id 0) ∧ told u ∧ SameMemory s u ∧ ∀ k, k ≤ c.bits 2 3 →
          (u.slot r).getV (c.sd + k) = vregOfBytes (((s.kvRows p c.ty t0 m 4).drop (256 * k)).take 256)) ∧
      (c.bits 0 2 = 1 → whole → ∀ l, s.kvRows p c.ty t0 m 4 = cleanBytes l → c.d.toNat + b ≤ lsSize → s.portTakes c 1 c.d l.length →
        ∃ u : State, does (u.endCmd c.id 0) ∧ told u ∧ s.portStored c 1 c.d l u) ∧
      (c.bits 0 2 = 2 → whole → ∀ l, s.feedLine? c = some l → s.tagOk l (c.bits 5 3) = true →
        ∃ u : State, does (u.modCmd c.id fun c => { c with out := kvFlits l (c.bits 5 3) (s.kvRows p c.ty t0 m 128) }) ∧ told u ∧
          SameMemory s u) ∧
      (c.bits 0 2 ≤ 1 → ∀ k,
        k = (if s.kvHeaderOk p = false then 3 else if m = 0 ∨ s.kvNtok p < t0 + m then 5
          else if c.bits 0 2 = 0 ∧ 256 * (c.bits 2 3 + 1) < b ∨ c.bits 0 2 = 1 ∧ lsSize < c.d.toNat + b then 7 else 0) →
        k ≠ 0 → ∃ u : State, does (u.endCmd c.id k) ∧ told u ∧ SameMemory s u ∧ ∀ k, (u.reel c.reel).ls.get 0 k = (s.reel c.reel).ls.get 0 k)) ∧
    (c.opc = 0xA9 → c.stage = 1 → ∀ l f rest, c.out = f :: rest → s.atLine l (s.feedLine? c) → l.stopped = false → l.space = true →
      l.op = 0 → f.mark = false → ∃ u : State, does u ∧ u.inFlight l = some (l.buf ++ [{ f with rnd := l.round }])) ∧
    (c.opc = 0xAA → c.cmd = 0 → c.stage = 1 → s.pageOpen c .write p → pure → s.kvHeaderOk p = true → s.kvField p 3 1 = 0 →
      s.kvHdim p = c.i0 → c.c.toNat ≠ 0 → s.kvNtok p + c.c.toNat ≤ s.kvCap p →
      let t0 := s.kvNtok p
      let at_ := p + 64 + t0 * c.i0
      ∀ l, l.length = c.c.toNat * c.i0 * (c.ty.lane / 8) → 0 < l.length → s.portGives c 1 c.b l →
        let bs := (chunks (c.ty.lane / 8) (cleanBytes l)).map (toE4m3 c.ty)
        ∃ u : State, does (u.endCmd c.id 0) ∧ (∀ k, k < bs.length → u.memByte (at_ + k) = bs.getD k (0, none)) ∧
          u.kvNtok p = t0 + c.c.toNat ∧
          (∀ x, x < at_ ∨ at_ + bs.length ≤ x → x < p + 6 ∨ p + 8 ≤ x → u.memByte x = s.memByte x) ∧
          (c.sd ≠ 0 → ∀ r, s.slotOf? c.reel c.slot c.handle = some r → (u.slot r).getS c.sd = SReg.clean (word t0))) ∧
    (c.opc = 0xAA → c.cmd ≠ 0 → s.pageOpen c .write p → pure → (∀ n, s.kvState (p / 65536) ≠ some (n + 1)) →
      let h := bitsOf c.b 0 16
      kvHdimOk h = true → ∃ u : State, does (u.endCmd c.id 0) ∧ u.memBytes p 64 = freshHeader h (bitsOf c.b 16 1) c.c ∧
        ∀ x, x < p ∨ p + 64 ≤ x → u.memByte x = s.memByte x) ∧
    (c.opc = 0xAB → s.pageOpen c .write p → pure → s.kvHeaderOk p = true → s.kvField p 3 1 = 0 →
      ∃ (u : State) (k : Nat), does (u.endCmd c.id k) ∧ (k = 0 ∨ k = 14) ∧ u.kvField p 3 1 = 1 ∧
        u.kvField p 16 8 = s.tick % 2 ^ 64 ∧
        ∀ x, x ≠ p + 3 → x < p + 16 ∨ p + 24 ≤ x → u.memByte x = s.memByte x)

/-! ## Kites -/

/-- The command is the one whose turn it is at the configuration unit of a partition, and nothing holds it (R190, R450). -/
def State.configures (s : State) (p : Partition) (c : Cmd) : Prop :=
  s.partByHandle? p.handle = some p ∧ p.suspended = false ∧ s.configTurn? p = some c ∧ c.part = p.handle ∧ c.eng = .config ∧
    s.cmd? c.id = some c ∧ c.ending = none ∧ c.held = none ∧ c.walk = none ∧ s.cmdReady c = true ∧
    ∀ f ∈ s.configFields p c, (s.field f).gated = false

/-- The kite that a command's first operand names, with no swap to come (R37, R314). -/
def State.names (s : State) (c : Cmd) (k : Kite) : Prop :=
  (s.kites.find? fun k => word k.handle == c.a && k.handle != 0 && k.ctx == c.ctx && k.part == c.part) = some k ∧
    s.kite? k.handle = some k ∧ k.swap = none

/-- R163, R168, R170, R191, R314, R316 to R322: the configuration unit performs KFREE, which takes the kite and its lines or waits
until they are quiet; KCTX, whose word each cell of the rectangle stores; KLDW, which loads each cell's shadow plane; KSWAP,
which then awaits a mark; KMMA; KROUTE, whose checks name the first failure (R320) and which makes a line between two ports;
KUNROUTE, which takes it away or waits; and KQRY, whose answer s[SD] takes. -/
def KiteUnits : Prop :=
  ∀ (s : State) (p : Partition) (c : Cmd), s.configures p c →
    let does (u : State) : Prop := exec (.configUnitPerform p.handle) s = .next u
    let c' : Cmd := { c with started := true }
    let wait : Prop := does (s.setCmd c')
    let refuse (code : Nat) : Prop := does ((s.setCmd c').endCmd c.id code)
    let answer (x : SReg) : Prop := ∃ u : State, does (u.endCmd c.id 0) ∧
      (c.sd ≠ 0 → ∀ r, s.slotOf? c.reel c.slot c.handle = some r → (u.slot r).getS c.sd = x)
    (∀ k, s.names c k →
      let ls := s.kiteInputs k ++ s.kiteOutputs k
      (c.opc = 0xB1 → ((∀ l ∈ ls, s.lineQuiet l = true) → ∃ u : State, does u ∧ u.kite? k.handle = none ∧
          (∀ l ∈ s.lines, l ∈ u.lines ↔ ∀ m ∈ ls, l.id ≠ m.id) ∧ (∀ x ∈ s.kites, x.handle ≠ k.handle → (u.kite? x.handle).isSome = true)) ∧
        (k.halted = false → (∃ l ∈ ls, s.lineQuiet l = false) → wait)) ∧
      (c.opc = 0xB8 → (c.cmd = 0 → answer (SReg.clean (word (k.arrival (k.bw - 1))))) ∧
        (c.cmd = 1 → answer (SReg.clean (word (k.hSeams + k.vSeams <<< 32)))) ∧
        (c.cmd = 2 → (c.b.toNat < k.bw → answer (SReg.clean (word (k.arrival c.b.toNat - k.arrival 0)))) ∧
          (k.bw ≤ c.b.toNat → refuse 7)) ∧
        (c.cmd = 3 → let i := bitsOf c.b 0 16
          let j := bitsOf c.b 16 16
          (i < k.rows → j < k.cols → answer { val := (k.ctxWord i j (bitsOf c.b 32 3)).val, psn := (k.ctxWord i j (bitsOf c.b 32 3)).psn }) ∧
          (k.rows ≤ i ∨ k.cols ≤ j → refuse 7)) ∧
        (c.cmd = 4 → answer (SReg.clean (word k.index))) ∧
        (c.cmd = 5 → answer (SReg.clean (word (s.divider ((s.kiteRows k).headD 0)))))) ∧
      (k.halted = false →
        (c.opc = 0xB2 → (k.rect c.d = none → refuse 7) ∧ ∀ r, k.rect c.d = some r →
          (ctxBad k.mode c.c = true → refuse 0x22) ∧
          (ctxBad k.mode c.c = false → ∃ (u : State) (y : Kite), does u ∧ u.kite? k.handle = some y ∧ ∀ i j tag, j < k.cols → tag < 8 →
            y.ctxWord i j tag = if i * k.cols + j ∈ k.cells r ∧ tag = bitsOf c.b 0 3 then { val := ctxStored k.mode c.c, psn := false }
              else k.ctxWord i j tag)) ∧
        (c.opc = 0xB3 → (k.rect c.c = none → refuse 7) ∧ ∀ r, k.rect c.c = some r →
          (c.cmd.toNat % 2 = 1 → lsSize < c.b.toNat + 256 * (k.cells r).length → refuse 7) ∧
          ∀ n rest l q, (k.cells r).drop c.i0 = n :: rest → n ∉ rest → l.length = 256 →
            (c.cmd.toNat % 2 = 1 → c.b.toNat + 256 * (k.cells r).length ≤ lsSize) →
            s.portGives c (c.cmd.toNat % 2) (c.b + word (256 * c.i0)) l → planeOf k.prec (2 ≤ c.cmd.toNat) (cleanBytes l) = some q →
            ∃ (u : State) (y : Kite), does u ∧ u.kite? k.handle = some y ∧ y.shadow.get Plane.zero n = q ∧ SameMemory s u) ∧
        (c.opc = 0xB4 → (k.shadowBad ≠ [] → refuse 0x24) ∧ (k.shadowBad = [] → ∃ (u : State) (y : Kite), does u ∧
          u.kite? k.handle = some y ∧ y.swap = some c' ∧ y.active = k.active ∧ y.shadow = k.shadow)) ∧
        (c.opc = 0xB5 → (k.mode = 2 → refuse 0x22) ∧ (k.mode ≠ 2 → k.bh < bitsOf c.b 0 8 ∨ k.bw < bitsOf c.b 8 8 → refuse 7) ∧
          (k.mode ≠ 2 → bitsOf c.b 0 8 ≤ k.bh → bitsOf c.b 8 8 ≤ k.bw → ∃ (u : State) (y : Kite), does u ∧ u.kite? k.handle = some y ∧
            y.pass = (c.cmd == 1) ∧ y.acc = c.b.getLsbD 24 ∧ y.srows = bitsOf c.b 0 8 ∧ y.scols = bitsOf c.b 8 8 ∧
            y.active = k.active ∧ (k.mode = 1 → y.acc = false → y.accs = []))))) ∧
    (c.opc = 0xB6 → (∀ e, s.portOf p c (bitsOf c.a 0 32) true = .error e → refuse e) ∧
      ∀ src sx sy, s.portOf p c (bitsOf c.a 0 32) true = .ok (src, sx, sy) → (s.portFree p.handle src = false → refuse 0x26) ∧
        (s.portFree p.handle src = true → (∀ e, s.portOf p c (bitsOf c.a 32 32) false = .error e → refuse e) ∧
          ∀ snk tx ty, s.portOf p c (bitsOf c.a 32 32) false = .ok (snk, tx, ty) → (s.portFree p.handle snk = false → refuse 0x26) ∧
            (s.portFree p.handle snk = true → (∀ k ∈ s.kites, k.halted = false) →
              (∀ e, routeOf p c.b sx sy tx ty = .error e → refuse e) ∧
              ∀ path hops, routeOf p c.b sx sy tx ty = .ok (path, hops) →
                let rate := bitsOf c.c 0 16
                let flt := c.c.extractLsb' 32 16
                let fixed : Prop := c.c.getLsbD 50 = false
                let depth := bitsOf c.d 0 11
                let burst := bitsOf c.d 16 11
                let direct := src.isKite != snk.isKite && sx == tx && sy == ty
                let bad := filterBad flt (c.c.getLsbD 50) rate (snk.kind == 3 || snk.kind == 4)
                let rates : Prop := if fixed then s.fixedOk src snk rate (bitsOf c.c 16 16) depth hops direct = true
                  else 0 < burst ∧ 2 * burst + (if direct then 0 else 2 * hops) ≤ depth
                (bad = true → refuse 0x2B) ∧ (bad = false → ¬rates → refuse 0x2C) ∧
                (bad = false → rates → ¬fixed → snk.kind ≠ 2 → refuse 9) ∧
                (bad = false → rates → (¬fixed → snk.kind = 2) → s.lines.length < 16 → (∀ n, s.blockFree n = true) →
                  ∃ (u : State) (l : Line), does u ∧ u.lines = s.lines ++ [l] ∧ l.part = p.handle ∧ l.src = src ∧ l.snk = snk ∧
                    l.filter = flt ∧ l.elastic = c.c.getLsbD 50 ∧ l.vc = bitsOf c.c 48 2 ∧ l.rate = rate ∧ l.depth = depth ∧
                    l.burst = burst ∧ l.hops = hops ∧ l.path = (if direct then [] else path) ∧ l.round = 0 ∧ l.buf = [] ∧
                    l.arrived = [] ∧ l.gather = [] ∧ l.stopped = false)))) ∧
    (c.opc = 0xB7 → (∀ e, s.portOf p c (bitsOf c.a 0 32) true = .error e → refuse e) ∧
      ∀ src xy, s.portOf p c (bitsOf c.a 0 32) true = .ok (src, xy) → (∀ k ∈ s.kites, k.halted = false) →
        (s.lineFrom? p.handle src = none → refuse 0x26) ∧
        ∀ l, s.lineFrom? p.handle src = some l → (s.lineQuiet l = false → wait) ∧
          (s.lineQuiet l = true → ∃ u : State, does u ∧ u.lines = s.lines.filter fun m => m.id != l.id))

/-! ## Vector results -/

/-- v[DST] is live, and each of its lanes of width `w` is `v j` where MSK enables it and what it was elsewhere (R44, R264);
the pc has moved on. -/
def LaneResult (s t : State) (f : RF) (w : Nat) (v : Nat → Nat) : Prop :=
  (t.me).pc = (s.me).pc + 8 ∧ (t.me).isLive f.dst.toNat = true ∧
  ∀ j, j < lanesOf w → laneOf ((t.me).getV f.dst.toNat).val w j =
    if (mskOf s.me f).getLsbD (j * w / 32) then v j % 2 ^ w else laneOf ((s.me).getV f.dst.toNat).val w j

/-- Nothing that a vector instruction on `rs` reads is poisoned. -/
def vecClean (s : State) (f : RF) (rs : List (BitVec 6)) : Prop :=
  s.gcode f.grd = none ∧ ((s.me).getM f.msk).psn = false ∧ ∀ r ∈ rs, ((s.me).getV r.toNat).psn = 0

/-! ## The invariant of memory -/

/-- Memory is in its canonical form. -/
def Canonical (s : State) : Prop := Memory.wf s.mem = true

end Sys2Proof.Machine
end

