-- ==== Sys2Proof/Certificates/Slice0/Obligations.lean ====
section
/-! DEFINITION. The statements for the provers. -/

section
open Sys2Proof Sys2Proof.Machine

/-! ## Reset, decoding, a step -/

/-- R442 (PWRCAP, PWRSLOPE, PWRPOL), R457 (PEERCFG), R63 (delays and the generator seed of a strand's start), R56 (local
store dead and its banks OFF at reel reset), R414 (the Reset column of MODE, MX4_OFF and CLKMHZ, no field offered), R452 (MHZ):
what a cold reset leaves, with no context, partition, queue or strand. -/
def Obligations.ResetValues : Prop :=
  State.reset.power.pwrcap = 480 ∧ State.reset.power.pwrslope = 500 ∧
  State.reset.power.pwrpol = 0x000F_4240_0020_0A07 ∧ State.reset.quedon.peercfg = 0xFFFF ∧
  State.reset.tick = 0 ∧ (∀ c, (State.reset.ctx c).live = false) ∧ State.reset.parts = [] ∧
  (∀ r, (State.reset.slot r).phase = .free) ∧
  (∀ r, (State.reset.slot r).seed = 1 ∧ (State.reset.slot r).bkOff = 64 ∧ (State.reset.slot r).bkRet = 512) ∧
  (∀ n k, (State.reset.reel n).slabLive k = false ∧ ((State.reset.reel n).lsBank k).supply = .off) ∧
  State.reset.fw.devMode = .booting ∧ State.reset.fw.mx4Off = true ∧ State.reset.fw.clkMHz = 750 ∧
  (∀ f, (State.reset.field f).offered = false) ∧ ∀ n, bitsOf (State.reset.clkstat n) 16 16 = 750

/-- Memory is in its canonical form after reset. -/
def Obligations.ResetCanonical : Prop := Canonical State.reset

/-- Every step keeps memory in its canonical form, from every state, reached or not. -/
def Obligations.StepKeepsCanonical : Prop :=
  ∀ s t, Canonical s → step s = .next t → Canonical t

/-- R86 to R111: every well-formed instruction has a word, and the decoder reads that word as the instruction, with every
operand at every value the encoding admits. -/
def Obligations.DecodeEncode : Prop :=
  ∀ i : Instr, isWord i = true → i.wf = true → ∃ w, encode i = some w ∧ decode w = .ok i

/-- R111: a word the decoder accepts stands for one well-formed instruction, whose encoding is that word: no reserved bit
is read over. -/
def Obligations.EncodeDecode : Prop :=
  ∀ (w : Word) (i : Instr), decode w = .ok i → i.wf = true ∧ encode i = some w

/-- Words written out from the formats of R87 to R96 and the spec's own examples decode to what they stand for: one for
each format. -/
def Obligations.DecodeWords : Prop :=
  decode 0x0100_30C2_0000_0000 = .ok (.add
    { grd := { inv := false, p := 0 }, luA := false, luB := false, luC := false, dst := 6, sa := 6, sb := 4, sc := 0
      sub := 0, ty := .none, rnd := .rne, sat := false, ru := false }) ∧
  decode 0x2D00_20A0_FFFF_FFFF = .ok (.loop
    { grd := { inv := false, p := 0 }, dst := 4, sa := 5, sub := 0, imm := 0xFFFF_FFFF }) ∧
  decode 0x4000_5120_0040_0600 = .ok (.ld
    { grd := { inv := false, p := 0 }, luA := false, luB := false, dst := 10, base := 9, idx := 0, scl := 0, off := 512
      ty := .n16, scope := 0, ord := 0, cache := 0 }) ∧
  decode 0x5C00_4043_8C00_2200 = .ok (.waita
    { grd := { inv := false, p := 0 }, dst := 8, addr := 2, sb := 7, sc := 6, addr2 := 0, ty := .none, scope := 4, ord := 1 }) ∧
  decode 0xA000_4882_8C38_0000 = .ok (.sfeed
    { grd := { inv := false, p := 0 }, tok := 9, sa := 4, sb := 5, sc := 6, sd := 7, cmd := 0, ty := .none }) ∧
  decode 0xF300_00C2_4200_0000 = .ok (.csrw
    { grd := { inv := false, p := 0 }, dst := 0, sa := 6, csr := 0x121, sub := 0 }) ∧
  decode 0x0080_0000_0000_0000 = .error .badEntry

/-- A step runs the decoded instruction (R26, R33, R46, R86, R113). A turn of the agenda lets its ticks pass and runs one cycle
of its reel: the cycle begins, the strands of the reel are looked at in the order of R33, and the first that is READY issues: an
instruction that the decoder reads from its word is run by `exec` with that strand as the one that issues, and the tokens of
bounds that entered before the cycle are written as it ends (R301). A strand of phase LIVE with no wait, nothing of it stopping
it and its word at hand is READY with the decoded instruction when neither its scoreboard nor the instruction's own entry nor a
bank holds it; and the word at hand is the word of the instruction L1 at the translated pc. A word that the decoder refuses (an
opcode with no entry, a reserved bit set, a field its entry does not accept) makes the strand READY with that word, and the step
in which it is the one to issue takes ILLEGAL with it (R108, R111). -/
def Obligations.StepRunsDecoded : Prop :=
  (∀ (s u : State) (dt n k : Nat) (i : Instr) (l : List (Nat × Next)) (rest : List Turn),
    s.agenda = .cycle dt n :: rest →
    (State.advance { s with agenda := rest } dt).power.railOff = false →
    ((State.advance { s with agenda := rest } dt).field (fieldOfReel n)).gated = false →
    let v := ((State.advance { s with agenda := rest } dt).startCycle n).settleFaulted n
    let now := { u.select n k (k :: l.map (·.1)) with cur := { reel := n, slot := k } }
    State.lookAll n (v.reel n).order v = ((k, .instr i) :: l, u) →
    (∀ t, exec i now = .next t → step s = .next (t.endBounds (v.boundsOf n))) ∧
    (v.boundsOf n = [] → step s = exec i now)) ∧
  (∀ (s u : State) (dt n k : Nat) (w : Word) (l : List (Nat × Next)) (rest : List Turn),
    s.agenda = .cycle dt n :: rest →
    (State.advance { s with agenda := rest } dt).power.railOff = false →
    ((State.advance { s with agenda := rest } dt).field (fieldOfReel n)).gated = false →
    let v := ((State.advance { s with agenda := rest } dt).startCycle n).settleFaulted n
    State.lookAll n (v.reel n).order v = ((k, .illegal w) :: l, u) →
    step s = .next (((u.select n k (k :: l.map (·.1))).takeFault { reel := n, slot := k } { cls := clsIllegal } w).endBounds
      (v.boundsOf n))) ∧
  (∀ (s : State) (r : StrandRef) (w : Word) (e : DecodeError), s.cur = r →
    (s.slot r).phase = .live → (s.slot r).wait = .none → (s.slot r).stopped (s.reel r.reel).cycle = false →
    s.fetch r = .word w → decode w = .error e → s.look r = (some (.illegal w), s.noteWord r w)) ∧
  (∀ (s t : State) (r : StrandRef) (w : Word) (i : Instr), s.cur = r →
    (s.slot r).phase = .live → (s.slot r).wait = .none → (s.slot r).stopped (s.reel r.reel).cycle = false →
    s.fetch r = .word w → decode w = .ok i → (s.slot r).regsHold (s.reel r.reel).cycle i = false →
    let s' := s.noteWord r w
    exec i s' = .next t → t.held = false → ((t.slot r).phase = .faulted ∨ s'.bankHold i = none) →
    s.look r = (some (.instr i), s')) ∧
  (∀ (s : State) (r : StrandRef) (pa : Nat) (e : Word), (s.slot r).fetchFail = none →
    s.translate r.reel (s.slot r).ctx (s.slot r).pc .fetch (s.slot r).mode = .ok pa e →
    (s.reel r.reel).icache.any (·.1 == pa / 8) = true →
    s.fetch r = .word ((s.reel r.reel).icache.get 0 (pa / 8)))

/-! ## Issue and faults -/

/-- R109, R111, R112, R228, R230, R386, R392: an instruction whose fields its entry does not accept raises ILLEGAL, and a
well-formed one below the lowest mode of its word raises PRIV, whatever the guard holds.
R108, R111, R223, R227: BKPT, TRAP and a word of an unassigned opcode take their fault: that is their own effect. -/
def Obligations.IllegalAndPriv : Prop :=
  (∀ (i : Instr) (s : State), isWord i = true →
    (i.wf = false → exec i s = faults i s { cls := clsIllegal }) ∧
    (i.wf = true → (s.me).mode.rank < rankOf i → exec i s = faults i s { cls := clsPriv })) ∧
  (∀ (h : IF) (f : SF) (w : Word) (s : State),
    (issues (.bkpt h) s = true → exec (.bkpt h) s =
      faults (.bkpt h) s { cls := 10, info := Sys2Proof.word (bitsOf h.imm 0 16) }) ∧
    (issues (.trap f) s = true → exec (.trap f) s = faults (.trap f) s { cls := 11, sub := f.sub.toNat, info := (s.rs f.sa).val }) ∧
    exec (.unassignedOpcode w) s = .next (s.takeFault s.cur { cls := 1 } w))

/-- R51: a false guard. Nothing changes but the pc, which advances by 8, and the strand's READY tick: no register, no
liveness, no bank, no memory, no record, no counter, no draw; not even a dead or poisoned source is noticed (but a poisoned
guard that a transfer consumes, R212). The guard here is clean; a poisoned one whose instruction goes on with the poison is
not skipped (R212). -/
def Obligations.GuardFalseSkips : Prop :=
  ∀ (i : Instr) (s : State), isWord i = true → i.wf = true → rankOf i ≤ (s.me).mode.rank →
    (guardConsumed i && (s.gcode (guardOf i)).isSome) = false → (s.me).guardHolds (guardOf i) = false →
    ∃ t, exec i s = .next t ∧ t.me = { s.me with pc := (s.me).pc + 8, readyTick := s.tick } ∧ OnlySlot s t ∧ SameMemory s t

/-- R50, R384: an instruction that reads a dead vector register raises DEADREG with the lowest-numbered one, and its
strand keeps every register, live bit and bank; only the slot's state says FAULTED. -/
def Obligations.DeadRegister : Prop :=
  ∀ (i : Instr) (s : State) (n : Nat), isWord i = true → i.wf = true → rankOf i ≤ (s.me).mode.rank →
    (guardConsumed i && (s.gcode (guardOf i)).isSome) = false → (s.me).guardHolds (guardOf i) = true →
    (s.me).firstDead (usesOf i).reads = some n →
    ∃ t, exec i s = .next t ∧ t = s.trapAt i { cls := clsDeadreg, info := Sys2Proof.word n } ∧
      (t.me).phase = .faulted ∧ (t.me).pc = (s.me).pc ∧ (t.me).live = (s.me).live ∧ (t.me).banks = (s.me).banks ∧
      SameS s.me t.me [] ∧ SameP s.me t.me [] ∧ SameM s.me t.me [] ∧ SameV s.me t.me [] ∧ SameIdentity s.me t.me ∧
      OnlyStrand s t ∧ SameMemory s t

/-- R384, R386: what every precise fault does. The slot goes to FAULTED with its pc at the faulting instruction; no register,
live bit, bank or other state of the strand changes, and nothing else of the device but that one record waits for the context's
fault queue, with CLASS, SUB, UNIT 7, FLAGS, block, HANDLE, PC, ADDR, WORD, INFO and TICK. That FLAGS bit 2 tells user mode for
every class of fault, and not for translations alone, is the model's choice (log entry 16). -/
def Obligations.FaultEntry : Prop :=
  ∀ (i : Instr) (s : State) (x : Trap),
    ((s.trapAt i x).me).phase = .faulted ∧ ((s.trapAt i x).me).pc = (s.me).pc ∧
    SameS s.me (s.trapAt i x).me [] ∧ SameP s.me (s.trapAt i x).me [] ∧ SameM s.me (s.trapAt i x).me [] ∧
    SameV s.me (s.trapAt i x).me [] ∧ SameIdentity s.me (s.trapAt i x).me ∧ OnlyStrand s (s.trapAt i x) ∧
    ((s.trapAt i x).ctx (s.me).ctx).records = (s.ctx (s.me).ctx).records ++
      [{ w0 := recordHead x.cls x.sub 7 x.wrote x.fetch ((s.me).mode == .user) (s.blockOf s.cur.reel).1 (s.blockOf s.cur.reel).2
         handle := Sys2Proof.word (s.me).handle, pc := (s.me).pc, addr := x.addr, word := wordOf i, info := x.info
         tick := Sys2Proof.word s.tick, recordOnly := false }]

/-- R49, R86: the part of an issue that every completing instruction shares. The pc advances by 8; scalars, predicates,
masks and what the strand is stay; a vector register marked last use is dead afterwards, and every other keeps its
liveness and contents; nothing but the strand changes. -/
def Obligations.SharedIssue : Prop :=
  ∀ (i : Instr) (s : State),
    ((s.retire i).me).pc = (s.me).pc + 8 ∧ SameS s.me (s.retire i).me [] ∧ SameP s.me (s.retire i).me [] ∧
    SameM s.me (s.retire i).me [] ∧ SameV s.me (s.retire i).me (usesOf i).kills ∧
    (∀ n, n ∈ (usesOf i).kills → n < 64 → ((s.retire i).me).isLive n = false) ∧
    SameIdentity s.me (s.retire i).me ∧ OnlySlot s (s.retire i)

/-- R43: s0 reads as zero and p0 as true and m0 as all ones, whatever is written to them; any other register reads as
what was written, and a write leaves the others alone. -/
def Obligations.FixedRegisters : Prop :=
  ∀ (t : Slot) (x : SReg) (y : PReg),
    (t.setS 0 x).getS 0 = SReg.clean 0 ∧ (t.setP 0 y).getP 0 = { val := true, code := none } ∧
    (t.setM 0 x).getM 0 = SReg.clean 0xFFFF_FFFF_FFFF_FFFF ∧
    (∀ n, n ≠ 0 → (t.setS n x).getS n = x ∧ (t.setP n y).getP n = y ∧ (t.setM n x).getM n = x) ∧
    ∀ n, SameS t (t.setS n x) [n] ∧ SameP t (t.setP n y) [n] ∧ SameM t (t.setM n x) [n]

/-! ## Scalars and predicates -/

/-- R69, R196: results of the integer types, read back under their type. An exact value in the type's range is kept; one
outside wraps to the value that is equal to it mod 2^w, or is clamped under SAT; and bits of an operand above w − 1 are
ignored. -/
def Obligations.IntegerResults : Prop :=
  ∀ (t : Ty), t.isInt = true → ∀ (sat : Bool) (v : Int) (x : Word),
    (tmin t.bits t.sgn64 ≤ v → v ≤ tmax t.bits t.sgn64 → opnd t (result t sat v) = v) ∧
    (v < tmin t.bits t.sgn64 → opnd t (result t true v) = tmin t.bits t.sgn64) ∧
    (tmax t.bits t.sgn64 < v → opnd t (result t true v) = tmax t.bits t.sgn64) ∧
    (∃ k : Int, opnd t (result t false v) = v + k * ((2 ^ t.bits : Nat) : Int)) ∧
    tmin t.bits t.sgn64 ≤ opnd t x ∧ opnd t x ≤ tmax t.bits t.sgn64 ∧
    (∃ k : Int, opnd t x = (x.toNat : Int) + k * ((2 ^ t.bits : Nat) : Int))

/-- R198 (the rows of two sources), R199, R200 (BFX), R202 (LEA), R212: each completes with the value of its row in s[DST],
or poisoned by the guard, s[SA] or s[SB], the first that is. -/
def Obligations.ScalarTwoSource : Prop :=
  ∀ (f : RF) (s : State),
    let x := (s.rs f.sa).val
    let y := (s.rs f.sb).val
    let A := opnd f.ty x
    let B := opnd f.ty y
    let a := pat f.ty x
    let b := pat f.ty y
    let w := f.ty.bits
    let n := y.toNat
    let gives (i : Instr) (v : Word) : Prop := issues i s = true →
      exec i s = scalarDone i s f.dst [s.gcode f.grd, (s.rs f.sa).code, (s.rs f.sb).code] v
    gives (.add f) (result f.ty f.sat (A + B)) ∧ gives (.sub f) (result f.ty f.sat (A - B)) ∧
    gives (.mul f) (result f.ty f.sat (A * B)) ∧ gives (.mulh f) (result f.ty false (A * B / ((2 ^ w : Nat) : Int))) ∧
    gives (.div f) (result f.ty f.sat
      (if B = 0 then if f.ty.sgn64 then -1 else ((2 ^ w : Nat) : Int) - 1 else A.tdiv B)) ∧
    gives (.rem f) (result f.ty false (if B = 0 then A else A - B * A.tdiv B)) ∧
    gives (.absd f) (Sys2Proof.word (A - B).natAbs) ∧
    gives (.min f) (result f.ty false (min A B)) ∧ gives (.max f) (result f.ty false (max A B)) ∧
    gives (.and_ f) (result f.ty false ((a &&& b : Nat) : Int)) ∧ gives (.or_ f) (result f.ty false ((a ||| b : Nat) : Int)) ∧
    gives (.xor_ f) (result f.ty false ((a ^^^ b : Nat) : Int)) ∧
    gives (.andn f) (result f.ty false ((a &&& (2 ^ w - 1 - b) : Nat) : Int)) ∧
    gives (.shl f) (result f.ty f.sat (A * ((2 ^ n : Nat) : Int))) ∧ gives (.shr f) (result f.ty false ((a / 2 ^ n : Nat) : Int)) ∧
    gives (.sar f) (result f.ty false (signed w a / ((2 ^ n : Nat) : Int))) ∧
    gives (.rol f) (result f.ty false (((a * 2 ^ (n % w) + a / 2 ^ (w - n % w)) % 2 ^ w : Nat) : Int)) ∧
    gives (.bfx f) (if bfLen y = 0 then 0 else if f.ty = .n64 then Sys2Proof.word (bitsOf x (bfPos y) (bfLen y))
      else wordOfInt (signed (bfLen y) (bitsOf x (bfPos y) (bfLen y)))) ∧
    gives (.lea f) (x + y <<< (f.sub.toNat % 4))

/-- R198 (the rows of one and three sources), R200 (BFI), R201, R202 (MOV, SEL), R212. BREV is said bit by bit. -/
def Obligations.ScalarOneAndThreeSource : Prop :=
  ∀ (f : RF) (s : State),
    let x := s.rs f.sa
    let y := s.rs f.sb
    let z := s.rs f.sc
    let p := (s.me).getP f.sc.toNat
    let w := f.ty.bits
    let g := s.gcode f.grd
    (issues (.madd f) s = true → exec (.madd f) s = scalarDone (.madd f) s f.dst [g, x.code, y.code, z.code]
      (result f.ty f.sat (opnd f.ty x.val * opnd f.ty y.val + opnd f.ty z.val))) ∧
    (issues (.bfi f) s = true → exec (.bfi f) s = scalarDone (.bfi f) s f.dst [g, x.code, y.code, z.code]
      ((x.val &&& ~~~(maskBits 64 (bfPos z.val) (bfLen z.val))) |||
        ((y.val <<< bfPos z.val) &&& maskBits 64 (bfPos z.val) (bfLen z.val)))) ∧
    (issues (.clz f) s = true → exec (.clz f) s = scalarDone (.clz f) s f.dst [g, x.code]
      (Sys2Proof.word (w - (if pat f.ty x.val = 0 then 0 else (pat f.ty x.val).log2 + 1)))) ∧
    (issues (.popc f) s = true → exec (.popc f) s = scalarDone (.popc f) s f.dst [g, x.code]
      (Sys2Proof.word ((List.range w).filter fun k => (pat f.ty x.val).testBit k).length)) ∧
    (issues (.brev f) s = true → ∃ r : Nat, (∀ k, k < w → r.testBit (w - 1 - k) = (pat f.ty x.val).testBit k) ∧ r < 2 ^ w ∧
      exec (.brev f) s = scalarDone (.brev f) s f.dst [g, x.code] (result f.ty false (r : Int))) ∧
    (issues (.ext f) s = true → exec (.ext f) s = scalarDone (.ext f) s f.dst [g, x.code]
      (if f.sat then result f.ty true (if f.ty.sgn64 then x.val.toInt else (x.val.toNat : Int))
       else result f.ty false (opnd f.ty x.val))) ∧
    (issues (.mov f) s = true → exec (.mov f) s = scalarDone (.mov f) s f.dst [g, x.code] x.val) ∧
    (issues (.sel f) s = true → exec (.sel f) s =
      if p.val then scalarDone (.sel f) s f.dst [g, x.code, p.code] x.val
      else scalarDone (.sel f) s f.dst [g, y.code, p.code] y.val)

/-- R204, R205, R206, R208, R212: CMP, CMPI, PLOG and the four forms of PMOV. A predicate written from a poisoned source is
poisoned with its code, and its truth is a free value (log entry 2). -/
def Obligations.PredicateResults : Prop :=
  ∀ (f : RF) (h : IF) (s : State),
    let x := s.rs f.sa
    let y := s.rs f.sb
    let z := s.rs h.sa
    let p := (s.me).getP f.sa.toNat
    let q := (s.me).getP f.sb.toNat
    let g := s.gcode f.grd
    (issues (.cmp f) s = true → exec (.cmp f) s = predDone (.cmp f) s f.dst [g, x.code, y.code]
      (match f.sub.toNat % 8 with
       | 0 => decide (opnd f.ty x.val = opnd f.ty y.val)
       | 1 => decide (opnd f.ty x.val ≠ opnd f.ty y.val)
       | 2 => decide (opnd f.ty x.val < opnd f.ty y.val)
       | 3 => decide (opnd f.ty x.val ≤ opnd f.ty y.val)
       | 4 => decide (opnd f.ty y.val < opnd f.ty x.val)
       | 5 => decide (opnd f.ty y.val ≤ opnd f.ty x.val)
       | 6 => decide (pat f.ty x.val &&& pat f.ty y.val ≠ 0)
       | _ => decide (pat f.ty x.val &&& pat f.ty y.val = 0))) ∧
    (issues (.plog f) s = true → exec (.plog f) s = predDone (.plog f) s f.dst [g, p.code, q.code]
      (f.sub.getLsbD (2 * bit p.val + bit q.val))) ∧
    (issues (.pmov f) s = true → f.sub = 0 → exec (.pmov f) s = scalarDone (.pmov f) s f.dst
      (g :: (upto 8).map fun k => ((s.me).getP k).code)
      (Sys2Proof.word (natOfLanes 1 ((upto 8).map fun k => bit ((s.me).getP k).val)))) ∧
    (issues (.pmov f) s = true → f.sub = 1 → g = none → x.psn = false → ∃ t, exec (.pmov f) s = .next t ∧
      (∀ k, 0 < k → k < 8 → (t.me).getP k = { val := x.val.getLsbD k, code := none }) ∧ SameS s.me t.me []) ∧
    (issues (.pmov f) s = true → f.sub = 2 → exec (.pmov f) s = predDone (.pmov f) s f.dst [g, x.code] (decide (x.val ≠ 0))) ∧
    (issues (.pmov f) s = true → f.sub = 3 → exec (.pmov f) s = scalarDone (.pmov f) s f.dst [g, p.code]
      (Sys2Proof.word (bit p.val))) ∧
    (issues (.cmpi h) s = true → exec (.cmpi h) s = predDone (.cmpi h) s h.dst [s.gcode h.grd, z.code]
      (match h.sub.toNat with
       | 0 => decide (z.val = h.imm.signExtend 64)
       | 1 => decide (z.val ≠ h.imm.signExtend 64)
       | 2 => z.val.slt (h.imm.signExtend 64)
       | 3 => z.val.sle (h.imm.signExtend 64)
       | 4 => (h.imm.signExtend 64).slt z.val
       | 5 => (h.imm.signExtend 64).sle z.val
       | 6 => decide (z.val &&& h.imm.signExtend 64 ≠ 0)
       | 7 => decide (z.val &&& h.imm.signExtend 64 = 0)
       | 10 => decide (z.val < h.imm.zeroExtend 64)
       | 11 => decide (z.val ≤ h.imm.zeroExtend 64)
       | 12 => decide (h.imm.zeroExtend 64 < z.val)
       | _ => decide (h.imm.zeroExtend 64 ≤ z.val)))

/-- R107, R110, R207: NOP and the immediate instructions. -/
def Obligations.ImmediateResults : Prop :=
  ∀ (g : Guard) (f : IF) (s : State),
    let x := s.rs f.sa
    let n := bitsOf f.imm 0 6
    let gives (i : Instr) (v : Word) : Prop := issues i s = true →
      exec i s = scalarDone i s f.dst [s.gcode f.grd, x.code] v
    (issues (.nop g) s = true → exec (.nop g) s = .next (s.retire (.nop g))) ∧
    gives (.addi f) (x.val + f.imm.signExtend 64) ∧ gives (.muli f) (x.val * f.imm.signExtend 64) ∧
    gives (.logi f) (match f.sub.toNat with
      | 0 => x.val &&& f.imm.zeroExtend 64
      | 1 => x.val ||| f.imm.zeroExtend 64
      | 2 => x.val ^^^ f.imm.zeroExtend 64
      | _ => x.val &&& ~~~(f.imm.zeroExtend 64)) ∧
    gives (.shi f) (match f.sub.toNat with
      | 0 => x.val <<< n
      | 1 => x.val >>> n
      | 2 => x.val.sshiftRight n
      | _ => x.val.rotateLeft n) ∧
    gives (.movhi f) (f.imm ++ x.val.extractLsb' 0 32) ∧
    (issues (.movi f) s = true →
      exec (.movi f) s = scalarDone (.movi f) s f.dst [s.gcode f.grd] (f.imm.signExtend 64))

/-- R195, R207, R212: what the scalar, predicate and immediate instructions leave alone, on every path. A generator's seed moves
only under RND 5 (R76), which format I has not. R209, R210: what transfers and loops leave alone: CALL and CALLR write s63, LOOP
and DBNZ their counter, the others no register at all. R214 to R221: EXIT, YIELD, WAITT, PRIO, WAITQ and SPAWN too: WAITQ writes
its destination and, as the acquire it is, drops clean bytes of the reel's L1; SPAWN adds its request and sends the write-backs
of its release; none of them touches another strand, memory or any other part of the device. -/
def Obligations.ScalarFrame : Prop :=
  (∀ mk ∈ [Instr.add, .sub, .mul, .mulh, .madd, .div, .rem, .absd, .min, .max, .and_, .or_, .xor_, .andn, .shl, .shr, .sar,
      .rol, .clz, .popc, .brev, .bfx, .bfi, .ext, .mov, .sel, .lea, .time, .strid],
    ∀ (f : RF) (s t : State), exec (mk f) s = .next t →
      OnlyStrand s t ∧ SameMemory s t ∧ SameS s.me t.me [f.dst.toNat] ∧ SameP s.me t.me [] ∧ SameM s.me t.me [] ∧
      SameV s.me t.me [] ∧ SameIdentity s.me t.me) ∧
  (∀ mk ∈ [Instr.addi, .muli, .logi, .shi, .movi, .movhi],
    ∀ (f : IF) (s t : State), exec (mk f) s = .next t →
      OnlyStrand s t ∧ SameMemory s t ∧ SameS s.me t.me [f.dst.toNat] ∧ SameP s.me t.me [] ∧ SameM s.me t.me [] ∧
      SameV s.me t.me [] ∧ SameIdentity s.me t.me ∧ (t.me).seed = (s.me).seed) ∧
  (∀ mk ∈ [Instr.cmp, .plog], ∀ (f : RF) (s t : State), exec (mk f) s = .next t →
      OnlyStrand s t ∧ SameMemory s t ∧ SameS s.me t.me [] ∧ SameP s.me t.me [f.dst.toNat] ∧ SameM s.me t.me [] ∧
      SameV s.me t.me [] ∧ SameIdentity s.me t.me) ∧
  (∀ (f : RF) (s t : State), exec (.pmov f) s = .next t →
      OnlyStrand s t ∧ SameMemory s t ∧ SameM s.me t.me [] ∧ SameV s.me t.me [] ∧ SameIdentity s.me t.me ∧
      (f.sub = 0 ∨ f.sub = 3 → SameS s.me t.me [f.dst.toNat] ∧ SameP s.me t.me []) ∧
      (f.sub = 1 → SameS s.me t.me [] ∧ (t.me).getP 0 = (s.me).getP 0) ∧
      (f.sub = 2 → SameS s.me t.me [] ∧ SameP s.me t.me [f.dst.toNat])) ∧
  (∀ (f : IF) (s t : State), exec (.cmpi f) s = .next t →
      OnlyStrand s t ∧ SameMemory s t ∧ SameS s.me t.me [] ∧ SameP s.me t.me [f.dst.toNat] ∧ SameM s.me t.me [] ∧
      SameV s.me t.me [] ∧ SameIdentity s.me t.me ∧ (t.me).seed = (s.me).seed) ∧
  (∀ (b : BF) (s t : State), exec (.br b) s = .next t → OnlyStrand s t ∧ SameMemory s t ∧ SameS s.me t.me [] ∧
    SameP s.me t.me [] ∧ SameM s.me t.me [] ∧ SameV s.me t.me [] ∧ SameIdentity s.me t.me) ∧
  (∀ (b : BF) (s t : State), exec (.call b) s = .next t → OnlyStrand s t ∧ SameMemory s t ∧ SameS s.me t.me [63] ∧
    SameP s.me t.me [] ∧ SameM s.me t.me [] ∧ SameV s.me t.me [] ∧ SameIdentity s.me t.me) ∧
  (∀ mk ∈ [Instr.brr, .ret, .callr, .yield, .waitt], ∀ (f : RF) (s t : State), exec (mk f) s = .next t →
    OnlyStrand s t ∧ SameMemory s t ∧ (mk f ≠ .callr f → SameS s.me t.me []) ∧ SameS s.me t.me [63] ∧
    SameP s.me t.me [] ∧ SameM s.me t.me [] ∧ SameV s.me t.me [] ∧ SameIdentity s.me t.me) ∧
  (∀ mk ∈ [Instr.loop, .dbnz], ∀ (f : IF) (s t : State), exec (mk f) s = .next t →
    OnlyStrand s t ∧ SameMemory s t ∧ SameS s.me t.me [f.dst.toNat] ∧
    SameP s.me t.me [] ∧ SameM s.me t.me [] ∧ SameV s.me t.me [] ∧ SameIdentity s.me t.me) ∧
  (∀ (f : IF) (s t : State), exec (.prio f) s = .next t → OnlyStrand s t ∧ SameMemory s t ∧ SameS s.me t.me [] ∧
    SameP s.me t.me [] ∧ SameM s.me t.me [] ∧ SameV s.me t.me [] ∧ SameIdentity { s.me with prio := (t.me).prio } t.me) ∧
  (∀ (f : RF) (s t : State), exec (.exit f) s = .next t →
    t = { s with reels := t.reels, walks := t.walks, ctxs := t.ctxs, fields := t.fields, held := t.held } ∧ SameMemory s t ∧
    (∀ r, r ≠ s.cur → t.slot r = s.slot r) ∧ (∀ n, t.reel n = { s.reel n with slots := (t.reel n).slots }) ∧ OnlyRecords s t ∧
    (∀ w ∈ s.walks, w.who ≠ .strand s.cur → w ∈ t.walks) ∧
    ((t.me).phase = .draining → SameS s.me t.me [] ∧ SameIdentity s.me t.me)) ∧
  (∀ (f : RF) (s t : State), exec (.waitq f) s = .next t →
    t = { s with reels := t.reels, ctxs := t.ctxs, fields := t.fields, held := t.held } ∧ SameMemory s t ∧
    (∀ r, r ≠ s.cur → t.slot r = s.slot r) ∧ (∀ n, t.reel n = { s.reel n with slots := (t.reel n).slots, l1 := (t.reel n).l1 }) ∧
    (∀ n, n ≠ s.cur.reel → t.reel n = s.reel n) ∧ OnlyRecords s t ∧ SameS s.me t.me [f.dst.toNat] ∧ SameP s.me t.me [] ∧
    SameM s.me t.me [] ∧ SameV s.me t.me [] ∧ SameIdentity { s.me with toks := (t.me).toks } t.me) ∧
  (∀ (f : RF) (s t : State), exec (.spawn f) s = .next t →
    t = { s with reels := t.reels, reqs := t.reqs, nextId := t.nextId, spawns := t.spawns, ctxs := t.ctxs, fields := t.fields
                 held := t.held } ∧ SameMemory s t ∧
    (∀ r, r ≠ s.cur → t.slot r = s.slot r) ∧ (∀ n, t.reel n = { s.reel n with slots := (t.reel n).slots, l1 := (t.reel n).l1 }) ∧
    (∀ n, n ≠ s.cur.reel → t.reel n = s.reel n) ∧ OnlyRecords s t ∧ (∀ q ∈ s.spawns, q ∈ t.spawns) ∧
    SameS s.me t.me [f.dst.toNat] ∧ SameP s.me t.me [] ∧ SameM s.me t.me [] ∧ SameV s.me t.me [] ∧
    SameIdentity { s.me with toks := (t.me).toks, spawns := (t.me).spawns } t.me)

/-! ## Transfers and loops -/

/-- R106, R209, R210: every transfer and loop completes with the pc and the registers its row gives. CALLR reads its target
before it writes s63; LOOP and DBNZ write their counter, and LOOP's bound is the value before that write. -/
def Obligations.Transfers : Prop :=
  ∀ (b : BF) (f : RF) (h : IF) (s : State),
    let pc := (s.me).pc
    let near (off : BitVec 32) : Word := pc + 8 * off.signExtend 64
    let x := s.rs f.sa
    let n := s.rs h.dst
    let m := s.rs h.sa
    (issues (.br b) s = true → exec (.br b) s = .next ((s.retire (.br b)).setPc (near b.off))) ∧
    (issues (.brr f) s = true → x.psn = false → x.val &&& 7 = 0 →
      exec (.brr f) s = .next ((s.retire (.brr f)).setPc x.val)) ∧
    (issues (.call b) s = true →
      exec (.call b) s = .next (((s.retire (.call b)).setRs 63 (SReg.clean (pc + 8))).setPc (near b.off))) ∧
    (issues (.callr f) s = true → x.psn = false → x.val &&& 7 = 0 →
      exec (.callr f) s = .next (((s.retire (.callr f)).setRs 63 (SReg.clean (pc + 8))).setPc x.val)) ∧
    (issues (.ret f) s = true → (s.rs 63).psn = false → (s.rs 63).val &&& 7 = 0 →
      exec (.ret f) s = .next ((s.retire (.ret f)).setPc (s.rs 63).val)) ∧
    (issues (.loop h) s = true → n.psn = false → m.psn = false → ∃ t, exec (.loop h) s = .next t ∧
      (h.dst ≠ 0 → (t.me).getS h.dst.toNat = SReg.clean (n.val + 1)) ∧
      (t.me).pc = (if (n.val + 1).toNat < m.val.toNat then near h.imm else pc + 8)) ∧
    (issues (.dbnz h) s = true → n.psn = false → ∃ t, exec (.dbnz h) s = .next t ∧
      (h.dst ≠ 0 → (t.me).getS h.dst.toNat = SReg.clean (n.val - 1)) ∧
      (t.me).pc = (if n.val = 1 then pc + 8 else near h.imm))

/-- R209, R210, R212: where transfers and loops trap instead. A poisoned guard of any of them raises POISON with its code; a
poisoned target register, counter or bound does (the counter first); else a target whose bits 2:0 are not zero raises
MISALIGN at that address. They write nothing and the pc stays (FaultEntry). -/
def Obligations.TransferTraps : Prop :=
  ∀ (f : RF) (h : IF) (s : State) (c : Code),
    let x := s.rs f.sa
    let n := s.rs h.dst
    let m := s.rs h.sa
    (∀ i : Instr, guardConsumed i = true → i.wf = true → rankOf i ≤ (s.me).mode.rank → s.gcode (guardOf i) = some c →
      exec i s = faults i s (poisonTrap c)) ∧
    (∀ mk ∈ [Instr.brr, .callr], issues (mk f) s = true →
      (x.code = some c → exec (mk f) s = faults (mk f) s (poisonTrap c)) ∧
      (x.psn = false → x.val &&& 7 ≠ 0 → exec (mk f) s = faults (mk f) s { cls := clsMisalign, addr := x.val })) ∧
    (issues (.ret f) s = true →
      ((s.rs 63).code = some c → exec (.ret f) s = faults (.ret f) s (poisonTrap c)) ∧
      ((s.rs 63).psn = false → (s.rs 63).val &&& 7 ≠ 0 →
        exec (.ret f) s = faults (.ret f) s { cls := clsMisalign, addr := (s.rs 63).val })) ∧
    (issues (.loop h) s = true →
      (n.code = some c → exec (.loop h) s = faults (.loop h) s (poisonTrap c)) ∧
      (n.psn = false → m.code = some c → exec (.loop h) s = faults (.loop h) s (poisonTrap c))) ∧
    (issues (.dbnz h) s = true → n.code = some c → exec (.dbnz h) s = faults (.dbnz h) s (poisonTrap c))

/-! ## Strand control -/

/-- R30, R31, R214, R215, R220, R221, R222: EXIT leaves its slot DRAINING, every vector register dead, or FREE at once where
nothing it issued is owed; YIELD is not ready in the next cycle; WAITT, once its token is written, only advances; PRIO
sets the level, clamped to the top of the band (R23); TIME reads the time counter; STRID its three words, .pos within the
partition that holds the reel. That TIME gives the counter with no difference between readers, where R39 lets them differ by up
to two ticks, is the model's choice (log entry 76). -/
def Obligations.StrandControl : Prop :=
  ∀ (f : RF) (h : IF) (s : State) (p : Partition),
    let g := s.gcode f.grd
    let top := match (s.me).mode with
      | .user => min (s.ctx (s.me).ctx).ceil 19
      | .supervisor => 21
      | .device => 23
    let r := s.cur.reel
    (issues (.exit f) s = true → ∃ t, exec (.exit f) s = .next t ∧
      ((s.me).owed = 0 → (s.me).spawns = 0 → (t.me).phase = .free) ∧
      ((s.me).owed ≠ 0 ∨ (s.me).spawns ≠ 0 → (t.me).phase = .draining ∧ (t.me).live = 0)) ∧
    (issues (.yield f) s = true → exec (.yield f) s =
      .next ((s.retire (.yield f)).modMe fun t => { t with yieldUntil := s.now + 2 })) ∧
    (issues (.waitt f) s = true → exec (.waitt f) s = .next (s.retire (.waitt f))) ∧
    (issues (.prio h) s = true → h.sub = 0 → exec (.prio h) s =
      .next ((s.retire (.prio h)).modMe fun t => { t with prio := min (bitsOf h.imm 0 5) top })) ∧
    (issues (.prio h) s = true → h.sub = 1 → (s.rs h.sa).psn = false → exec (.prio h) s =
      .next ((s.retire (.prio h)).modMe fun t => { t with prio := min (s.rs h.sa).val.toNat top })) ∧
    (issues (.time f) s = true → exec (.time f) s = scalarDone (.time f) s f.dst [g] (Sys2Proof.word s.tick)) ∧
    (issues (.strid f) s = true → f.sub = 1 →
      exec (.strid f) s = scalarDone (.strid f) s f.dst [g] (Sys2Proof.word (s.me).handle)) ∧
    (issues (.strid f) s = true → f.sub = 2 →
      exec (.strid f) s = scalarDone (.strid f) s f.dst [g] (Sys2Proof.word (s.me).part)) ∧
    (issues (.strid f) s = true → f.sub = 0 → s.partOfReel? r = some p → exec (.strid f) s =
      scalarDone (.strid f) s f.dst [g] (Sys2Proof.word (p.bx r + p.by_ r * 2 ^ 16 + s.cur.slot * 2 ^ 32 + (s.me).prio * 2 ^ 35 +
        (s.me).mode.rank * 2 ^ 40 + p.w * 2 ^ 48 + p.h * 2 ^ 52)))

/-- R216, R217, R233: WAITQ and IDLE. With clean operands they issue; where the counter (EVSUM for IDLE) differs from the
value seen, or WAITQ's timeout is 0, the wait ends at once: the destination takes the counter and the pc moves on;
otherwise the strand waits with its pc at the instruction and its deadline. -/
def Obligations.EventWaits : Prop :=
  ∀ (f : RF) (h : SF) (s : State),
    let k := bitsOf (s.rs f.sa).val 0 5
    let seen := (s.rs f.sb).val
    let lim := (s.rs f.sc).val
    let now := s.ev (s.me).ctx k
    let sum := s.evSum (s.me).ctx
    (issues (.waitq f) s = true → (s.rs f.sa).psn = false → (s.rs f.sb).psn = false → (s.rs f.sc).psn = false →
      (now ≠ seen ∨ lim = 0 → ∃ t, exec (.waitq f) s = .next t ∧ (t.me).pc = (s.me).pc + 8 ∧ (t.me).wait = .none ∧
        (f.dst ≠ 0 → (t.me).getS f.dst.toNat = tainted (s.gcode f.grd) now)) ∧
      (now = seen → lim ≠ 0 → s.gcode f.grd = none → ∃ t, exec (.waitq f) s = .next t ∧ (t.me).pc = (s.me).pc ∧
        (t.me).wait = .waitq k seen (if lim = 0xFFFF_FFFF_FFFF_FFFF then none else some (s.tick + lim.toNat)) f.dst.toNat)) ∧
    (issues (.idle h) s = true → (s.rs h.sa).psn = false →
      (sum ≠ (s.rs h.sa).val → ∃ t, exec (.idle h) s = .next t ∧ (t.me).pc = (s.me).pc + 8 ∧ (t.me).wait = .none ∧
        (h.dst ≠ 0 → (t.me).getS h.dst.toNat = tainted (s.gcode h.grd) sum)) ∧
      (sum = (s.rs h.sa).val → s.gcode h.grd = none → ∃ t, exec (.idle h) s = .next t ∧ (t.me).pc = (s.me).pc ∧
        (t.me).wait = .idle (s.rs h.sa).val h.dst.toNat))

/-- R28, R219: a SPAWN to an aligned entry and a block of the caller's partition issues: its destination waits for the
answer, and the request carries target, entry, requested priority, argument, context, mode and task. An entry whose bits
2:0 are not zero raises MISALIGN; a block outside the partition PRIV; a poisoned descriptor or entry POISON first. -/
def Obligations.SpawnIssues : Prop :=
  ∀ (f : RF) (s : State) (p : Partition),
    let d := s.rs f.sa
    let e := s.rs f.sb
    let bx := bitsOf d.val 0 16
    let by_ := bitsOf d.val 16 16
    issues (.spawn f) s = true →
    (d.psn = false → e.psn = false → e.val &&& 7 = 0 → s.myPart? = some p → bx < 11 * p.w → by_ < 11 * p.h →
      ∃ (t : State) (q : Spawn), exec (.spawn f) s = .next t ∧ t.spawns = s.spawns ++ [q] ∧ q.target = p.reel bx by_ ∧
        q.entry = e.val ∧ q.prio = bitsOf d.val 32 8 ∧ q.arg = s.rs f.sc ∧ q.ctx = (s.me).ctx ∧ q.mode = (s.me).mode ∧
        q.task = (s.me).task ∧ q.part = p.handle ∧ q.dst = f.dst.toNat ∧ (t.me).pc = (s.me).pc + 8 ∧
        (f.dst ≠ 0 → s.gcode f.grd = none → (.s f.dst.toNat, q.id) ∈ (t.me).pend)) ∧
    (∀ c, d.code = some c → exec (.spawn f) s = faults (.spawn f) s (poisonTrap c)) ∧
    (∀ c, d.psn = false → e.code = some c → exec (.spawn f) s = faults (.spawn f) s (poisonTrap c)) ∧
    (d.psn = false → e.psn = false → e.val &&& 7 ≠ 0 →
      exec (.spawn f) s = faults (.spawn f) s { cls := clsMisalign, addr := e.val }) ∧
    (d.psn = false → e.psn = false → e.val &&& 7 = 0 → s.myPart? = some p → 11 * p.w ≤ bx ∨ 11 * p.h ≤ by_ →
      exec (.spawn f) s = faults (.spawn f) s { cls := clsPriv })

/-! ## Loads, stores, the local store -/

/-- R104, R237, R239, R240, R243: a load whose pages translate, aligned where it is an acquire, completes by sending its read
(or taking it from L1: LoadHit, AccessSends), whole, with its type, scope and order; LDACQ is an acquire of the stronger
order among LDACQ and STREL. -/
def Obligations.LoadsIssue : Prop :=
  ∀ (f : MF) (s : State) (l : List (Nat × Nat × Word)),
    let w := f.ty.bits / 8
    let a : Acc := { op := .read (f.cache != 2), ty := f.ty, units := unitsOf ((eaOf s f).toNat % w == 0) 0 l
                     scope := f.scope.toNat, dst := .s f.dst.toNat, ef := f.cache == 1 }
    reaches s f .read w l →
    (issues (.ld f) s = true → (f.ord = 1 → (eaOf s f).toNat % w = 0) →
      exec (.ld f) s = .next ((s.retire (.ld f)).access { a with acq := f.ord == 1 })) ∧
    (issues (.ldacq f) s = true → (eaOf s f).toNat % w = 0 →
      exec (.ldacq f) s = .next ((s.retire (.ldacq f)).access { a with acq := true, sync := true }))

/-- R237, R240 to R243: a store of clean data to pages that are no KV pages completes by performing its write in L1 or sending
it, in one piece; STREL is a release. -/
def Obligations.StoresIssue : Prop :=
  ∀ (f : MF) (s : State) (l : List (Nat × Nat × Word)),
    let w := f.ty.bits / 8
    let a : Acc := { op := .write (f.cache != 2), ty := f.ty, units := unitsOf ((eaOf s f).toNat % w == 0) 0 l
                     data := (s.rs f.dst).val.zeroExtend 2048, scope := f.scope.toNat, ef := f.cache == 1 }
    reaches s f .write w l → (s.rs f.dst).psn = false → (∀ x ∈ l, pteKv x.2.2 = false) →
    (issues (.st f) s = true → (f.ord = 2 → (eaOf s f).toNat % w = 0) →
      exec (.st f) s = .next ((s.retire (.st f)).access { a with rel := f.ord == 2 })) ∧
    (issues (.strel f) s = true → (eaOf s f).toNat % w = 0 →
      exec (.strel f) s = .next ((s.retire (.strel f)).access { a with rel := true, sync := true }))

/-- R46, R158, R242, R288: a store to a KV page is first judged at its home: it issues, its pc moves on and nothing else of the
strand does, its write travels as one request with no effect yet, and the strand issues nothing before the judgement. The home
refuses it, naming the page and writing nothing, or performs it. Once the judgement is there, the strand goes on where the page
allowed the store, and else faults with KVFORMAT at the store itself: the record's address is the one that the store gave for
the page that the home refused, and what was to follow the store is not sent. -/
def Obligations.KvStores : Prop :=
  (∀ (f : MF) (s : State) (x : Nat × Nat × Word),
    reaches s f .write (f.ty.bits / 8) [x] → (s.rs f.dst).psn = false → pteKv x.2.2 = true → issues (.st f) s = true → f.ord = 0 →
    let us := unitsOf ((eaOf s f).toNat % (f.ty.bits / 8) == 0) 0 [x]
    ∃ (t : State) (k : KvHold) (q : Req), exec (.st f) s = .next t ∧
      t.me = { s.me with pc := (s.me).pc + 8, readyTick := s.tick, kvHold := some k } ∧ q ∈ t.reqs ∧
      k.pc = (s.me).pc ∧ k.ids = [q.id] ∧ k.rest = [] ∧ k.word = wordOf (.st f) ∧
      k.vas = ((us.map fun u => u.pa / 65536).eraseDups.map fun p => (p, eaOf s f)) ∧ q.op = .write (f.cache != 2) ∧ q.stage = .sent ∧
      q.units = us ∧ q.data = (s.rs f.dst).val.zeroExtend 2048 ∧ q.handle = (s.me).handle ∧ OnlySent s t ∧ SameMemory s t) ∧
  (∀ (s : State) (q : Req) (al : Bool) (p : Nat), s.req? q.id = some q → q.op = .write al → q.stage = .sent →
    q.left = q.units → s.reqHeld q = false → s.mustFlush q = false → s.kvRefusal? q = some p →
    ∃ t, exec (.homeRequest q.id) s = .next t ∧ SameMemory s t ∧
      ∃ q' ∈ t.reqs, q'.id = q.id ∧ q'.stage = .applied ∧ q'.refused = true ∧ q'.reply = BitVec.ofNat 2048 p) ∧
  (∀ (s : State) (r : StrandRef) (k : KvHold) (i : Instr),
    let s := { s with cur := r }
    let t := s.slot r
    let group := s.reqs.filter fun q => k.ids.contains q.id
    let u := s.kvSettle r
    t.phase = .live → t.wait = .none → t.kvHold = some k → decode k.word = .ok i →
    s.look r = (none, u) ∧
    ((∃ q ∈ group, q.stage = .sent) → u = s) ∧
    ((∀ q ∈ group, q.stage ≠ .sent ∧ q.refused = false) → (u.slot r).pc = t.pc ∧ (u.slot r).kvHold = none ∧ (u.slot r).phase = .live ∧
      SameS t (u.slot r) [] ∧ SameP t (u.slot r) [] ∧ SameM t (u.slot r) [] ∧ SameV t (u.slot r) (usesOf i).kills) ∧
    ((∀ q ∈ group, q.stage ≠ .sent) → ∀ q, (group.find? fun q => q.refused) = some q →
      u = ((s.dropReqs k.rest).modSlot r fun t => { t with pc := k.pc, kvHold := none }).takeFault r
        { cls := clsKvformat, wrote := true, addr := ((k.vas.find? fun x => x.1 == q.reply.toNat).map fun x => x.2).getD 0 } k.word))

/-- R48, R136, R149, R240: a plain read whose units all lie in L1, with nothing of the reel before it, gives its register the
bytes L1 holds, widened under the type, with the latency of 8 cycles; what the strand's reel finds anywhere and all of memory
stay. Of several units (a misaligned load, R141) each may still take its bytes anew until the register is there, which a request
that the reel keeps until then stands for: whether, no rule says (the model's free choice, log entry 11). -/
def Obligations.LoadHit : Prop :=
  ∀ (s : State) (a : Acc) (fill : Bool) (n : Nat), a.op = .read fill → a.rel = false → s.hitsL1 a = true →
    s.orderOf a = [] → a.dst = .s n → n ≠ 0 → a.units ≠ [] →
    let t := s.access a
    let rep := replyOf (0, 0) a.units (s.reel s.cur.reel).l1Byte
    (rep.2 = 0 → (t.me).getS n = SReg.clean (widen a.ty (bitsOf rep.1 0 64))) ∧ (.s n, s.now + 8) ∈ (t.me).readyAt ∧
    (t.me).pend = (s.me).pend ∧ SameS s.me t.me [n] ∧ SameP s.me t.me [] ∧ SameM s.me t.me [] ∧ SameV s.me t.me [] ∧ OnlySent s t ∧
    SameSeen s t ∧ SameMemory s t ∧
    (t.reqs.length = s.reqs.length ∨ (2 ≤ a.units.length ∧ t.reqs.length = s.reqs.length + 1 ∧ ∃ q ∈ t.reqs, q.id = s.nextId ∧
      q.op = a.op ∧ q.units = a.units ∧ q.left = a.units ∧ q.dst = .s n ∧ q.stage = .applied ∧ q.hit = some (s.now + 8)))

/-- R46, R136, R140, R147, R149: any other read, and every atomic, is sent: the request carries what the access is, its
register waits for it, and an acquire holds later memory operations of the strand until it is performed (R148). -/
def Obligations.AccessSends : Prop :=
  (∀ (i : Instr) (s : State), accepted i s = true → isWord i = true → memOp i = true → (s.me).acqs ≠ [] →
    exec i s = .next { s with held := true }) ∧
  ∀ (s : State) (a : Acc) (n : Nat), a.dst = .s n → a.units ≠ [] →
    ((∃ o, a.op = .atomic o) ∨ ((∃ fill, a.op = .read fill) ∧ (s.hitsL1 a = false ∨ s.orderOf a ≠ []) ∧ a.rel = false)) →
    ∃ q ∈ (s.access a).reqs, q.op = a.op ∧ q.ty = a.ty ∧ q.units = a.units ∧ q.left = a.units ∧ q.data = a.data ∧ q.data2 = a.data2 ∧
      q.scope = a.scope ∧ q.acq = a.acq ∧ q.rel = a.rel ∧ q.dst = .s n ∧ q.stage = .sent ∧
      q.reel = s.cur.reel ∧ q.slot = s.cur.slot ∧ q.handle = (s.me).handle ∧ s.nextId ≤ q.id ∧ (n ≠ 0 → (.s n, q.id) ∈ ((s.access a).me).pend) ∧
      (a.acq = true → q.id ∈ ((s.access a).me).acqs) ∧ ((s.access a).me).pc = (s.me).pc

/-- R136, R140, R147: a plain store of at most 8 bytes of one sector with nothing of the reel before it is performed in the
reel's data L1: its bytes are there, dirty; every other byte that any reel sees, and all of memory at its homes, stays.
Said where L1 has room for the sector's line (R135) and no granule it touches is poisoned there or below (a partial write of
a poisoned granule is not kept, R395). -/
def Obligations.StoreHit : Prop :=
  ∀ (s : State) (a : Acc) (alloc fc : Bool) (pa w : Nat), a.op = .write alloc → a.rel = false → s.hitsL1 a = true → s.orderOf a = [] →
    a.units = [{ pa := pa, w := w, pos := 0, kv := false, fc := fc }] → 0 < w → w ≤ 8 → pa / 128 = (pa + w - 1) / 128 → a.dpsn = 0 →
    s.l1Room s.cur.reel (pa / 128) = s →
    (∀ x, pa ≤ x → x < pa + w →
      (s.lowerByte s.cur.reel (s.farHolds (fieldOfReel s.cur.reel) fc pa) (4 * (x / 4))).2 = none ∧
      ((s.reel s.cur.reel).sector (x / 128)).psn.getLsbD (x % 128 / 4) = false) →
    (∀ k, k < w → ((s.access a).reel s.cur.reel).l1Valid (pa + k) = true ∧ ((s.access a).reel s.cur.reel).l1Dirty (pa + k) = true ∧
      ((s.access a).reel s.cur.reel).l1Byte (pa + k) = (byteOf a.data k, none)) ∧
    (∀ x, x < pa ∨ pa + w ≤ x → ∀ r, ((s.access a).seen r x).1 = (s.seen r x).1) ∧
    SameMemory s (s.access a) ∧ (s.access a).me = s.me

/-- R136, R140, R239, R245 to R247, R255 to R262: issuing a load, a store, an atomic, a prefetch, a cache or fence operation,
WAITA, BARW, BARA or COLL changes no byte of memory at its home on any path: what they write there travels as a request
(HomePerforms). Scalar registers but s[DST] (no scalar register for a store, PREF, CLINE or FENCE), predicates, masks, vector
registers and what the strand is stay. Of the rest of the device, a load, a store or an atomic changes only the data L1 of the strand's reel and
what the reel has sent; PREF, CLINE, FENCE, WAITA and BARW that and copies in caches; BARA and COLL that and the configuration
unit of the partition. R237, R286, R288: what vector memory instructions leave alone, on every path. The bytes that strands of a
reel find, in its data L1 or below, stay under a load, an atomic, BARA and COLL; a store changes none but those of the translated
parts of its effective address, or of its enabled elements; a store, FENCE, CLINE, WAITA and BARW may take bytes out of L1, and
PREF fills a sector with what lies below it. -/
def Obligations.MemoryFrame : Prop :=
  ((∀ mk ∈ [Instr.ld, .ldacq, .st, .strel, .pref, .cline, .fence], ∀ (f : MF) (s t : State), exec (mk f) s = .next t →
    SameMemory s t ∧ SameS s.me t.me [f.dst.toNat] ∧ SameP s.me t.me [] ∧ SameM s.me t.me [] ∧ SameV s.me t.me [] ∧
    SameIdentity s.me t.me ∧ (mk f ≠ .ld f → mk f ≠ .ldacq f → SameS s.me t.me []) ∧
    ((mk f = .ld f ∨ mk f = .ldacq f) → OnlySent s t ∧ SameSeen s t) ∧
    ((mk f = .st f ∨ mk f = .strel f) → OnlySent s t ∧
      OnlyParts s t (s.xlParts .write (s.me).mode (pageParts (eaOf s f) (f.ty.bits / 8)))) ∧
    (mk f = .pref f → OnlyCached s t ∧ FilledOrGone s t) ∧
    ((mk f = .cline f ∨ mk f = .fence f) → OnlyCached s t ∧ ∀ r x, KeptOrGone s t r x)) ∧
  (∀ mk ∈ [Instr.waita, .barw], ∀ (f : AF) (s t : State), exec (mk f) s = .next t →
    SameMemory s t ∧ SameS s.me t.me [f.dst.toNat] ∧ SameP s.me t.me [] ∧ SameM s.me t.me [] ∧ SameV s.me t.me [] ∧
    SameIdentity s.me t.me ∧ OnlyCached s t ∧ ∀ r x, KeptOrGone s t r x) ∧
  (∀ mk ∈ [Instr.bara, .coll], ∀ (f : AF) (s t : State), exec (mk f) s = .next t →
    SameMemory s t ∧ SameS s.me t.me [f.dst.toNat] ∧ SameP s.me t.me [] ∧ SameM s.me t.me [] ∧ SameV s.me t.me [] ∧
    SameIdentity s.me t.me ∧ OnlyUnit s t ∧ SameSeen s t) ∧
  (∀ mk ∈ [Instr.aadd, .afadd, .amin, .amax, .aand, .aor, .axor, .axchg, .acas, .adcas, .amove, .aadd2],
    ∀ (f : AF) (s t : State), exec (mk f) s = .next t →
    SameMemory s t ∧ SameS s.me t.me [f.dst.toNat] ∧ SameP s.me t.me [] ∧ SameM s.me t.me [] ∧ SameV s.me t.me [] ∧
    SameIdentity s.me t.me ∧ OnlySent s t ∧ SameSeen s t)) ∧
  (∀ form, ∀ load ∈ [true, false], ∀ (f : MF) (s t : State),
    let i := if load then vecLoadOf form f else vecStoreOf form f
    exec i s = .next t →
    SameMemory s t ∧ SameS s.me t.me [] ∧ SameP s.me t.me [] ∧ SameM s.me t.me [] ∧
    SameV s.me t.me (vecNums (usesOf i).writes ++ (usesOf i).kills) ∧ SameIdentity s.me t.me ∧ OnlySent s t ∧
    if load then SameSeen s t else
      OnlyParts s t (s.xlParts .write (s.me).mode ((enabledElems s.me f).map fun k => (elemAddr s f form k, vecWidth f))))

/-- R57, R58, R244, R248: the local store. LDL gives its register the bytes at the offset, widened; STL makes the slabs it
writes live, stores the low bytes of its data and leaves every other byte of the store; SPKILL makes exactly the slabs of
its range dead. Said of STL where the granules it touches are not poisoned (R395). That LDL's register takes no poison of its
guard is the model's reading (log entry 17). -/
def Obligations.LocalStore : Prop :=
  ∀ (f : MF) (s : State),
    let ea := (eaOf s f).toNat
    let w := f.ty.bits / 8
    let x := s.reel s.cur.reel
    let n := (s.rs f.dst).val.toNat
    (s.rs f.base).psn = false → (s.rs f.idx).psn = false →
    (issues (.ldl f) s = true → ea % w = 0 → ea + w ≤ 0x80000 → (∀ k, ea ≤ k → k < ea + w → x.slabLive (k / 1024) = true) →
      (∀ g, x.lsPsn.get false g = false) → ∃ t, exec (.ldl f) s = .next t ∧ (t.me).pc = (s.me).pc + 8 ∧
        (f.dst ≠ 0 → (t.me).getS f.dst.toNat = SReg.clean (widen f.ty (natOfBytes ((upto w).map fun k => x.ls.get 0 (ea + k)))))) ∧
    (issues (.stl f) s = true → ea % w = 0 → ea + w ≤ 0x80000 → (s.rs f.dst).psn = false →
      (∀ g, x.lsPsn.get false g = false) → ∃ t, exec (.stl f) s = .next t ∧ (t.me).pc = (s.me).pc + 8 ∧
        (∀ k, k < w → (t.reel s.cur.reel).ls.get 0 (ea + k) = byteOf (s.rs f.dst).val k ∧
          (t.reel s.cur.reel).slabLive ((ea + k) / 1024) = true) ∧
        (∀ k, k < ea ∨ ea + w ≤ k → (t.reel s.cur.reel).ls.get 0 k = x.ls.get 0 k) ∧ SameMemory s t) ∧
    (issues (.spkill f) s = true → ea % 1024 = 0 → n % 1024 = 0 → ea + n ≤ 0x80000 → (s.rs f.dst).psn = false →
      ∃ t, exec (.spkill f) s = .next t ∧ (t.me).pc = (s.me).pc + 8 ∧
        (∀ k, k < 512 → (t.reel s.cur.reel).slabLive k = if ea ≤ 1024 * k ∧ 1024 * k < ea + n then false else x.slabLive k) ∧
        SameMemory s t)

/-- R57, R237, R240 to R244, R248, R249, R253 to R255, R257, R260: where the scalar memory instructions, atomics, WAITA and
barriers trap, in the order of R237. A poisoned address operand raises POISON before all else, BASE before IDX (and of SPKILL the
length after them; of an atomic ADDR before ADDR2; of WAITA ADDR, SB, SC; of BARA and BARW the barrier before count or phase); an
acquire, a release, a local-store access, an atomic or a WAITA that is not aligned MISALIGN, and so do locations of a two-address
atomic that overlap, by their virtual addresses or, once translated, by their physical ones; SPKILL an address or a length that
is no multiple of 1,024; a page that does not translate, a local-store range beyond 512 KiB and a two-address atomic on host
memory XLATE; a read of a dead slab DEADLS; BARA and BARW on a reel of no granted partition PRIV; poisoned store data, SB or SC
of an atomic, POISON after these; and an atomic on a KV page KVFORMAT last. Where several operands are poisoned which code is
taken (log entry 75), the XLATE sub-codes of the local store and of host memory (log entry 15) and FLAGS bit 0 of records that the
spec does not give (log entry 16) are the model's choice. -/
def Obligations.MemoryTraps : Prop :=
  (∀ (f : MF) (s : State) (c : Code),
    let ea := eaOf s f
    let w := f.ty.bits / 8
    let x := s.reel s.cur.reel
    let d := s.rs f.dst
    let n := d.val.toNat
    let addr := [(s.rs f.base).code, (s.rs f.idx).code].findSome? id
    let aligned := ea.toNat % w = 0
    let parts := pageParts ea w
    (∀ mk ∈ [Instr.ld, .st, .ldacq, .strel, .ldl, .stl, .cline, .spkill], issues (mk f) s = true → addr = some c →
      exec (mk f) s = faults (mk f) s (poisonTrap c)) ∧
    (addr = none →
      (issues (.ld f) s = true → f.ord = 1 → ¬ aligned → exec (.ld f) s = faults (.ld f) s { cls := 5, addr := ea }) ∧
      (issues (.st f) s = true → f.ord = 2 → ¬ aligned → exec (.st f) s = faults (.st f) s { cls := 5, wrote := true, addr := ea }) ∧
      (∀ mk ∈ [Instr.ldacq, .ldl], issues (mk f) s = true → ¬ aligned → exec (mk f) s = faults (mk f) s { cls := 5, addr := ea }) ∧
      (∀ mk ∈ [Instr.strel, .stl], issues (mk f) s = true → ¬ aligned →
        exec (mk f) s = faults (mk f) s { cls := 5, wrote := true, addr := ea }) ∧
      (issues (.ldl f) s = true → aligned → 0x80000 < ea.toNat + w → exec (.ldl f) s = faults (.ldl f) s { cls := 6, addr := ea }) ∧
      (issues (.stl f) s = true → aligned → 0x80000 < ea.toNat + w →
        exec (.stl f) s = faults (.stl f) s { cls := 6, wrote := true, addr := ea }) ∧
      (issues (.ldl f) s = true → aligned → ea.toNat + w ≤ 0x80000 → x.slabLive (ea.toNat / 1024) = false →
        exec (.ldl f) s = faults (.ldl f) s { cls := 4, addr := ea }) ∧
      (issues (.stl f) s = true → aligned → ea.toNat + w ≤ 0x80000 → d.code = some c →
        exec (.stl f) s = faults (.stl f) s { poisonTrap c with wrote := true, addr := ea }) ∧
      (issues (.spkill f) s = true → (d.code = some c → exec (.spkill f) s = faults (.spkill f) s (poisonTrap c)) ∧
        (d.psn = false → ea.toNat % 1024 ≠ 0 ∨ n % 1024 ≠ 0 → exec (.spkill f) s = faults (.spkill f) s { cls := 5, addr := ea }) ∧
        (d.psn = false → ea.toNat % 1024 = 0 → n % 1024 = 0 → n ≠ 0 → 0x80000 < ea.toNat + n →
          exec (.spkill f) s = faults (.spkill f) s { cls := 6, addr := ea })) ∧
      (∀ y, s.xlParts .read (s.me).mode parts = .fault y →
        (issues (.ld f) s = true → f.ord ≠ 1 ∨ aligned → exec (.ld f) s = faults (.ld f) s y) ∧
        (issues (.ldacq f) s = true → aligned → exec (.ldacq f) s = faults (.ldacq f) s y)) ∧
      (∀ y, s.xlParts .write (s.me).mode parts = .fault y →
        (issues (.st f) s = true → f.ord ≠ 2 ∨ aligned → exec (.st f) s = faults (.st f) s y) ∧
        (issues (.strel f) s = true → aligned → exec (.strel f) s = faults (.strel f) s y)) ∧
      (∀ y, issues (.cline f) s = true → s.translate s.cur.reel (s.me).ctx ea .read .supervisor = .fault y →
        exec (.cline f) s = faults (.cline f) s y) ∧
      (∀ l, s.xlParts .write (s.me).mode parts = .ok l → d.code = some c →
        (issues (.st f) s = true → f.ord ≠ 2 ∨ aligned →
          exec (.st f) s = faults (.st f) s { poisonTrap c with wrote := true, addr := ea }) ∧
        (issues (.strel f) s = true → aligned →
          exec (.strel f) s = faults (.strel f) s { poisonTrap c with wrote := true, addr := ea })))) ∧
  (∀ (s : State) (acc : Access) (m : Mode) (parts : List (Word × Nat)) (y : Trap),
    s.xlParts acc m parts = .fault y → y.cls = 6 ∧ y.wrote = (acc == .write) ∧ y.fetch = (acc == .fetch)) ∧
  (∀ (g : AF) (s : State) (c : Code), ∀ x ∈ [(Instr.aadd, false, false), (Instr.afadd, false, false), (Instr.amin, false, false),
      (Instr.amax, false, false), (Instr.aand, false, false), (Instr.aor, false, false), (Instr.axor, false, false),
      (Instr.axchg, false, false), (Instr.acas, false, true), (Instr.adcas, true, true), (Instr.amove, true, false),
      (Instr.aadd2, true, true)],
    let i := x.1 g
    let two := x.2.1
    let as_ := if two then [s.rs g.addr, s.rs g.addr2] else [s.rs g.addr]
    let w := atomBytes g.ty
    let v1 := (s.rs g.addr).val
    let data := [(s.rs g.sb).code, if x.2.2 then (s.rs g.sc).code else none].findSome? id
    let raises (t : Trap) : Prop := exec i s = faults i s t
    issues i s = true →
    ((as_.map (·.code)).findSome? id = some c → raises (poisonTrap c)) ∧
    ((as_.map (·.code)).findSome? id = none →
      (∀ v, ((as_.map (·.val)).find? fun v => v.toNat % w != 0) = some v → raises { cls := 5, wrote := true, addr := v }) ∧
      ((∀ a ∈ as_, a.val.toNat % w = 0) →
        (two = true → rangesMeet v1.toNat (s.rs g.addr2).val.toNat w = true → raises { cls := 5, wrote := true, addr := v1 }) ∧
        ((two = true → rangesMeet v1.toNat (s.rs g.addr2).val.toNat w = false) →
          (∀ y, s.xlParts .write (s.me).mode (as_.map fun a => (a.val, w)) = .fault y → raises y) ∧
          ∀ l, s.xlParts .write (s.me).mode (as_.map fun a => (a.val, w)) = .ok l →
            let meet := rangesMeet ((l.map (·.1)).getD 0 0) ((l.map (·.1)).getD 1 0) w
            (∀ z, two = true → ((l.zip as_).find? fun z => s.memKind? z.1.1 == some .host) = some z →
              raises (xlTrap 6 (pteSz z.1.2.2 + 1) .write z.2.val)) ∧
            ((two = true → ∀ y ∈ l, s.memKind? y.1 ≠ some .host) →
              (two = true → meet = true → raises { cls := 5, wrote := true, addr := v1 }) ∧
              ((two = true → meet = false) →
                (data = some c → raises { poisonTrap c with wrote := true, addr := v1 }) ∧
                (data = none → ∀ z, ((l.zip as_).find? fun z => pteKv z.1.2.2) = some z →
                  raises { cls := 8, wrote := true, addr := z.2.val }))))))) ∧
  (∀ (g : AF) (s : State) (c : Code),
    let va := (s.rs g.addr).val
    let w := atomBytes g.ty
    (issues (.waita g) s = true →
      let codes := [(s.rs g.addr).code, (s.rs g.sb).code, (s.rs g.sc).code].findSome? id
      (codes = some c → exec (.waita g) s = faults (.waita g) s (poisonTrap c)) ∧
      (codes = none → va.toNat % w ≠ 0 → exec (.waita g) s = faults (.waita g) s { cls := 5, addr := va }) ∧
      (codes = none → va.toNat % w = 0 → ∀ y, s.xlParts .read (s.me).mode [(va, w)] = .fault y →
        exec (.waita g) s = faults (.waita g) s y)) ∧
    ∀ mk ∈ [Instr.bara, .barw], issues (mk g) s = true →
      let codes := [(s.rs g.addr).code, (s.rs g.sb).code].findSome? id
      (codes = some c → exec (mk g) s = faults (mk g) s (poisonTrap c)) ∧
      (codes = none → s.myPart? = none → exec (mk g) s = faults (mk g) s { cls := clsPriv }))

/-- R245, R246, R247: PREF, CLINE and FENCE complete. PREF always does; CLINE .iinv takes the line from the instruction L1 and
leaves the data L1 as it is; the other forms, with nothing of the strand on its way to the line, leave no dirty byte of it
in L1, and .inv and .far no valid one; a FENCE only advances the pc and the orders it makes. R143, R149: while a FENCE.rel is
not performed, the writes that are performed as they issue, to the local store and the tile, are held. -/
def Obligations.CacheControl : Prop :=
  ∀ (f : MF) (s : State) (pa : Nat) (e : Word),
    let line := pa / 256
    (issues (.pref f) s = true → ∃ t, exec (.pref f) s = .next t ∧ (t.me).pc = (s.me).pc + 8 ∧ t.held = s.held ∧ SameMemory s t) ∧
    (issues (.fence f) s = true → ∃ t, exec (.fence f) s = .next t ∧ (t.me).pc = (s.me).pc + 8 ∧
      t.held = s.held ∧ SameMemory s t) ∧
    (issues (.cline f) s = true → (s.rs f.base).psn = false → (s.rs f.idx).psn = false →
      s.translate s.cur.reel (s.me).ctx (eaOf s f) .read .supervisor = .ok pa e →
      (f.dst = 2 → ∃ t, exec (.cline f) s = .next t ∧ (t.me).pc = (s.me).pc + 8 ∧
        (t.reel s.cur.reel).l1 = (s.reel s.cur.reel).l1 ∧
        ∀ k, k / 32 = line → ∀ z, (t.reel s.cur.reel).icache.get z k = z) ∧
      (f.dst ≠ 2 → (∀ q ∈ s.mine, q.stage = .sent → ∀ k ∈ q.sectors, k / 2 ≠ line) →
        ∃ t, exec (.cline f) s = .next t ∧ (t.me).pc = (s.me).pc + 8 ∧
          (∀ k, k / 2 = line → ((t.reel s.cur.reel).sector k).dirty = 0 ∧
            (f.dst = 1 ∨ f.dst = 3 → ((t.reel s.cur.reel).sector k).valid = 0)) ∧ SameMemory s t)) ∧
    (∀ i : Instr, writesHere i = true → accepted i s = true → (s.me).fences ≠ [] → exec i s = .next { s with held := true })

/-! ## Atomics, waits on memory, barriers, collectives -/

/-- R237, R249, R250 to R254: an atomic on clean, aligned addresses of pages that translate and are no KV pages, with clean
data, completes by sending its request, which awaits what its release awaits; the two-address forms on ranges that do not
overlap, in DRAM or field store. R250 to R253: the values of the atomics, `old` what the location holds and x, y their operands
of w bytes; AFADD gives the exact sum of both in the type, rounded once to nearest even. The two-address forms give both
locations at once, and what is returned. -/
def Obligations.AtomicsIssue : Prop :=
  (∀ (f : AF) (s : State) (l : List (Nat × Nat × Word)),
    let w := atomBytes f.ty
    let v1 := (s.rs f.addr).val
    let v2 := (s.rs f.addr2).val
    let sends (i : Instr) (opc : BitVec 8) : Host.Outcome State Fault Refusal :=
      .next ((s.retire i).access
        { op := .atomic opc, ty := f.ty, units := unitsOf true 0 l, data := (s.rs f.sb).val.zeroExtend 2048
          data2 := (s.rs f.sc).val.zeroExtend 2048, scope := f.scope.toNat, acq := f.ord == 1 || f.ord == 3
          rel := f.ord == 2 || f.ord == 3, dst := .s f.dst.toNat })
    (s.rs f.addr).psn = false → (s.rs f.sb).psn = false → v1.toNat % w = 0 →
    (∀ x ∈ l, pteKv x.2.2 = false) →
    (∀ z ∈ [(Instr.aadd, 0x50#8), (.afadd, 0x51), (.amin, 0x52), (.amax, 0x53), (.aand, 0x54), (.aor, 0x55), (.axor, 0x56),
        (.axchg, 0x57), (.acas, 0x58)], issues (z.1 f) s = true → (z.2 = 0x58#8 → (s.rs f.sc).psn = false) →
      s.xlParts .write (s.me).mode [(v1, w)] = .ok l → exec (z.1 f) s = sends (z.1 f) z.2) ∧
    (∀ z ∈ [(Instr.adcas, 0x59#8), (.amove, 0x5A), (.aadd2, 0x5B)], issues (z.1 f) s = true → (s.rs f.addr2).psn = false →
      (z.2 ≠ 0x5A#8 → (s.rs f.sc).psn = false) → v2.toNat % w = 0 → v1.toNat + w ≤ v2.toNat ∨ v2.toNat + w ≤ v1.toNat →
      s.xlParts .write (s.me).mode [(v1, w), (v2, w)] = .ok l →
      (∀ x y, l = [x, y] → x.1 + w ≤ y.1 ∨ y.1 + w ≤ x.1) → (∀ x ∈ l, s.memKind? x.1 ≠ some .host) →
      exec (z.1 f) s = sends (z.1 f) z.2)) ∧
  (∀ (t : Ty) (old o1 o2 x y : Nat),
    let w := 8 * atomBytes t
    atomNew 0x50 t old x y = some ((old + x) % 2 ^ w) ∧
    atomNew 0x51 t old x y = some (roundTo t.fmt .rne false 0 (sumF .rne [t.dec old, t.dec x])) ∧
    atomNew 0x52 t old x y = some (if intVal w t.isSigned x < intVal w t.isSigned old then x else old) ∧
    atomNew 0x53 t old x y = some (if intVal w t.isSigned old < intVal w t.isSigned x then x else old) ∧
    atomNew 0x54 t old x y = some (old &&& x) ∧ atomNew 0x55 t old x y = some (old ||| x) ∧
    atomNew 0x56 t old x y = some (old ^^^ x) ∧ atomNew 0x57 t old x y = some x ∧
    atomNew 0x58 t old x y = (if old = x then some y else none) ∧
    atomNew2 0x59 t o1 o2 x y = (if o1 = x % 2 ^ 32 ∧ o2 = x / 2 ^ 32 % 2 ^ 32 then some (y % 2 ^ 32, y / 2 ^ 32 % 2 ^ 32) else none,
      o2 * 2 ^ 32 + o1) ∧
    atomNew2 0x5A t o1 o2 x y = (some (x % 2 ^ w, o1), o1) ∧
    (atomNew2 0x5B t o1 o2 x y).1 = some ((o1 + x) % 2 ^ w, (o2 + y) % 2 ^ w) ∧
    (w = 32 → (atomNew2 0x5B t o1 o2 x y).2 = o2 * 2 ^ 32 + o1) ∧ (w ≠ 32 → (atomNew2 0x5B t o1 o2 x y).2 = o1))

/-- R139, R140, R142, R151, R250, R400: HOME_REQUEST. A write at field scope or wider that nothing holds is performed at its
home: memory takes its bytes there and keeps every other; an atomic on one location writes the value of its row and returns the
old one; in both the request says it is performed. Where the reel's L1 holds dirty bytes of its sectors, a write-back of those
goes first, and the request awaits it. A duplicate is not applied again. -/
def Obligations.HomePerforms : Prop :=
  ∀ (s : State) (q : Req) (u : Unit'), s.req? q.id = some q → q.units = [u] → 0 < u.w → u.w ≤ 8 → u.pos = 0 → q.kv = false →
    (∀ g, s.mpsn.get false g = false) → q.dpsn = 0 →
    (q.stage = .sent → s.reqHeld q = false → s.mustFlush q = true → ∃ t, exec (.homeRequest q.id) s = .next t ∧ SameMemory s t ∧
      t.mustFlush q = false ∧ ∃ q' ∈ t.reqs, q'.id = q.id ∧ q'.stage = .sent ∧ ∃ b ∈ t.reqs, b.op = .writeback ∧ b.stage = .sent ∧
        b.reel = q.reel ∧ b.id ∈ q'.after) ∧
    (q.stage = .sent → q.left = [u] → s.reqHeld q = false → s.mustFlush q = false →
      (∀ al, q.op = .write al → 2 ≤ q.scope → ∃ t, exec (.homeRequest q.id) s = .next t ∧
        (∀ k, k < u.w → t.memByte (u.pa + k) = (byteOf q.data k, none)) ∧
        (∀ a, a < u.pa ∨ u.pa + u.w ≤ a → t.memByte a = s.memByte a) ∧
        ∃ q' ∈ t.reqs, q'.id = q.id ∧ q'.stage = .applied) ∧
      (∀ opc, q.op = .atomic opc → u.w = atomBytes q.ty → ∃ t, exec (.homeRequest q.id) s = .next t ∧
        (∀ a, a < u.pa ∨ u.pa + u.w ≤ a → t.memByte a = s.memByte a) ∧
        (∀ v, atomNew opc q.ty (natOfBytes (plainBytes (s.memBytes u.pa u.w)))
            (bitsOf q.data 0 64 % 2 ^ (8 * atomBytes q.ty)) (bitsOf q.data2 0 64 % 2 ^ (8 * atomBytes q.ty)) = some v →
          ∀ k, k < u.w → t.memByte (u.pa + k) = (byteOf (BitVec.ofNat 64 v) k, none)) ∧
        ∃ q' ∈ t.reqs, q'.id = q.id ∧ q'.stage = .applied ∧ q'.rpsn = 0 ∧
          q'.reply = BitVec.ofNat 2048 (natOfBytes (plainBytes (s.memBytes u.pa u.w))))) ∧
    (q.stage ≠ .sent → ∃ t, exec (.homeRequest q.id) s = .next t ∧ SameMemory s t)

/-- R46, R240, R249, R254: LOAD_DATA_ARRIVAL. A performed request whose reply is clean, and whose reel's field is not gated (R450),
gives its scalar register the bytes, widened, and the register no longer waits; its strand keeps every other scalar. -/
def Obligations.DataArrives : Prop :=
  ∀ (s : State) (q : Req) (r : StrandRef) (n : Nat), s.req? q.id = some q → q.stage ≠ .sent → q.dst = .s n → n ≠ 0 →
    q.rpsn = 0 → s.reelRuns q.reel = true → s.slotOf? q.reel q.slot q.handle = some r → (.s n, q.id) ∈ (s.slot r).pend → s.judged q = false →
    ∃ t, exec (.loadDataArrival q.id) s = .next t ∧
      (t.slot r).getS n = SReg.clean (widen q.wideTy (bitsOf q.reply 0 64)) ∧
      SameS (s.slot r) (t.slot r) [n] ∧ (∀ x ∈ (t.slot r).pend, x.2 ≠ q.id) ∧ SameMemory s t

/-- R255, R258, R259, R400: WAITA, BARA and BARW complete. WAITA ends at once where the word (in L1 or at its point, clean)
differs from the value seen or the timeout is 0, and else waits with its pc; BARA with nothing to release and room for its
record at the configuration unit arrives at once: the first arrival sets the count, the one that reaches it closes the phase;
otherwise its request goes out and its destination waits for it; BARW ends at once on a phase that has closed. That these
results take no poison of their guard (log entry 17), and the unit's limit of records (log entry 116), are the model's reading. -/
def Obligations.WaitsAndBarriers : Prop :=
  ∀ (f : AF) (s : State) (p : Partition) (pa : Nat) (e : Word),
    let w := atomBytes f.ty
    let va := (s.rs f.addr).val
    let seen := (s.rs f.sb).val
    let lim := (s.rs f.sc).val
    let x := s.reel s.cur.reel
    let inL1 := f.scope.toNat < 2 ∧ pa < dramTop ∧ pteKv e = false
    let bs := (upto w).map fun i => if f.scope.toNat < 2 && decide (pa < dramTop) && !pteKv e then x.l1Byte (pa + i) else s.memByte (pa + i)
    let v := natOfBytes (plainBytes bs)
    let b := bitsOf (s.rs f.addr).val 0 6
    let y := p.barrier b
    let n := max 1 (bitsOf (s.rs f.sb).val 0 16)
    let full := if y.arrivals = 0 then n else y.expected
    (s.rs f.addr).psn = false → (s.rs f.sb).psn = false →
    (issues (.waita f) s = true → (s.rs f.sc).psn = false → va.toNat % w = 0 → pa % w = 0 → s.xlParts .read (s.me).mode [(va, w)] = .ok [(pa, w, e)] →
      (inL1 → ∀ i, i < w → x.l1Valid (pa + i) = true) → (¬ inL1 → pteKv e = true ∨ s.farHolds (fieldOfReel s.cur.reel) (pteFc e) pa = false) →
      (f.scope.toNat < 2 ∨ dramTop ≤ pa ∨ (x.sector (pa / 128)).dirty = 0) → s.overlaps s.cur.reel [pa / 128] = [] →
      s.readHeld (fieldOfReel s.cur.reel) pa = false → s.hostDown pa = false → s.busTesting pa = false →
      (pteKv e = true → s.kvClosed (pa / 65536) = false) → firstCode bs = none →
      (v ≠ seen.toNat % 2 ^ (8 * w) ∨ lim = 0 → ∃ t, exec (.waita f) s = .next t ∧ (t.me).pc = (s.me).pc + 8 ∧ (t.me).wait = .none ∧
        (f.dst ≠ 0 → (t.me).getS f.dst.toNat = SReg.clean (widen f.ty v))) ∧
      (v = seen.toNat % 2 ^ (8 * w) → lim ≠ 0 → ∃ t, exec (.waita f) s = .next t ∧ (t.me).pc = (s.me).pc ∧ (t.me).wait ≠ .none)) ∧
    let ready := (f.ord = 2 → (s.releaseDeps f.scope.toNat).1 = []) ∧ s.replayFull s.cur.reel (unitHome p.handle) = false
    (issues (.bara f) s = true → s.myPart? = some p → ¬ ready → ∃ (t : State) (q : Req), exec (.bara f) s = .next t ∧
      (t.me).pc = (s.me).pc + 8 ∧ q ∈ t.reqs ∧ q.op = .bara p.handle b (bitsOf (s.rs f.sb).val 0 16) ∧ q.stage = .sent ∧
      q.reel = s.cur.reel ∧ q.handle = (s.me).handle ∧ (f.dst ≠ 0 → (.s f.dst.toNat, q.id) ∈ (t.me).pend) ∧ t.parts = s.parts) ∧
    (issues (.bara f) s = true → s.myPart? = some p → s.partByHandle? p.handle = some p → ready →
      ∃ t, exec (.bara f) s = .next t ∧ (t.me).pc = (s.me).pc + 8 ∧
        (f.dst ≠ 0 → (t.me).getS f.dst.toNat =
          SReg.clean (Sys2Proof.word (y.phase.toNat + (if y.arrivals + 1 = full then 2 ^ 16 else 0)))) ∧
        (t.partByHandle? p.handle).map (fun z => z.barrier b) = some (if y.arrivals + 1 = full then
          { phase := y.phase + 1, arrivals := 0, expected := full } else { phase := y.phase, arrivals := y.arrivals + 1, expected := full })) ∧
    (issues (.barw f) s = true → s.myPart? = some p → s.partByHandle? p.handle = some p →
      let was := BitVec.ofNat 16 (bitsOf (s.rs f.sb).val 0 16)
      (y.phase ≠ was → ∃ t, exec (.barw f) s = .next t ∧ (t.me).pc = (s.me).pc + 8 ∧ (t.me).wait = .none ∧
        (f.dst ≠ 0 → (t.me).getS f.dst.toNat = SReg.clean (y.phase.zeroExtend 64))) ∧
      (y.phase = was → ∃ t, exec (.barw f) s = .next t ∧ (t.me).pc = (s.me).pc ∧ (t.me).wait ≠ .none))

/-- R192, R261, R262, R400: COLL contributes its value to the open round of its collective and its destination waits: at once
with nothing to release, no earlier contribution of its reel to the collective on its way and room for its record, and else as a request that carries the contribution. A poisoned descriptor
raises POISON; OP 3 ILLEGAL; a reel outside the extent, an extent outside its range, or no granted partition PRIV, in that
order. A poisoned contribution is carried. -/
def Obligations.Collectives : Prop :=
  ∀ (f : AF) (s : State) (p : Partition),
    let d := (s.rs f.addr).val
    let r := s.cur.reel
    let wx := bitsOf d 16 16
    let wy := bitsOf d 32 16
    issues (.coll f) s = true →
    (∀ c, (s.rs f.addr).code = some c → exec (.coll f) s = faults (.coll f) s (poisonTrap c)) ∧
    ((s.rs f.addr).psn = false → bitsOf d 4 2 = 3 → exec (.coll f) s = faults (.coll f) s { cls := clsIllegal }) ∧
    ((s.rs f.addr).psn = false → bitsOf d 4 2 ≠ 3 → s.myPart? = none → exec (.coll f) s = faults (.coll f) s { cls := clsPriv }) ∧
    ((s.rs f.addr).psn = false → bitsOf d 4 2 ≠ 3 → s.myPart? = some p →
      wx = 0 ∨ 11 * p.w < wx ∨ wy = 0 ∨ 11 * p.h < wy ∨ wx ≤ p.bx r ∨ wy ≤ p.by_ r →
      exec (.coll f) s = faults (.coll f) s { cls := clsPriv }) ∧
    ((s.rs f.addr).psn = false → bitsOf d 4 2 ≠ 3 → s.myPart? = some p → s.partByHandle? p.handle = some p → 0 < wx → wx ≤ 11 * p.w →
      0 < wy → wy ≤ 11 * p.h → p.bx r < wx → p.by_ r < wy →
      let ready := (2 ≤ f.ord.toNat → (s.releaseDeps f.scope.toNat).1 = []) ∧ s.replayFull r (unitHome p.handle) = false ∧
        s.earlierColls r p.handle (bitsOf d 0 4) = []
      ∃ (t : State) (c : Contrib), exec (.coll f) s = .next t ∧ (t.me).pc = (s.me).pc + 8 ∧
        (ready → (t.partByHandle? p.handle).map (·.colls) = some (p.colls ++ [c])) ∧
        (¬ ready → t.parts = s.parts ∧ ∃ q ∈ t.reqs, q.op = .coll p.handle c ∧ q.stage = .sent ∧ q.reel = r) ∧ c.id = bitsOf d 0 4 ∧ c.op = bitsOf d 4 2 ∧ c.wx = wx ∧
        c.wy = wy ∧ c.ty = f.ty ∧ c.val = (s.rs f.sb).val ∧ c.psn = (s.rs f.sb).code ∧ c.bx = p.bx r ∧ c.by_ = p.by_ r ∧
        c.round = (s.reel r).collRound.get 0 c.id ∧ (f.dst ≠ 0 → (.s f.dst.toNat, c.pendId) ∈ (t.me).pend))

/-! ## Vectors -/

/-- R44, R49, R264, R268 to R270, R273 (VMOV): the lane-by-lane instructions, on clean sources. Each enabled lane takes the
value of its row from lane j of its sources in the type's kind (floats by R75 and R78, where SAT has no effect on an f32 result,
with the draw of R76 under RND 5), the others stay, and the destination is live. -/
def Obligations.VectorLanes : Prop :=
  ∀ (f : RF) (s : State),
    let w := f.ty.lane
    let F := f.ty.isF
    let t := s.me
    let r := drawsOf t f w
    let a (j : Nat) : Nat := laneOf (t.getV f.sa.toNat).val w j
    let b (j : Nat) : Nat := laneOf (t.getV f.sb.toNat).val w j
    let c (j : Nat) : Nat := laneOf (t.getV f.sc.toNat).val w j
    let i (x : Nat) : Int := intVal w f.ty.isSigned x
    let d (x : Nat) : FVal := f.ty.dec x
    let int (v : Int) : Nat := intResult w f.ty.isSigned f.sat v
    let flt (j : Nat) (v : FVal) : Nat := roundTo f.ty.fmt f.rnd (f.sat && decide (f.ty ≠ .f32)) (r j) v
    let gives (x : Instr) (srcs : List (BitVec 6)) (v : Nat → Nat) : Prop :=
      issues x s = true → vecClean s f srcs → ∃ t', exec x s = .next t' ∧ LaneResult s t' f w v
    gives (.vadd f) [f.sa, f.sb] (fun j => if F then flt j (sumF f.rnd [d (a j), d (b j)]) else int (i (a j) + i (b j))) ∧
    gives (.vsub f) [f.sa, f.sb] (fun j => if F then flt j (sumF f.rnd [d (a j), (d (b j)).neg]) else int (i (a j) - i (b j))) ∧
    gives (.vmul f) [f.sa, f.sb] (fun j => if F then flt j (mulF (d (a j)) (d (b j))) else int (i (a j) * i (b j))) ∧
    gives (.vfma f) [f.sa, f.sb, f.sc] (fun j => if F then flt j (sumF f.rnd [mulF (d (a j)) (d (b j)), d (c j)])
      else int (i (a j) * i (b j) + i (c j))) ∧
    gives (.vmin f) [f.sa, f.sb] (fun j => minCode f.ty (a j) (b j)) ∧ gives (.vmax f) [f.sa, f.sb] (fun j => maxCode f.ty (a j) (b j)) ∧
    gives (.vclamp f) [f.sa, f.sb, f.sc] (fun j => minCode f.ty (maxCode f.ty (a j) (b j)) (c j)) ∧
    gives (.vabs f) [f.sa] (fun j => if F then if (d (a j)).isNan then f.ty.fmt.canon else a j % 2 ^ f.ty.fmt.sign
      else int ((i (a j)).natAbs : Int)) ∧
    gives (.vneg f) [f.sa] (fun j => if F then if (d (a j)).isNan then f.ty.fmt.canon else a j ^^^ 2 ^ f.ty.fmt.sign
      else int (-(i (a j)))) ∧
    gives (.vdiv f) [f.sa, f.sb] (fun j => flt j (divF (d (a j)) (d (b j)))) ∧ gives (.vsqrt f) [f.sa] (fun j => flt j (sqrtF (d (a j)))) ∧
    gives (.vrcp f) [f.sa] (fun j => specialOn rcpCode f.ty (a j)) ∧ gives (.vrsq f) [f.sa] (fun j => specialOn rsqCode f.ty (a j)) ∧
    gives (.vexp2 f) [f.sa] (fun j => specialOn exp2Code f.ty (a j)) ∧ gives (.vlog2 f) [f.sa] (fun j => specialOn log2Code f.ty (a j)) ∧
    gives (.vround f) [f.sa] (fun j => roundLane f (r j) (a j) 0 0) ∧
    gives (.vand f) [f.sa, f.sb] (fun j => a j &&& b j) ∧ gives (.vor f) [f.sa, f.sb] (fun j => a j ||| b j) ∧
    gives (.vxor f) [f.sa, f.sb] (fun j => a j ^^^ b j) ∧ gives (.vnot f) [f.sa] (fun j => 2 ^ w - 1 - a j) ∧
    gives (.vshl f) [f.sa, f.sb] (fun j => int (i (a j) * ((2 ^ b j : Nat) : Int))) ∧ gives (.vshr f) [f.sa, f.sb] (fun j => a j / 2 ^ b j) ∧
    gives (.vsar f) [f.sa, f.sb] (fun j => wrapNat w (signed w (a j) / ((2 ^ b j : Nat) : Int))) ∧
    gives (.vmulh f) [f.sa, f.sb] (fun j => wrapNat w (i (a j) * i (b j) / ((2 ^ w : Nat) : Int))) ∧
    gives (.vclz f) [f.sa] (fun j => w - (if a j = 0 then 0 else (a j).log2 + 1)) ∧
    gives (.vpopc f) [f.sa] (fun j => ((List.range w).filter fun k => (a j).testBit k).length) ∧
    gives (.vmov f) [f.sa] (fun j => a j)

/-- R271 to R276, R278, R279, R280 (equal widths): the other instructions that write lanes of one vector register, on clean
sources. A NaN's payload reaches no result of VSCAN, not even through its first enabled lane (R72). -/
def Obligations.VectorMoves : Prop :=
  ∀ (f : RF) (s : State),
    let w := f.ty.lane
    let n := lanesOf w
    let t := s.me
    let a (j : Nat) : Nat := laneOf (t.getV f.sa.toNat).val w j
    let b (j : Nat) : Nat := laneOf (t.getV f.sb.toNat).val w j
    let c (j : Nat) : Nat := laneOf (t.getV f.sc.toNat).val w j
    let x := s.rs f.sa
    let y := s.rs f.sb
    let m := mskOf t f
    let done (i : Instr) (p : State → Prop) : Prop := issues i s = true → ∃ t', exec i s = .next t' ∧ p t'
    (vecClean s f [f.sa, f.sb, f.sc] → f.ty.lane = 16 → done (.vacs f) fun t' => LaneResult s t' f 16 fun j => (acsLane f (a j) (b j) (c j)).1) ∧
    (vecClean s f [f.sa, f.sb] → f.low / 8 = 1 →
      done (.vcmp f) fun t' => LaneResult s t' f w fun j => if vcond f.ty (f.low % 8) (a j) (b j) then 2 ^ w - 1 else 0) ∧
    (vecClean s f [f.sa, f.sb] → (t.getM f.low).psn = false →
      done (.vsel f) fun t' => LaneResult s t' f w fun j => if (t.getM f.low).val.getLsbD (j * w / 32) then a j else b j) ∧
    (vecClean s f [] → x.psn = false → done (.vbcast f) fun t' => LaneResult s t' f w fun _ => x.val.toNat) ∧
    (vecClean s f [] → x.psn = false → y.psn = false →
      done (.viota f) fun t' => LaneResult s t' f w fun j => x.val.toNat + j * y.val.toNat) ∧
    (vecClean s f (if f.low = 1 then [f.sa, f.sb, f.sc] else [f.sa, f.sb]) → done (.vperm f) fun t' => LaneResult s t' f w fun j =>
      if b j < n then a (b j) else if f.low = 1 ∧ b j < 2 * n then c (b j - n) else 0) ∧
    (vecClean s f (if f.low < 4 then [f.sa, f.sb] else [f.sa]) → done (.vshuf f) fun t' => LaneResult s t' f w fun j =>
      match f.low with
      | 0 => if j % 2 = 0 then a (j / 2) else b (j / 2)
      | 1 => if j % 2 = 0 then a (n / 2 + j / 2) else b (n / 2 + j / 2)
      | 2 => if j < n / 2 then a (2 * j) else b (2 * (j - n / 2))
      | 3 => if j < n / 2 then a (2 * j + 1) else b (2 * (j - n / 2) + 1)
      | 4 => a (n - 1 - j)
      | _ => a (8 * (j % 8) + j / 8)) ∧
    (vecClean s f [f.sa] → done (.vscan f) fun t' => LaneResult s t' f w fun j =>
      ((scanFrom (fun j y x => redOp f (drawsOf t f w j) y x) 0 none ((enabledLanes w m (t.getV f.sa.toNat)).map fun o =>
        o.map fun v => if f.ty.isF then f.ty.fmt.noPayload v else v)).getD j 0)) ∧
    (vecClean s f [f.sa] → done (.vexpd f) fun t' => LaneResult s t' f 32 fun j =>
      laneOf (t.getV f.sa.toNat).val 32 ((List.range j).filter fun k => m.getLsbD k).length) ∧
    (vecClean s f [f.sa] → ∀ src, f.src = some src → src.lane = w → done (.vcvt f) fun t' => LaneResult s t' f w fun j =>
      convert f src (drawsOf t f w j) (a j))

/-- R72, R271, R272, R274, R277, R283, R284: the vector and mask instructions that write a mask register or a scalar. VEXT,
VRED, MPOPC, MFIRST and MMOV.sm give a scalar, poisoned by what they read; on clean sources, VCMP's mask form writes the enabled
bits of its mask, VACS its decisions, MLOG and MMOV a whole mask. -/
def Obligations.MaskResults : Prop :=
  ∀ (f : RF) (s : State),
    let w := f.ty.lane
    let t := s.me
    let g := s.gcode f.grd
    let va := t.getV f.sa.toNat
    let vb := t.getV f.sb.toNat
    let vc := t.getV f.sc.toNat
    let ma := t.getM f.sa.toNat
    let mb := t.getM f.sb.toNat
    let k := s.rs f.sb
    let m := mskOf t f
    let mask (i : Instr) (d : Nat) (v : Nat → Bool) : Prop := issues i s = true → ∃ t', exec i s = .next t' ∧
      (t'.me).pc = t.pc + 8 ∧ ((t'.me).getM d).psn = false ∧ ∀ j, j < 64 → ((t'.me).getM d).val.getLsbD j = v j
    (issues (.vext f) s = true → exec (.vext f) s = scalarDone (.vext f) s f.dst [g, va.firstCode, k.code]
      (if k.val.toNat < lanesOf w then if f.ty.isSigned then wordOfInt (signed w (laneOf va.val w k.val.toNat))
        else Sys2Proof.word (laneOf va.val w k.val.toNat) else 0)) ∧
    (issues (.vred f) s = true → f.ty.isF = false → exec (.vred f) s = scalarDone (.vred f) s f.dst
      [g, (t.getM f.msk).code, va.codeUnder m]
      (let v := (redTree (redOp f (drawsOf t f w 0)) (lanesOf w).log2 (enabledLanes w m va)).getD (redEmpty f)
       if f.ty.isSigned then wordOfInt (signed w v) else Sys2Proof.word v)) ∧
    (issues (.vred f) s = true → f.ty.isF = true → exec (.vred f) s = scalarDone (.vred f) s f.dst
      [g, (t.getM f.msk).code, va.codeUnder m]
      (Sys2Proof.word ((redTree (redOp f (drawsOf t f w 0)) (lanesOf w).log2
        ((enabledLanes w m va).map fun o => o.map fun v => roundTo fmtF32 .rne false 0 (f.ty.dec v))).getD (redEmpty f)))) ∧
    (issues (.mpopc f) s = true → exec (.mpopc f) s = scalarDone (.mpopc f) s f.dst [g, ma.code]
      (Sys2Proof.word ((List.range 64).filter fun j => ma.val.getLsbD j).length)) ∧
    (issues (.mfirst f) s = true → exec (.mfirst f) s = scalarDone (.mfirst f) s f.dst [g, ma.code]
      (Sys2Proof.word (if f.sub = 0 then ((List.range 64).find? fun j => ma.val.getLsbD j).getD 64
        else (((List.range 64).reverse.find? fun j => ma.val.getLsbD j).getD 64)))) ∧
    (issues (.mmov f) s = true → f.low % 8 = 2 → exec (.mmov f) s = scalarDone (.mmov f) s f.dst [g, ma.code] ma.val) ∧
    (g = none → f.dst ≠ 0 →
      (ma.psn = false → mb.psn = false → mask (.mlog f) f.dst.toNat fun j => f.sub.getLsbD (2 * bit (ma.val.getLsbD j) + bit (mb.val.getLsbD j))) ∧
      (f.low % 8 = 0 → ma.psn = false → mask (.mmov f) f.dst.toNat fun j => ma.val.getLsbD j) ∧
      (f.low % 8 = 1 → (s.rs f.sa).psn = false → mask (.mmov f) f.dst.toNat fun j => (s.rs f.sa).val.getLsbD j) ∧
      (f.low % 8 = 3 → va.psn = 0 → mask (.mmov f) f.dst.toNat fun j => (laneOf va.val w (64 * (f.low / 8) + j)).testBit (w - 1)) ∧
      (vecClean s f [f.sa, f.sb] → (t.getM f.dst.toNat).psn = false → f.low / 8 = 0 → mask (.vcmp f) f.dst.toNat fun j =>
        if m.getLsbD j then (List.range (32 / w)).all fun q => vcond f.ty (f.low % 8) (laneOf va.val w (32 / w * j + q)) (laneOf vb.val w (32 / w * j + q))
        else (t.getM f.dst.toNat).val.getLsbD j)) ∧
    (vecClean s f [f.sa, f.sb, f.sc] → f.low % 8 ≠ 0 → (t.getM (f.low % 8)).psn = false → mask (.vacs f) (f.low % 8) fun j =>
      let p := 64 * (f.low / 8 % 2) + j
      if m.getLsbD (p / 2) then (acsLane f (laneOf va.val 16 p) (laneOf vb.val 16 p) (laneOf vc.val 16 p)).2
      else (t.getM (f.low % 8)).val.getLsbD j)

/-- R273 (VINS), R279 (VCOMP), R280 to R282, R284 (.vxp): whole registers, single lanes and groups, on clean sources. Element k
of a group of registers is lane k mod L of register floor(k / L). VCOMP packs the selected lanes and zeroes the rest;
VCVT between widths, VQNT and VDQNT write every element, and VCVT's draw is that of the element's lane on the wider side (log
entry 19); VQNT's elements stand in bytes 0 to 127, its scales from byte 128,
and zeros follow. -/
def Obligations.VectorGroups : Prop :=
  ∀ (f : RF) (s : State),
    let w := f.ty.lane
    let t := s.me
    let va := t.getV f.sa.toNat
    let m := mskOf t f
    let x := s.rs f.sa
    let k := (s.rs f.sb).val.toNat
    let lane (u : State) (r w j : Nat) : Nat := laneOf ((u.me).getV r).val w j
    let done (i : Instr) (p : State → Prop) : Prop := issues i s = true → ∃ t', exec i s = .next t' ∧ (t'.me).pc = t.pc + 8 ∧ p t'
    let src := f.src.getD .none
    let ws := src.lane
    let g := max 1 (w / ws)
    let vs := sourceGroup t f.sa (max 1 (ws / w))
    (vecClean s f [f.dst] → x.psn = false → (s.rs f.sb).psn = false → done (.vins f) fun t' => (t'.me).isLive f.dst.toNat = true ∧
      ∀ j, j < lanesOf w → lane t' f.dst.toNat w j =
        if j = k ∧ m.getLsbD (k * w / 32) = true then x.val.toNat % 2 ^ w else lane s f.dst.toNat w j) ∧
    (vecClean s f [f.sa] → done (.vcomp f) fun t' => (t'.me).isLive f.dst.toNat = true ∧
      ∀ j, j < 64 → lane t' f.dst.toNat 32 j = ((((List.range 64).filter fun q => m.getLsbD q)[j]?).map fun q => laneOf va.val 32 q).getD 0) ∧
    (s.gcode f.grd = none → (∀ v ∈ vs, v.psn = 0) → ws ≠ w → done (.vcvt f) fun t' =>
      ∀ q j, q < g → j < lanesOf w → (t'.me).isLive (f.dst.toNat + q) = true ∧ lane t' (f.dst.toNat + q) w j =
        convert f src (drawsOf t f (max w ws) ((lanesOf w * q + j) % lanesOf (max w ws))) (groupElem vs ws (lanesOf w * q + j)) % 2 ^ w) ∧
    (s.gcode f.grd = none → (∀ v ∈ sourceGroup t f.sa (mxGroup f.ty (f.src.getD .f32)), v.psn = 0) → done (.vqnt f) fun t' =>
      let nb := if f.ty = .mx4 then 8 else 4
      let block (b : Nat) : Nat × List Nat :=
        mxQuantise f.ty ((upto 32).map fun i => src.dec (groupElem (sourceGroup t f.sa (mxGroup f.ty (f.src.getD .f32))) src.lane (32 * b + i)))
      (t'.me).isLive f.dst.toNat = true ∧
      (∀ j, j < 128 → lane t' f.dst.toNat 8 j = (if f.ty = .mx4
        then (block (j / 16)).2.getD (2 * j % 32) 0 + 16 * (block (j / 16)).2.getD (2 * j % 32 + 1) 0
        else (block (j / 32)).2.getD (j % 32) 0) % 256) ∧
      (∀ b, b < nb → lane t' f.dst.toNat 8 (128 + b) = (block b).1 % 256) ∧
      (∀ j, 128 + nb ≤ j → j < 256 → lane t' f.dst.toNat 8 j = 0)) ∧
    (s.gcode f.grd = none → va.psn = 0 → done (.vdqnt f) fun t' =>
      ∀ q j, q < mxGroup (f.src.getD .mx4) f.ty → j < lanesOf w → (t'.me).isLive (f.dst.toNat + q) = true ∧ lane t' (f.dst.toNat + q) w j =
        (let e := mxElem (f.src.getD .mx4) va (lanesOf w * q + j)
         roundTo f.ty.fmt f.rnd f.sat (drawsOf t f w j) (mxDequantise (f.src.getD .mx4) e.1 e.2) % 2 ^ w)) ∧
    (s.gcode f.grd = none → (t.getM f.sa.toNat).psn = false → f.low % 8 = 4 → done (.mmov f) fun t' => (t'.me).isLive f.dst.toNat = true ∧
      ∀ j, j < lanesOf w → lane t' f.dst.toNat w j = if 64 * (f.low / 8) ≤ j ∧ j < 64 * (f.low / 8) + 64
        then (if (t.getM f.sa.toNat).val.getLsbD (j - 64 * (f.low / 8)) then 2 ^ w - 1 else 0) else lane s f.dst.toNat w j)

/-- R266, R395, R396: poison, granule by granule, for every path. A destination granule of a lane-by-lane instruction (VSEL and
VACS's metrics among them) takes the first code in the order guard, MSK, a selector mask, then its own granules of A, B and C; a
granule that any other instruction writes takes the first code in that order of all it read, VRED, VSCAN, VCOMP and VEXPD of the
lanes they read; a granule that MSK keeps out keeps its own. A mask written in part stays poisoned where no new code comes. None
raises POISON: each goes on. The place of the selector mask in the order, and the lowest granule's code as that of a register
read whole, are the model's (log entry 75). That a mask written in part stays poisoned, and that a lane VSEL does not choose
poisons its granule, is log entry 18's reading. -/
def Obligations.VectorPoison : Prop :=
  ∀ (f : RF) (s : State),
    let t := s.me
    let w := f.ty.lane
    let m := mskOf t f
    let d := f.dst.toNat
    let va := t.getV f.sa.toNat
    let vb := t.getV f.sb.toNat
    let vc := t.getV f.sc.toNat
    let old := t.getV d
    let grd := s.gcode f.grd
    let heads := [grd, (t.getM f.msk).code]
    let goes (i : Instr) (p : Slot → Prop) : Prop := issues i s = true → ∃ t', exec i s = .next t' ∧ (t'.me).pc = t.pc + 8 ∧ p t'.me
    let each (i : Instr) (hd : List (Option Code)) (srcs : List (BitVec 6)) : Prop := goes i fun u => ∀ g, g < 64 →
      (u.getV d).code g = if m.getLsbD g then (hd ++ srcs.map fun r => (t.getV r.toNat).code g).findSome? id else old.code g
    let whole (i : Instr) (codes : List (Option Code)) : Prop := goes i fun u => ∀ g, g < 64 →
      (u.getV d).code g = if m.getLsbD g then codes.findSome? id else old.code g
    let group (i : Instr) (n : Nat) (codes : List (Option Code)) : Prop := goes i fun u => ∀ q g, q < n → g < 64 →
      (u.getV (d + q)).code g = codes.findSome? id
    let mask (r : Nat) (on : Nat → Bool) (codes : List (Option Code)) (u : Slot) : Prop :=
      (u.getM r).code = if (upto 64).all fun j => !on j then (t.getM r).code
        else match codes.findSome? id with
          | some c => some c
          | none => if (upto 64).all on then none else (t.getM r).code
    (∀ mk ∈ [Instr.vabs, .vneg, .vsqrt, .vrcp, .vrsq, .vexp2, .vlog2, .vround, .vnot, .vclz, .vpopc, .vmov], each (mk f) heads [f.sa]) ∧
    (∀ mk ∈ [Instr.vadd, .vsub, .vmul, .vmin, .vmax, .vdiv, .vand, .vor, .vxor, .vshl, .vshr, .vsar, .vmulh],
      each (mk f) heads [f.sa, f.sb]) ∧
    (∀ mk ∈ [Instr.vfma, .vclamp, .vacs], each (mk f) heads [f.sa, f.sb, f.sc]) ∧
    (f.low / 8 = 1 → each (.vcmp f) heads [f.sa, f.sb]) ∧
    each (.vsel f) (heads ++ [(t.getM f.low).code]) [f.sa, f.sb] ∧
    ((f.src.getD .none).lane = w → each (.vcvt f) heads [f.sa]) ∧
    whole (.vbcast f) (heads ++ [(s.rs f.sa).code]) ∧ whole (.viota f) (heads ++ [(s.rs f.sa).code, (s.rs f.sb).code]) ∧
    whole (.vperm f) (heads ++ [va.firstCode, vb.firstCode] ++ if f.low = 1 then [vc.firstCode] else []) ∧
    whole (.vshuf f) (heads ++ [va.firstCode] ++ if f.low < 4 then [vb.firstCode] else []) ∧
    whole (.vscan f) (heads ++ [va.codeUnder m]) ∧
    whole (.vexpd f) (heads ++ [va.codeUnder (maskBits 64 0 (popCount m))]) ∧
    group (.vcomp f) 1 (heads ++ [va.codeUnder m]) ∧
    ((f.src.getD .none).lane ≠ w → group (.vcvt f) (max 1 (w / (f.src.getD .none).lane))
      (grd :: (sourceGroup t f.sa (max 1 ((f.src.getD .none).lane / w))).map fun v => v.firstCode)) ∧
    group (.vqnt f) 1 (grd :: (sourceGroup t f.sa (mxGroup f.ty (f.src.getD .f32))).map fun v => v.firstCode) ∧
    group (.vdqnt f) (mxGroup (f.src.getD .mx4) f.ty) [grd, va.firstCode] ∧
    goes (.vins f) (fun u => ∀ g, g < 64 → (u.getV d).code g =
      let k := (s.rs f.sb).val.toNat
      if k < lanesOf w ∧ m.getLsbD (k * w / 32) = true ∧ g = k * w / 32 then
        match (heads ++ [(s.rs f.sa).code, (s.rs f.sb).code]).findSome? id with
        | some c => some c
        | none => if w < 32 then old.code g else none
      else old.code g) ∧
    goes (.vext f) (fun u => f.dst ≠ 0 → (u.getS d).code = [grd, va.firstCode, (s.rs f.sb).code].findSome? id) ∧
    goes (.vred f) (fun u => f.dst ≠ 0 → (u.getS d).code = (heads ++ [va.codeUnder m]).findSome? id) ∧
    (f.low / 8 ≠ 1 → d ≠ 0 → goes (.vcmp f) (mask d (fun j => m.getLsbD j) (heads ++ [va.firstCode, vb.firstCode]))) ∧
    (f.low % 8 ≠ 0 → goes (.vacs f) (mask (f.low % 8) (fun j => m.getLsbD ((64 * (f.low / 8 % 2) + j) / 2))
      (heads ++ [va.firstCode, vb.firstCode, vc.firstCode]))) ∧
    (d ≠ 0 → goes (.mlog f) (fun u => (u.getM d).code = [grd, (t.getM f.sa.toNat).code, (t.getM f.sb.toNat).code].findSome? id) ∧
      goes (.mpopc f) (fun u => (u.getS d).code = [grd, (t.getM f.sa.toNat).code].findSome? id) ∧
      goes (.mfirst f) (fun u => (u.getS d).code = [grd, (t.getM f.sa.toNat).code].findSome? id))

/-- R49, R263 to R284: what the vector and mask instructions leave alone, on every path: scalars, predicates and masks but a
destination of that kind, every vector register that is neither destination nor marked last use, and everything but the
strand. -/
def Obligations.VectorFrame : Prop :=
  ∀ mk ∈ [Instr.vadd, .vsub, .vmul, .vfma, .vmin, .vmax, .vabs, .vneg, .vdiv, .vsqrt, .vrcp, .vrsq, .vexp2, .vlog2, .vround, .vclamp,
      .vand, .vor, .vxor, .vnot, .vshl, .vshr, .vsar, .vmulh, .vclz, .vpopc, .vacs, .vcmp, .vsel, .vmov, .vbcast, .viota, .vins,
      .vext, .vperm, .vshuf, .vred, .vscan, .vcomp, .vexpd, .vcvt, .vqnt, .vdqnt, .mlog, .mpopc, .mfirst, .mmov],
    ∀ (f : RF) (s t : State), exec (mk f) s = .next t → (mk f).wf = true →
      OnlyStrand s t ∧ SameMemory s t ∧
      SameS s.me t.me ((usesOf (mk f)).writes.filterMap fun r => match r with | .s n => some n | _ => none) ∧ SameP s.me t.me [] ∧
      SameM s.me t.me ((usesOf (mk f)).writes.filterMap fun r => match r with | .m n => some n | _ => none) ∧
      SameV s.me t.me (vecNums (usesOf (mk f)).writes ++ (usesOf (mk f)).kills) ∧ SameIdentity s.me t.me

/-! ## Vector memory -/

/-- R48, R104, R141, R237, R285 to R288: vector memory. A poisoned address operand raises POISON, the first enabled element whose
address is no multiple of its width MISALIGN, an element that does not translate the fault of its walk, and the first enabled
element of a store whose data is poisoned POISON; one whose translation is not at hand holds the instruction while it is walked.
With every enabled element translated, a load completes: its register is live and its disabled elements keep their bytes. On
plain pages, where L1 holds every byte and nothing of the reel is on its way to them, its enabled elements are those bytes, with
the latency of 8 cycles; else one request with those elements goes out and the register waits for it. A store of clean elements to
plain pages completes and changes no memory at its home: it is performed in L1, of several elements so or as a request, which no
rule says (the model's free choice, log entry 11), or goes out as that request; the elements of one performed in L1 that do not
overlap are then there, where L1 has room for their lines and no granule they touch is poisoned there or below. A store that
touches a KV page issues, and the strand waits for the judgement. The order of the codes (log entry 75), ADDR and FLAGS bit 0 of
the record of a poisoned address operand (log entry 121) and FLAGS bit 2 of a record (log entry 16) are the model's choice. -/
def Obligations.VectorMemory : Prop :=
  ∀ (f : MF) (s : State) (form : AddrForm) (l : List (Nat × Nat × Word)),
    let load := vecLoadOf form f
    let store := vecStoreOf form f
    let w := vecWidth f
    let ks := enabledElems s.me f
    let vas := ks.map (elemAddr s f form)
    let parts := vas.map fun v => (v, w)
    let codes := vecAddrCodes s f form ks
    let d := (s.me).getV f.dst.toNat
    let us : List Unit' := (ks.zip l).map fun x =>
      { pa := x.2.1, w := w, pos := x.1 * w, kv := pteKv x.2.2.2, fc := pteFc x.2.2.2 }
    let plain := ∀ e ∈ l, pteKv e.2.2 = false
    let x := s.reel s.cur.reel
    let ra : Acc := { op := .read (f.cache != 2), units := us, dst := .v f.dst.toNat, ef := f.cache == 1 }
    let wa : Acc := { op := .write (f.cache != 2), units := us, data := d.val, ef := f.cache == 1 }
    let hits (a : Acc) : Prop := s.hitsL1 a = true ∧ s.orderOf a = []
    let sent (t : State) (a : Acc) (q : Req) : Prop := q ∈ t.reqs ∧ q.op = a.op ∧ q.units = us ∧ q.left = us ∧ q.data = a.data ∧
      q.dst = a.dst ∧ q.stage = .sent ∧ q.reel = s.cur.reel ∧ q.slot = s.cur.slot ∧ q.handle = (s.me).handle
    let goes (i : Instr) (t : State) : Prop := exec i s = .next t ∧ (t.me).pc = (s.me).pc + 8 ∧ t.held = s.held ∧ SameMemory s t
    let poisoned := (ks.zip vas).findSome? fun y => (d.code (y.1 * w / 4)).map fun c => (c, y.2)
    (∀ c, codes.findSome? id = some c → (issues load s = true → exec load s = faults load s (poisonTrap c)) ∧
      (issues store s = true → exec store s = faults store s (poisonTrap c))) ∧
    (codes.findSome? id = none → ∀ v, (vas.find? fun v => v.toNat % w != 0) = some v →
      (issues load s = true → exec load s = faults load s { cls := 5, addr := v }) ∧
      (issues store s = true → exec store s = faults store s { cls := 5, wrote := true, addr := v })) ∧
    (codes.findSome? id = none → (∀ v ∈ vas, v.toNat % w = 0) →
      (∀ y, (issues load s = true → s.xlParts .read (s.me).mode parts = .fault y → exec load s = faults load s y) ∧
        (issues store s = true → s.xlParts .write (s.me).mode parts = .fault y → exec store s = faults store s y)) ∧
      (∀ v, (issues load s = true → s.xlParts .read (s.me).mode parts = .miss v → ∃ t, exec load s = .next t ∧ t.held = true ∧
          (t.me).pc = (s.me).pc ∧ (t.me).walk.isSome = true) ∧
        (issues store s = true → s.xlParts .write (s.me).mode parts = .miss v → ∃ t, exec store s = .next t ∧ t.held = true ∧
          (t.me).pc = (s.me).pc ∧ (t.me).walk.isSome = true)) ∧
      (issues load s = true → s.xlParts .read (s.me).mode parts = .ok l →
        ∃ t, goes load t ∧ (t.me).isLive f.dst.toNat = true ∧
          (∀ k, k < 256 / w → k ∉ ks → laneOf ((t.me).getV f.dst.toNat).val (8 * w) k = laneOf d.val (8 * w) k) ∧
          (plain → ks ≠ [] →
            (hits ra → (.v f.dst.toNat, s.now + 8) ∈ (t.me).readyAt ∧
              ((∀ u ∈ us, ∀ i, i < w → (x.l1Byte (u.pa + i)).2 = none) → ∀ u ∈ us,
                laneOf ((t.me).getV f.dst.toNat).val (8 * w) (u.pos / w) = natOfBytes ((upto w).map fun i => (x.l1Byte (u.pa + i)).1))) ∧
            (¬ hits ra → ∃ q, sent t ra q ∧ (.v f.dst.toNat, q.id) ∈ (t.me).pend))) ∧
      (issues store s = true → s.xlParts .write (s.me).mode parts = .ok l →
        (∀ c va, poisoned = some (c, va) → exec store s = faults store s { poisonTrap c with wrote := true, addr := va }) ∧
        (poisoned = none → ¬ plain → ∃ t, goes store t ∧ (t.me).kvHold.isSome = true) ∧
        (poisoned = none → plain → ∃ t, goes store t ∧
          (ks ≠ [] →
            let performed : Prop :=
              (∀ u ∈ us, ∀ a, u.pa ≤ a → a < u.pa + w → (x.sector (a / 128)).psn.getLsbD (a % 128 / 4) = false ∧
                  ∀ far, (s.lowerByte s.cur.reel far (4 * (a / 4))).2 = none) →
                ((x.l1.keys.map (· / 2)) ++ unitLines us).eraseDups.length ≤ 256 →
                us.Pairwise (fun a b => a.pa + w ≤ b.pa ∨ b.pa + w ≤ a.pa) → ∀ u ∈ us, ∀ i, i < w →
                  (t.reel s.cur.reel).l1Valid (u.pa + i) = true ∧ (t.reel s.cur.reel).l1Dirty (u.pa + i) = true ∧
                    (t.reel s.cur.reel).l1Byte (u.pa + i) = (byteOf d.val (u.pos + i), none)
            let out : Prop := ∃ q, sent t wa q
            (hits wa → performed ∨ (2 ≤ us.length ∧ out)) ∧ (¬ hits wa → out)))))

/-! ## Engines and kites -/

/-- R45 to R47, R289 to R291, R296 to R313: how an engine command issues. A full queue holds it; a poisoned operand raises
POISON, the first of its entry's order; an operand that must be aligned and is not MISALIGN; otherwise the command enters
its queue last, with the operand values of this moment, its token pends, and its destinations wait for it, vector ones
live. SBND's bound enters the bound queue at once. That a command in progress keeps its place in its queue is the model's choice
(log entry 106). -/
def Obligations.EnginesIssue : Prop :=
  ∀ (f : EF) (s : State),
    let x := s.reel s.cur.reel
    let c (opc : Nat) (eng : Eng) : Cmd := s.newCmd s.nextId opc f eng (s.me).part
    let entered (i : Instr) (opc : Nat) (eng : Eng) (dests : List Reg) : Prop := ∃ t, exec i s = .next t ∧
      (t.me).pc = (s.me).pc + 8 ∧ t.held = s.held ∧ SameMemory s t ∧
      (t.reel s.cur.reel).queue eng = x.queue eng ++ [c opc eng] ∧ (t.me).toks.get 0 f.tok.toNat = s.nextId ∧
      (t.me).owed = (s.me).owed + 1 ∧ (∀ r ∈ dests, r ≠ .s 0 → (r, s.nextId) ∈ (t.me).pend) ∧
      (∀ n, n < 64 → .v n ∈ dests → (t.me).isLive n = true) ∧
      SameS s.me t.me [] ∧ SameP s.me t.me [] ∧ SameM s.me t.me [] ∧ SameV s.me t.me (vecNums dests)
    let enters (i : Instr) (opc : Nat) (eng : Eng) (srcs : List (BitVec 6)) (dests : List Reg) (bad : Option (Word × Bool)) : Prop :=
      (accepted i s = true → queueFull x eng = true → exec i s = .next { s with held := true }) ∧
      (issues i s = true →
        (∀ k, (srcs.map fun r => (s.rs r).code).findSome? id = some k → exec i s = faults i s (poisonTrap k)) ∧
        ((∀ r ∈ srcs, (s.rs r).psn = false) →
          (∀ va w, bad = some (va, w) → exec i s = faults i s { cls := 5, wrote := w, addr := va }) ∧
          (bad = none → entered i opc eng dests)))
    let regs (n : Nat) : List Reg := (upto n).map fun k => Reg.v (f.sd.toNat + k)
    let at_ (n : Nat) (w : Bool) (r : BitVec 6) : Option (Word × Bool) := if (s.rs r).val.toNat % n ≠ 0 then some ((s.rs r).val, w) else none
    enters (.sfeed f) 0xA0 .feed [f.sa, f.sb, f.sc, f.sd] []
      (if f.bits 10 1 = 1 then (at_ 4 false f.sa).or (at_ 4 false f.sd) else at_ 16 false f.sa) ∧
    (f.bits 0 3 ≠ 2 → f.bits 0 3 ≠ 4 → enters (.sdrain f) 0xA1 .drain [f.sa, f.sb, f.sc] [] none) ∧
    (f.bits 0 3 = 2 → enters (.sdrain f) 0xA1 .drain [f.sa, f.sb, f.sc, f.sd] [] none) ∧
    (f.bits 0 3 = 4 → enters (.sdrain f) 0xA1 .drain [f.sb] (regs (f.bits 6 3 + 1)) none) ∧
    enters (.pmark f) 0xA3 .feed [] [] none ∧ enters (.copy f) 0xA4 .copy [f.sa, f.sb, f.sc] [] none ∧
    enters (.copy2d f) 0xA5 .copy [f.sa, f.sb, f.sc, f.sd] [] none ∧ enters (.fill f) 0xA6 .copy [f.sa, f.sb, f.sc] [] none ∧
    enters (.gathr f) 0xA7 .copy [f.sa, f.sb, f.sc, f.sd] [] (at_ (f.ty.bits / 8) false f.sc) ∧
    enters (.scatr f) 0xA8 .copy [f.sa, f.sb, f.sc, f.sd] [] (at_ (f.ty.bits / 8) false f.sc) ∧
    (f.bits 0 2 = 0 → enters (.kvld f) 0xA9 .kv [f.sa, f.sb] (.s f.sc.toNat :: regs (f.bits 2 3 + 1)) (at_ 65536 false f.sa)) ∧
    (f.bits 0 2 = 1 → enters (.kvld f) 0xA9 .kv [f.sa, f.sb, f.sd] [.s f.sc.toNat] ((at_ 65536 false f.sa).or (at_ 16 true f.sd))) ∧
    (2 ≤ f.bits 0 2 → enters (.kvld f) 0xA9 .feed [f.sa, f.sb] [.s f.sc.toNat] (at_ 65536 false f.sa)) ∧
    enters (.kvappRows f) 0xAA .copy [f.sa, f.sb, f.sc] [.s f.sd.toNat] (at_ 65536 true f.sa) ∧
    enters (.kvappInit f) 0xAA .copy [f.sa, f.sb, f.sc] [] (at_ 65536 true f.sa) ∧
    enters (.kvseal f) 0xAB .copy [f.sa] [] (at_ 65536 true f.sa) ∧
    (accepted (.sbnd f) s = true → 16 ≤ x.boundQ.length → exec (.sbnd f) s = .next { s with held := true }) ∧
    (issues (.sbnd f) s = true → (s.rs f.sa).psn = false → ∃ t, exec (.sbnd f) s = .next t ∧
      (t.me).pc = (s.me).pc + 8 ∧ (t.reel s.cur.reel).boundQ = x.boundQ ++ [(s.rs f.sa).val.extractLsb' 0 32] ∧
      (t.me).toks.get 0 f.tok.toNat = s.nextId ∧ SameMemory s t)

/-- R112, R309, R310, R314: how RETRY, ECANCEL, ESTAT and the commands of the configuration unit issue. The own form of the
first three names the command whose token the named register awaits; the other form takes a block descriptor, PRIV in user mode
or outside the caller's partition. A kite command enters the configuration queue of the granted partition that holds the reel,
PRIV where none does. That RETRY, ECANCEL and ESTAT stand in a queue of their own (log entry 36), and that the unit's queue takes
a command in the step of its issue (log entry 104), are the model's choice. -/
def Obligations.ControlIssue : Prop :=
  ∀ (f : EF) (s : State) (p : Partition),
    let x := s.reel s.cur.reel
    let cmd (opc : Nat) (eng : Eng) (part : Nat) : Cmd := s.newCmd s.nextId opc f eng part
    let t0 := f.bits 0 6
    let d := (s.rs f.sa).val
    let out (t : State) (dests : List (BitVec 6)) : Prop := (t.me).pc = (s.me).pc + 8 ∧ t.held = s.held ∧ SameMemory s t ∧
      (t.me).toks.get 0 f.tok.toNat = s.nextId ∧ (t.me).owed = (s.me).owed + 1 ∧
      (∀ r ∈ dests, r ≠ 0 → (.s r.toNat, s.nextId) ∈ (t.me).pend) ∧
      SameS s.me t.me [] ∧ SameP s.me t.me [] ∧ SameM s.me t.me [] ∧ SameV s.me t.me []
    let control (i : Instr) (opc : Nat) (dests : List (BitVec 6)) : Prop :=
      (i.wf = true → t0 = 0 → (s.me).mode = .user → exec i s = faults i s { cls := clsPriv }) ∧
      (issues i s = true →
      (t0 ≠ 0 → ∃ t, exec i s = .next t ∧ out t dests ∧
        (t.reel s.cur.reel).ctlQ = x.ctlQ ++ [{ cmd opc .walk (s.me).part with i0 := (s.me).toks.get 0 t0 }]) ∧
      (t0 = 0 → (s.rs f.sa).psn = false →
        (s.myPart? = none → exec i s = faults i s { cls := clsPriv }) ∧
        (s.myPart? = some p → 11 * p.w ≤ bitsOf d 0 16 ∨ 11 * p.h ≤ bitsOf d 16 16 → exec i s = faults i s { cls := clsPriv }) ∧
        (s.myPart? = some p → bitsOf d 0 16 < 11 * p.w → bitsOf d 16 16 < 11 * p.h →
          ∃ t, exec i s = .next t ∧ out t dests ∧ (t.reel s.cur.reel).ctlQ = x.ctlQ ++ [cmd opc .walk p.handle])))
    let config (i : Instr) (opc : Nat) (srcs dests : List (BitVec 6)) (ok : Prop) : Prop := issues i s = true →
      (∀ k, (srcs.map fun r => (s.rs r).code).findSome? id = some k → exec i s = faults i s (poisonTrap k)) ∧
      ((∀ r ∈ srcs, (s.rs r).psn = false) → ok →
        (s.partOfReel? s.cur.reel = none → exec i s = faults i s { cls := clsPriv }) ∧
        (s.partOfReel? s.cur.reel = some p → s.partByHandle? p.handle = some p →
          ∃ t, exec i s = .next t ∧ out t dests ∧
            (t.partByHandle? p.handle).map (·.cfgQ) = some (p.cfgQ ++ [cmd opc .config p.handle])))
    control (.retry f) 0xAC [] ∧ control (.ecancel f) 0xAD [] ∧ control (.estat f) 0xAE [f.sd] ∧
    config (.kfuse f) 0xB0 [f.sa, f.sb] [f.sd] True ∧ config (.kfree f) 0xB1 [f.sa] [] True ∧
    config (.kctx f) 0xB2 [f.sa, f.sb, f.sc, f.sd] [] True ∧
    config (.kldw f) 0xB3 [f.sa, f.sb, f.sc] [] ((s.rs f.sb).val.toNat % 256 = 0) ∧
    config (.kswap f) 0xB4 [f.sa] [] True ∧ config (.kmma f) 0xB5 [f.sa, f.sb] [] True ∧
    config (.kroute f) 0xB6 [f.sa, f.sb, f.sc, f.sd] [] True ∧ config (.kunroute f) 0xB7 [f.sa] [] True ∧
    config (.kqry f) 0xB8 (if f.cmd = 2 ∨ f.cmd = 3 then [f.sa, f.sb] else [f.sa]) [f.sd] True ∧
    config (.kclk f) 0xB9 [f.sa, f.sb] [] True ∧
    (issues (.kldw f) s = true → (s.rs f.sa).psn = false → (s.rs f.sb).psn = false → (s.rs f.sc).psn = false →
      (s.rs f.sb).val.toNat % 256 ≠ 0 → exec (.kldw f) s = faults (.kldw f) s { cls := 5, addr := (s.rs f.sb).val })

/-! ## The tile, banks, power -/

/-- R60, R323 to R328: the tile, on clean operands, once it is free. ATLD copies the enabled lanes of a row to its register
and ATST the other way; ATADD and ATMAX combine a row or, under .key, each named element with the lanes that name it in
lane order; ATCLR clears its rows and their written bits. A row written is marked so, every other row stays, no register
but ATLD's changes, and the tile is occupied for the cycles of R327, under .key one more for each enabled lane that repeats
the row of a lower one. A poisoned row operand, count or enabled key raises POISON; an occupied tile holds the instruction. That
ATADD and ATMAX of a row mark it with no lane enabled too is the model's choice (log entry 109), as is that a lane whose key has
bit 31 set repeats no row (log entry 123). -/
def Obligations.Tile : Prop :=
  ∀ (f : RF) (s : State),
    let t := s.me
    let x := s.reel s.cur.reel
    let r := bitsOf (s.rs f.sa).val 0 8
    let m := mskOf t f
    let n := min (s.rs f.sb).val.toNat 256
    let va := t.getV f.sa.toNat
    let vb := t.getV f.sb.toNat
    let heads := s.gcode f.grd = none ∧ (t.getM f.msk).psn = false
    let pure (r : Nat) : Prop := (x.row r).psn = 0
    let row (u : State) (r j : Nat) : Nat := laneOf ((u.reel s.cur.reel).row r).val 32 j
    let mark (u : State) (r : Nat) : Bool := (u.reel s.cur.reel).written.getLsbD r
    let busy (u : State) : Nat := (u.reel s.cur.reel).tileBusy
    let same (u : State) (rs : Nat → Prop) : Prop := (u.me).pc = t.pc + 8 ∧
      (∀ q j, q < 256 → j < 64 → ¬ rs q → row u q j = row s q j ∧ mark u q = mark s q) ∧ SameMemory s u ∧
      SameS t u.me [] ∧ SameP t u.me [] ∧ SameM t u.me []
    let op (add : Bool) (a b : Nat) : Nat :=
      if f.ty = .f32 then if add then roundTo fmtF32 f.rnd f.sat 0 (sumF f.rnd [Ty.f32.dec a, Ty.f32.dec b]) else fmaxCode fmtF32 a b
      else if add then intResult 32 true f.sat (signed 32 a + signed 32 b) else if signed 32 a < signed 32 b then b else a
    let keys : List (Nat × Nat) := keysOf m va
    let update (i : Instr) (add : Bool) : Prop := issues i s = true → heads → vb.psn = 0 →
      (f.sub.getLsbD 0 = false → (s.rs f.sa).psn = false → pure r → ∃ u, exec i s = .next u ∧ same u (· = r) ∧ mark u r = true ∧
        busy u = s.now + 2 ∧
        ∀ j, j < 64 → row u r j = if m.getLsbD j then op add (row s r j) (laneOf vb.val 32 j) % 2 ^ 32 else row s r j) ∧
      (f.sub.getLsbD 0 = true → va.psn = 0 → (∀ k ∈ keys, pure (k.2 % 256)) → ∃ u, exec i s = .next u ∧
        same u (fun q => ∃ k ∈ keys, k.2 % 256 = q) ∧
        busy u = s.now + 2 + ((List.range keys.length).filter fun j =>
          ((keys.take j).map fun k => k.2 % 256).contains ((keys.getD j (0, 0)).2 % 256)).length ∧
        (∀ k ∈ keys, mark u (k.2 % 256) = true) ∧
        ∀ q j, q < 256 → j < 64 → row u q j = (keys.filter fun k => k.2 % 256 == q && k.2 / 256 % 64 == j).foldl
          (fun a k => op add a (laneOf vb.val 32 k.1) % 2 ^ 32) (row s q j))
    (issues (.atld f) s = true → heads → (s.rs f.sa).psn = false → pure r → ∃ u, exec (.atld f) s = .next u ∧
      same u (fun _ => False) ∧ busy u = s.now + 1 ∧ (u.me).isLive f.dst.toNat = true ∧
      ∀ j, j < 64 → laneOf ((u.me).getV f.dst.toNat).val 32 j = if m.getLsbD j then row s r j else laneOf (t.getV f.dst.toNat).val 32 j) ∧
    (issues (.atst f) s = true → heads → vb.psn = 0 → (s.rs f.sa).psn = false → ∃ u, exec (.atst f) s = .next u ∧
      same u (· = r) ∧ busy u = s.now + 1 ∧ mark u r = true ∧
      ∀ j, j < 64 → row u r j = if m.getLsbD j then laneOf vb.val 32 j else row s r j) ∧
    update (.atadd f) true ∧ update (.atmax f) false ∧
    (issues (.atclr f) s = true → (s.rs f.sa).psn = false → (s.rs f.sb).psn = false → ∃ u, exec (.atclr f) s = .next u ∧
      same u (fun q => ∃ k, k < n ∧ (r + k) % 256 = q) ∧ busy u = s.now + 1 + (n - 1) / 16 ∧
      ∀ k j, k < n → row u ((r + k) % 256) j = 0 ∧ mark u ((r + k) % 256) = false) ∧
    (∀ i ∈ [Instr.atld f, .atst f, .atclr f], issues i s = true → ∀ c, (s.rs f.sa).code = some c →
      exec i s = faults i s (poisonTrap c)) ∧
    (issues (.atclr f) s = true → (s.rs f.sa).psn = false → ∀ c, (s.rs f.sb).code = some c →
      exec (.atclr f) s = faults (.atclr f) s (poisonTrap c)) ∧
    (∀ i ∈ [Instr.atadd f, .atmax f], issues i s = true →
      (f.sub.getLsbD 0 = false → ∀ c, (s.rs f.sa).code = some c → exec i s = faults i s (poisonTrap c)) ∧
      (f.sub.getLsbD 0 = true → ∀ c, (((List.range 64).filter fun k => m.getLsbD k).map va.code).findSome? id = some c →
        exec i s = faults i s (poisonTrap c))) ∧
    (∀ i ∈ [Instr.atld f, .atst f, .atadd f, .atmax f, .atclr f], accepted i s = true → s.now < x.tileBusy →
      exec i s = .next { s with held := true })

/-- R52, R329 to R332, R444, R454: banks, leases, hints. VDROP kills exactly the registers of its range and touches nothing
else; BKQ reports liveness; BOOST.rel ends the lease and BOOST.qry reports the µs that remain, and a BOOST.req whose duration
lies outside 1 to 1,000,000 µs, or while leases are off or a field of the context is hot, is denied; every other is granted for
its duration or the longest allowed, or, where the context holds a field and the power predicted for its fields lies above 98 %
of ENFW less the repayment, denied. PWRHINT.ramp ungates the field and neither hint changes a register or memory. The prediction
is a free value (log entry 2); the answer to a context without a field (log entry 90), that every answer is written at issue
outside a handover (log entry 27), that it takes no poison of the guard (log entry 17) and how long the hint of PWRHINT.idle
stands (log entry 124) are the model's choice. -/
def Obligations.BanksAndPower : Prop :=
  ∀ (f : RF) (h : IF) (s : State),
    let g := s.gcode f.grd
    let x := s.reel s.cur.reel
    let c := (s.me).ctx
    let us := (s.rs h.sa).val.toNat
    let fld := fieldOfReel s.cur.reel
    let same (u : State) : Prop := (u.me).pc = (s.me).pc + 8 ∧ SameS s.me u.me [] ∧ SameP s.me u.me [] ∧ SameM s.me u.me [] ∧
      SameV s.me u.me [] ∧ SameIdentity s.me u.me ∧ SameMemory s u
    let serving := s.fw.handover = none ∧ s.fw.held = []
    (issues (.vdrop f) s = true → ∃ u, exec (.vdrop f) s = .next u ∧ (u.me).pc = (s.me).pc + 8 ∧
      (∀ n, n < 64 → (u.me).isLive n = ((s.me).isLive n && !(f.sa.toNat ≤ n && n ≤ f.sb.toNat))) ∧
      SameS s.me u.me [] ∧ SameP s.me u.me [] ∧ SameM s.me u.me [] ∧
      (∀ n, n < f.sa.toNat ∨ f.sb.toNat < n → (u.me).getV n = (s.me).getV n) ∧ OnlyStrand s u) ∧
    (issues (.bkq f) s = true → f.sub = 0 → exec (.bkq f) s = scalarDone (.bkq f) s f.dst [g] (s.me).live) ∧
    (issues (.bkq f) s = true → f.sub = 1 → exec (.bkq f) s = scalarDone (.bkq f) s f.dst [g, (s.rs f.sa).code]
      (x.lsLive.extractLsb' (64 * bitsOf (s.rs f.sa).val 0 3) 64)) ∧
    (issues (.bkq f) s = true → f.sub = 2 → ∃ v, exec (.bkq f) s = scalarDone (.bkq f) s f.dst [g] v ∧
      ∀ b, b < 64 → v.getLsbD b = (decide (b < 32) && x.lsBankLive b)) ∧
    (issues (.boostRel h) s = true → serving → ∃ u, exec (.boostRel h) s = .next u ∧ (u.me).pc = (s.me).pc + 8 ∧ (u.ctx c).lease = none ∧
      (h.dst ≠ 0 → (u.me).getS h.dst.toNat = SReg.clean (Sys2Proof.word (s.leaseLeft c)))) ∧
    (issues (.boostQry h) s = true → serving →
      exec (.boostQry h) s = scalarDone (.boostQry h) s h.dst [] (Sys2Proof.word (s.leaseLeft c))) ∧
    (issues (.boostReq h) s = true → serving → (s.rs h.sa).psn = false →
      let grant : Prop := s.fw.devMode = .full ∧ s.power.boost = true ∧ s.power.maxUs ≠ 0 ∧ 1 ≤ us ∧ us ≤ 1000000
      let n := min us s.power.maxUs
      let given (u : State) : Prop := exec (.boostReq h) s = .next u ∧ (u.me).pc = (s.me).pc + 8 ∧
        (h.dst ≠ 0 → (u.me).getS h.dst.toNat = SReg.clean (Sys2Proof.word n)) ∧
        (u.ctx c).lease = some { mhz := h.imm.toNat, expiry := s.tick + 1000 * n, kept := none }
      let denied (u : State) : Prop := exec (.boostReq h) s = .next u ∧ (u.me).pc = (s.me).pc + 8 ∧
        (h.dst ≠ 0 → (u.me).getS h.dst.toNat = SReg.clean 0) ∧ u.ctx c = s.ctx c
      let cool : Prop := ∀ p ∈ s.parts, p.ctx = c → p.evicted = false → ∀ y ∈ p.fields,
        (s.field y).hot = false ∧ (s.field y).temp ≤ s.power.tcritNow
      (grant → (∀ p ∈ s.parts, p.ctx = c → p.evicted = true) → ∃ u, given u) ∧
      (grant → cool → (∃ p ∈ s.parts, p.ctx = c ∧ p.evicted = false) →
        ∃ k u, k < 2 ^ 32 ∧ if s.power.bears k = true then given u else denied u) ∧ (¬ grant ∨ ¬ cool → ∃ u, denied u)) ∧
    (issues (.pwrhintIdle h) s = true → ∃ u, exec (.pwrhintIdle h) s = .next u ∧ same u ∧ (u.field fld).idleHint = true) ∧
    (issues (.pwrhintRamp h) s = true → ∃ u, exec (.pwrhintRamp h) s = .next u ∧ same u ∧ (u.field fld).gated = false)

/-! ## System -/

/-- R63, R225, R227, R228, R230 to R235, R392: the system instructions complete. CSRR reads and CSRW writes the register its
number names; CSRX does both, the write from the value read. ERET of a FAULTED strand of the caller's context lets it go on at
its pc or behind it; TLBINV's token pends on the invalidation; CTXSV stores the image of its target and CTXLD loads one; EVPOST
adds one to its counter; ALLOCQ answers with the allocator's result. ERET and EVPOST act at once where their release has nothing
to wait for and EVPOST's counter has room for its record (R400), and else go out as requests that their destination waits for.
TLBINV is held while a field has 16 open invalidations (R404). ALLOCQ's grant to a context that does not exist (log entry 85),
its answer at issue outside a handover (log entry 27), and what CTXSV and CTXLD do with poisoned registers and scanned-out
targets (log entry 24) are the model's choice. -/
def Obligations.System : Prop :=
  ∀ (f : SF) (s : State) (r : StrandRef),
    let x := s.rs f.sa
    let d := s.rs f.dst
    let n := f.csr.toNat
    let g := s.gcode f.grd
    let old := s.csrRead n
    let new := match f.sub.toNat with
      | 0 => x.val
      | 1 => old ||| x.val
      | _ => old &&& ~~~x.val
    let c := if (s.me).mode = .device then bitsOf x.val 8 6 else (s.me).ctx
    let k := bitsOf x.val 0 5
    let serving := s.fw.handover = none ∧ s.fw.held = []
    let img := (s.slot r).image (s.slot r).savedState.1 (s.slot r).savedState.2
    let ready (l : List (Nat × Nat × Word)) : Prop := s.rangeReady s.cur.reel true l = true
    let own (t : State) (v : Word) : Prop := (t.me).pc = (s.me).pc + 8 ∧ (f.dst ≠ 0 → (t.me).getS f.dst.toNat = tainted g v)
    let target := s.strand? (s.me).ctx d.val.toNat = some r ∧ ((s.slot r).phase = .faulted ∨ (s.slot r).phase = .suspended)
    let e := ((s.retire (.eret f)).releaseDeps 3).2
    (issues (.csrr f) s = true → exec (.csrr f) s = scalarDone (.csrr f) s f.dst [g] old) ∧
    (issues (.csrw f) s = true → x.psn = false → exec (.csrw f) s = .next ((s.retire (.csrw f)).csrWrite n x.val)) ∧
    (issues (.csrx f) s = true → x.psn = false → g = none →
      exec (.csrx f) s = .next (((s.retire (.csrx f)).csrWrite n new).setRs f.dst (SReg.clean old))) ∧
    (issues (.csrx f) s = true → x.psn = false → ∃ t, exec (.csrx f) s = .next t ∧ own t old) ∧
    (issues (.eret f) s = true → x.psn = false → (s.releaseDeps 3).1 = [] →
      (e.strand? (s.me).ctx x.val.toNat = none → e.savedAt? x.val.toNat = none →
        ∃ t, exec (.eret f) s = .next t ∧ own t (statusWord 0x0101 0)) ∧
      (e.strand? (s.me).ctx x.val.toNat = some r → r ≠ s.cur →
        ((s.slot r).phase ≠ .faulted → ∃ t, exec (.eret f) s = .next t ∧ own t (statusWord 0x0102 0) ∧ t.slot r = s.slot r) ∧
        ((s.slot r).phase = .faulted → (s.slot r).resume = none → ∃ t, exec (.eret f) s = .next t ∧ own t 0 ∧
          t.slot r = { s.slot r with phase := .live, wait := .none, readyTick := s.tick
                                     pc := if f.sub = 1 then (s.slot r).pc + 8 else (s.slot r).pc }))) ∧
    (issues (.eret f) s = true → x.psn = false → (s.releaseDeps 3).1 ≠ [] → ∃ (t : State) (q : Req), exec (.eret f) s = .next t ∧
      (t.me).pc = (s.me).pc + 8 ∧ q ∈ t.reqs ∧ q.op = .eret x.val.toNat (f.sub == 1) ∧ q.stage = .sent ∧ q.ctx = (s.me).ctx ∧
      (f.dst ≠ 0 → g = none → (.s f.dst.toNat, q.id) ∈ (t.me).pend) ∧ ∀ r, r ≠ s.cur → t.slot r = s.slot r) ∧
    (accepted (.tlbinv f) s = true → (∃ y, y < 42 ∧ 16 ≤ (s.invs.filter fun v => v.waiting.getLsbD y).length) →
      exec (.tlbinv f) s = .next { s with held := true }) ∧
    (issues (.tlbinv f) s = true → (f.sub = 0 → x.psn = false) →
      ∃ (t : State) (v : TlbInv), exec (.tlbinv f) s = .next t ∧ (t.me).pc = (s.me).pc + 8 ∧ t.invs = s.invs ++ [v] ∧
        v.kind = f.sub.toNat ∧ v.ctx = (s.me).ctx ∧ v.va = x.val ∧ v.waiting = BitVec.allOnes 42 ∧ v.removed = 0 ∧
        (g = none → (t.me).toks.get 0 f.dst.toNat = v.id)) ∧
    (issues (.ctxsv f) s = true → x.psn = false → d.psn = false → x.val.toNat % 256 = 0 → f.sub = 0 →
      (∀ l, s.strand? (s.me).ctx d.val.toNat = none → s.savedAt? d.val.toNat = none →
        s.xlParts .write (s.me).mode (pageParts x.val 0x300) = .ok l →
        ∃ t, exec (.ctxsv f) s = .next t ∧ own t (statusWord 0x0101 0) ∧ SameMemory s t) ∧
      (∀ l, target → s.xlParts .write (s.me).mode (pageParts x.val img.length) = .ok l →
        let v : ImageSave := { id := s.nextId, reel := s.cur.reel, slot := s.cur.slot, handle := (s.me).handle, dst := f.dst.toNat
                               ctx := (s.me).ctx, shared := false, target := d.val, pages := l, size := img.length, lines := none }
        let b := { s.retire (.ctxsv f) with nextId := s.nextId + 1 }.setPend (.s f.dst.toNat) s.nextId
        let y := b.saveStep v
        let z := match y.2 with | some v => y.1.saveStep v | none => (y.1, none)
        g = none → ∃ t, exec (.ctxsv f) s = .next t ∧ (t.me).pc = (s.me).pc + 8 ∧ t = { z.1 with saves := z.1.saves ++ z.2.toList })) ∧
    (∀ v : ImageSave, let y := s.saveStep v
      (∀ pa e, v.lines = none → v.shared = false → s.strand? v.ctx v.target.toNat = some r →
        (s.slot r).phase = .faulted ∨ (s.slot r).phase = .suspended →
        (s.landing (s.slot r) = true ∨ s.rangeReady v.reel false v.pages = false → y = (s, some v)) ∧
        (s.landing (s.slot r) = false → s.rangeReady v.reel false v.pages = true → v.pages = [(pa, img.length, e)] →
          y.2 = some { v with lines := some (linesOf pa img.length) } ∧
          ((∀ b ∈ img, b.2 = none) → pa + img.length ≤ dramTop → pa % 256 = 0 →
            ∀ j, j < img.length → y.1.engineByte v.reel (pa + j) = img.getD j (0, none)))) ∧
      (∀ ls, v.lines = some ls →
        ((∃ n ∈ ls, (s.dir n).pending ≠ 0) → y = (s, some v)) ∧
        ((∀ n ∈ ls, (s.dir n).pending = 0) → s.slotOf? v.reel v.slot v.handle = some r → v.dst ≠ 0 →
          (.s v.dst, v.id) ∈ (s.slot r).pend → y.2 = none ∧
          (y.1.slot r).getS v.dst = SReg.clean (statusWord 0 v.size) ∧ SameMemory s y.1))) ∧
    (issues (.ctxld f) s = true → x.psn = false → d.psn = false → x.val.toNat % 256 = 0 → f.sub = 0 →
      (∀ l, s.xlParts .read (s.me).mode (pageParts x.val 0x300) = .ok l → ¬ ready l → (s.me).walk = none → ∃ t, exec (.ctxld f) s = .next t ∧
        (t.me).wait = .ctxld f ∧ (t.me).pc = (s.me).pc ∧ SameMemory s t) ∧
      (target → (s.retire (.ctxld f)).slotOf? 0 0 d.val.toNat = some r → r ≠ s.cur → s.landing (s.slot r) = false →
        ∀ l l', s.xlParts .read (s.me).mode (pageParts x.val 0x300) = .ok l → ready l →
        let size := strandImageSize (imgWord (s.imageBytes l) 0)
        s.xlParts .read (s.me).mode (pageParts x.val size) = .ok l' → ready l' →
        let b := s.imageBytes l'
        let h := imgWord (s.imageBytes l) 0
        (strandImageBad b = true → exec (.ctxld f) s = faults (.ctxld f) s { cls := clsIllegal }) ∧
        (strandImageBad b = false → (s.me).mode.rank < (imgMode b).rank → exec (.ctxld f) s = faults (.ctxld f) s { cls := clsPriv }) ∧
        (strandImageBad b = false → (imgMode b).rank ≤ (s.me).mode.rank → ∃ t, exec (.ctxld f) s = .next t ∧
          own t (statusWord 0 size) ∧ SameMemory s t ∧
          t.slot r = (s.slot r).load (s.reel r.reel).cycle (s.clampPrio (imgMode b) (s.me).ctx (bitsOf h 40 5)) b))) ∧
    (issues (.evpost f) s = true → x.psn = false →
      (k < 2 → exec (.evpost f) s = faults (.evpost f) s { cls := clsPriv }) ∧
      let ready := (s.releaseDeps (if f.sub = 1 then 4 else 3)).1 = [] ∧ s.replayFull s.cur.reel (counterHome c) = false
      (2 ≤ k → (s.me).mode = .device → (s.ctx c).live = false → ∃ t, exec (.evpost f) s = .next t ∧ own t 0 ∧
        ∀ c' k', t.ev c' k' = s.ev c' k') ∧
      (2 ≤ k → (s.ctx c).live = true → ¬ ready → ∃ (t : State) (q : Req), exec (.evpost f) s = .next t ∧
        (t.me).pc = (s.me).pc + 8 ∧ q ∈ t.reqs ∧ q.op = .post c k (f.sub == 1) ∧ q.stage = .sent ∧
        (f.dst ≠ 0 → g = none → (.s f.dst.toNat, q.id) ∈ (t.me).pend) ∧ ∀ c' k', t.ev c' k' = s.ev c' k') ∧
      (2 ≤ k → (s.ctx c).live = true → ready → ∃ t, exec (.evpost f) s = .next t ∧
        own t (s.ev c k + 1) ∧ t.ev c k = s.ev c k + 1 ∧ ∀ c' k', (c', k') ≠ (c, k) → t.ev c' k' = s.ev c' k')) ∧
    (issues (.allocqGrant f) s = true → x.psn = false → serving → ∃ t, exec (.allocqGrant f) s = .next t ∧
      let z := (s.retire (.allocqGrant f)).grant c (bitsOf x.val 0 3) (bitsOf x.val 3 3)
      own t (Sys2Proof.word z.1) ∧ t.parts = z.2.parts) ∧
    (issues (.allocqFree f) s = true → x.psn = false → serving → ∃ t, exec (.allocqFree f) s = .next t ∧
      let z := (s.retire (.allocqFree f)).freePart (s.me).ctx x.val
      own t (statusWord z.1 0) ∧ t.parts = z.2.parts ∧ t.kites = z.2.kites ∧ t.lines = z.2.lines)

/-- R63, R227, R228, R230 to R235, R392, R429: what the system instructions leave alone, on every path: scalars but s[DST],
every predicate, mask and vector register of the strand; every other strand but the target of ERET or CTXLD; all memory but the
granules of the save record that CTXSV stores and the image of a scanned-out strand that CTXLD loads. A write of one CSR leaves
every other: those of the strand and the reel, of the context, of its field, and those of the pre-emption manager. -/
def Obligations.SystemFrame : Prop :=
  (∀ mk ∈ [Instr.csrr, .csrw, .csrx, .tlbinv, .evpost, .allocqGrant, .allocqFree, .trap, .idle], ∀ (f : SF) (s t : State),
    exec (mk f) s = .next t →
      SameMemory s t ∧ SameS s.me t.me [f.dst.toNat] ∧ SameP s.me t.me [] ∧ SameM s.me t.me [] ∧ SameV s.me t.me [] ∧
      ∀ r, r ≠ s.cur → t.slot r = s.slot r) ∧
  (∀ (f : SF) (s t : State), exec (.idle f) s = .next t →
    t = { s with reels := t.reels, ctxs := t.ctxs, fields := t.fields, draws := t.draws, held := t.held } ∧
    (∀ n, t.reel n = { s.reel n with slots := (t.reel n).slots, l1 := (t.reel n).l1 }) ∧
    (∀ n, n ≠ s.cur.reel → t.reel n = s.reel n) ∧ OnlyRecords s t ∧ SameIdentity { s.me with toks := (t.me).toks } t.me) ∧
  (∀ (f : SF) (s t : State), exec (.eret f) s = .next t →
    let target := ((s.retire (.eret f)).releaseDeps 3).2.strand? (s.me).ctx (s.rs f.sa).val.toNat
    t = { s with reels := t.reels, reqs := t.reqs, walks := t.walks, nextId := t.nextId, ctxs := t.ctxs, fields := t.fields
                 held := t.held } ∧ SameMemory s t ∧ OnlyRecords s t ∧
    (∀ n, t.reel n = { s.reel n with slots := (t.reel n).slots, l1 := (t.reel n).l1 }) ∧
    (∀ r, r ≠ s.cur → target ≠ some r → t.slot r = s.slot r) ∧
    (target ≠ some s.cur → SameS s.me t.me [f.dst.toNat] ∧ SameP s.me t.me [] ∧ SameM s.me t.me [] ∧ SameV s.me t.me [])) ∧
  (∀ (f : SF) (s t : State), exec (.ctxsv f) s = .next t → (s.me).phase ≠ .free →
    let img := s.targetImage (s.me).ctx (s.imageTarget s.cur.reel (s.me).ctx (f.sub == 1) (s.rs f.dst).val)
    let size := if img.isEmpty then (if f.sub = 1 then 0x80 else 0x300) else img.length
    let xl := s.xlParts .write (s.me).mode (pageParts (s.rs f.sa).val size)
    SameS s.me t.me [f.dst.toNat] ∧ SameP s.me t.me [] ∧ SameM s.me t.me [] ∧ SameV s.me t.me [] ∧
    (∀ r, r ≠ s.cur → t.slot r = s.slot r) ∧ (∀ n, n ≠ s.cur.reel → t.reel n = s.reel n) ∧
    (∀ n, t.reel n = { s.reel n with slots := (t.reel n).slots, l1 := (t.reel n).l1 }) ∧
    (∀ l, xl = .ok l → ∀ a, (∀ x ∈ l, a / 4 < x.1 / 4 ∨ (x.1 + x.2.1 - 1) / 4 < a / 4) → t.memByte a = s.memByte a) ∧
    ((∀ l, xl ≠ .ok l) → SameMemory s t)) ∧
  (∀ (f : SF) (s t : State), exec (.ctxld f) s = .next t →
    let h := (s.rs f.dst).val.toNat
    let b := s.retire (.ctxld f)
    (f.sub = 1 ∨ b.slotOf? 0 0 h ≠ none ∨ b.savedAt? h = none →
      t = { s with reels := t.reels, walks := t.walks, nextId := t.nextId, ctxs := t.ctxs, fields := t.fields, held := t.held } ∧
      OnlyRecords s t ∧ SameMemory s t) ∧
    (∀ r, r ≠ s.cur → (f.sub = 1 ∨ b.slotOf? 0 0 h ≠ some r) → t.slot r = s.slot r) ∧
    (∀ n, (f.sub ≠ 1 ∨ s.imageTarget s.cur.reel (s.me).ctx true (s.rs f.dst).val ≠ .reel n) → t.reel n = { s.reel n with slots := (t.reel n).slots }) ∧
    (f.sub = 1 ∨ b.slotOf? 0 0 h ≠ some s.cur →
      SameS s.me t.me [f.dst.toNat] ∧ SameP s.me t.me [] ∧ SameM s.me t.me [] ∧ SameV s.me t.me [])) ∧
  (∀ mk ∈ [Instr.csrw, .csrx], ∀ (f : SF) (s t : State), exec (mk f) s = .next t →
    (f.csr ≠ 0x000 → (t.me).seed = (s.me).seed) ∧
    (f.csr ≠ 0x001 → (t.me).bkOff = (s.me).bkOff ∧ (t.me).bkRet = (s.me).bkRet) ∧
    (f.csr ≠ 0x002 → (t.reel s.cur.reel).lsOff = (s.reel s.cur.reel).lsOff ∧ (t.reel s.cur.reel).lsRet = (s.reel s.cur.reel).lsRet) ∧
    (t.me).live = (s.me).live ∧ (t.me).mode = (s.me).mode ∧ (t.me).prio = (s.me).prio ∧
    (mk f = .csrw f ∨ s.gcode f.grd = none → (t.me).toks = (s.me).toks) ∧
    t = { s with reels := t.reels, ctxs := t.ctxs, fields := t.fields, pmt := t.pmt, fw := t.fw, draws := t.draws, held := t.held } ∧
    (∀ n, n ≠ s.cur.reel → t.reel n = s.reel n) ∧
    (let n := s.cur.reel
     t.reel n = { s.reel n with slots := (t.reel n).slots, lsOff := (t.reel n).lsOff, lsRet := (t.reel n).lsRet
                                lsDly := (t.reel n).lsDly }) ∧
    (∀ c, t.ctx c = { s.ctx c with fqRead := (t.ctx c).fqRead, lost := (t.ctx c).lost, wdog := (t.ctx c).wdog
                                   records := (t.ctx c).records } ∧
      (f.csr ≠ 0x101 ∨ c ≠ s.csrCtx → (t.ctx c).fqRead = (s.ctx c).fqRead) ∧
      (f.csr ≠ 0x102 ∨ c ≠ s.csrCtx → (t.ctx c).lost = (s.ctx c).lost) ∧
      (f.csr ≠ 0x103 ∨ c ≠ s.csrCtx → (t.ctx c).wdog = (s.ctx c).wdog)) ∧
    (f.csr ≠ 0x110 → t.pmt.vict = s.pmt.vict ∧ t.pmt.claim = s.pmt.claim) ∧ (f.csr ≠ 0x111 → t.pmt.part = s.pmt.part) ∧
    (f.csr ≠ 0x112 → t.pmt.save = s.pmt.save) ∧ t.fw = { s.fw with held := t.fw.held } ∧
    (f.csr ≠ 0x113 → let p := t.pmt
      t.fw = s.fw ∧ p = { s.pmt with vict := p.vict, claim := p.claim, part := p.part, save := p.save }) ∧
    (∀ n, t.field n = { s.field n with vbtsel := (t.field n).vbtsel, vbtres := (t.field n).vbtres, vbrsel := (t.field n).vbrsel
                                       vbrval := (t.field n).vbrval, vbret := (t.field n).vbret } ∧
      (f.csr ≠ 0x120 ∨ n ≠ s.myField → (t.field n).vbtsel = (s.field n).vbtsel) ∧
      (f.csr ≠ 0x121 ∨ n ≠ s.myField → (t.field n).vbtres = (s.field n).vbtres) ∧
      (f.csr ≠ 0x123 ∨ n ≠ s.myField → (t.field n).vbrsel = (s.field n).vbrsel) ∧
      (f.csr ≠ 0x124 ∨ n ≠ s.myField → (t.field n).vbrval = (s.field n).vbrval) ∧
      (f.csr ≠ 0x125 ∨ n ≠ s.myField → (t.field n).vbret = (s.field n).vbret)))

/-! ## Steps of the other agents -/

/-- R25, R28, R54, R55, R217, R218, R233, R255, R259, R262, R386, R389, R401, R403: steps that act on one strand. A SPAWN is
answered by a strand in the lowest FREE slot of the target, which starts with its arguments, or with 0; a wait ends once
its counter, word or phase differs or its deadline is reached, and otherwise nothing changes; a collective's result
reaches its participants; a strand the watchdog finds faults at the instruction that is held, a store to a KV page that it
has issued before keeping its effect and its judgement, and one whose word cannot be fetched faults; a walk that succeeds
leaves its translation; a bank moves as R54 and R55 say. That the watchdog keeps such a store's judgement, and that it counts a
strand whose page walk runs as waiting, are the model's (log entries 101 and 74). What comes to a gated field waits (R450). -/
def Obligations.StrandEvents : Prop :=
  ∀ (s : State) (r : StrandRef),
    let t := s.slot r
    let now := (s.reel r.reel).cycle
    let ends (u : State) (dst : Nat) (v : SReg) : Prop := (u.slot r).wait = .none ∧ (u.slot r).pc = t.pc + 8 ∧
      (dst ≠ 0 → (u.slot r).getS dst = v) ∧ SameMemory s u
    let faulted (u : State) (cls : Nat) (x : Record) : Prop := (u.slot r).phase = .faulted ∧ (u.slot r).pc = t.pc ∧
      (u.ctx t.ctx).records = (s.ctx t.ctx).records ++ [x] ∧ bitsOf x.w0 0 8 = cls ∧ x.pc = t.pc ∧ SameMemory s u
    (∀ id sp, (s.spawns.find? fun x => x.id == id) = some sp → s.allDone sp.after 3 = true →
      (s.part? sp.ctx sp.part).any (·.suspended) = false → s.reelFree sp.target = true → s.reelRuns sp.target = true →
      s.reelRuns sp.reel = true →
      (∀ k x, sp.task = some k → (s.tasks.find? fun y => y.id == k) = some x → x.killed = false) →
      r = { reel := sp.reel, slot := sp.slot } → t.handle = sp.handle → t.phase = .live → t.pend.any (·.2 == id) = true →
      (∀ k, (s.reel sp.target).freeSlot? = some k → ∃ u, exec (.spawnAnswer id) s = .next u ∧
        let n := u.slot { reel := sp.target, slot := k }
        let h := Config.handle s.nextId
        n.phase = .live ∧ n.pc = sp.entry ∧ n.handle = h ∧ n.ctx = sp.ctx ∧ n.part = sp.part ∧ n.task = sp.task ∧ n.mode = sp.mode ∧
        n.prio = s.clampPrio sp.mode sp.ctx sp.prio ∧ n.live = 0 ∧ n.seed = 1 ∧ n.getS 1 = sp.arg ∧
        n.getS 2 = SReg.clean (Sys2Proof.word sp.part) ∧ n.getS 3 = SReg.clean (Sys2Proof.word sp.handle) ∧
        (sp.dst ≠ 0 → (u.slot r).getS sp.dst = SReg.clean (Sys2Proof.word h)) ∧ ∀ x ∈ (u.slot r).pend, x.2 ≠ id) ∧
      ((s.reel sp.target).freeSlot? = none → ∃ u, exec (.spawnAnswer id) s = .next u ∧
        (sp.dst ≠ 0 → (u.slot r).getS sp.dst = SReg.clean 0) ∧ ∀ x ∈ (u.slot r).pend, x.2 ≠ id)) ∧
    (t.phase = .live → ∀ k seen dl dst, t.wait = .waitq k seen dl dst → ∀ i ∈ [Instr.waitqWake r, .waitDeadline r],
      (s.ev t.ctx k ≠ seen ∨ duePassed s.tick dl = true → ∃ u, exec i s = .next u ∧ ends u dst (SReg.clean (s.ev t.ctx k))) ∧
      (s.ev t.ctx k = seen → duePassed s.tick dl = false → exec i s = .next s)) ∧
    (t.phase = .live → ∀ seen dst, t.wait = .idle seen dst →
      (s.evSum t.ctx ≠ seen → ∃ u, exec (.waitqWake r) s = .next u ∧ ends u dst (SReg.clean (s.evSum t.ctx))) ∧
      (s.evSum t.ctx = seen → exec (.waitqWake r) s = .next s)) ∧
    (t.phase = .live → ∀ x, t.wait = .waita x → x.w ∈ [2, 4, 8] → x.pa % x.w = 0 →
      let y := s.reel r.reel
      let f := fieldOfReel r.reel
      let inL1 := x.scope < 2 ∧ x.pa < dramTop ∧ x.kv = false
      let bs := (upto x.w).map fun i => if decide (x.scope < 2) && decide (x.pa < dramTop) && !x.kv then y.l1Byte (x.pa + i)
        else s.memByte (x.pa + i)
      let v := natOfBytes (plainBytes bs)
      (inL1 → ∀ i, i < x.w → y.l1Valid (x.pa + i) = true) → (¬ inL1 → x.kv = true ∨ s.farHolds f x.fc x.pa = false) →
      (x.scope < 2 ∨ dramTop ≤ x.pa ∨ x.kv = true ∨ (y.sector (x.pa / 128)).dirty = 0) → s.overlaps r.reel [x.pa / 128] = [] →
      s.readHeld f x.pa = false → s.hostDown x.pa = false → s.busTesting x.pa = false → x.stale = false →
      (x.kv = true → s.kvClosed (x.pa / 65536) = false) → firstCode bs = none →
      ∀ i ∈ [Instr.waitaWake r, .watchReread r, .waitDeadline r],
        (v ≠ x.seen.toNat % 2 ^ (8 * x.w) ∨ x.once = true ∨ duePassed s.tick x.deadline = true →
          ∃ u, exec i s = .next u ∧ ends u x.dst (SReg.clean (widen x.ty v))) ∧
        (v = x.seen.toNat % 2 ^ (8 * x.w) → x.once = false → duePassed s.tick x.deadline = false →
          ∃ u, exec i s = .next u ∧ u.slot r = t ∧ SameMemory s u)) ∧
    (t.phase = .live → ∀ part b phase scope acq dst p, t.wait = .barw part b phase scope acq dst → s.partByHandle? part = some p →
      (p.barrier b).phase ≠ phase → ∃ u, exec (.barrierRelease part b) s = .next u ∧
        ends u dst (SReg.clean ((p.barrier b).phase.zeroExtend 64))) ∧
    (∀ part id p v psn c, s.partByHandle? part = some p → roundComplete (p.openRound id) = true →
      (∀ n ∈ p.collBlocks ((p.openRound id).take 1), s.blockFree n = true) → roundResult (p.openRound id) = some (v, psn) →
      c ∈ p.openRound id → r = { reel := c.reel, slot := c.slot } → t.pend.any (·.2 == c.pendId) = true →
      (∀ d ∈ p.openRound id, let q := s.slot { reel := d.reel, slot := d.slot }
        s.reelRuns d.reel = true ∧ q.phase ≠ .free ∧ q.handle = d.handle ∧ (({ reel := d.reel, slot := d.slot } : StrandRef) = r → d = c)) →
      ∃ u, exec (.collResult part id) s = .next u ∧ (c.dst ≠ 0 → (u.slot r).getS c.dst = SReg.of [psn] (widen c.ty v)) ∧
        (∀ x ∈ (u.slot r).pend, x.2 ≠ c.pendId) ∧ SameMemory s u) ∧
    (t.phase = .live → t.mode = .user → (s.ctx t.ctx).wdog ≠ 0 → (s.ctx t.ctx).wdog.toNat < s.tick - t.readyTick →
      (t.wait ≠ .none ∨ (s.stateOf r).1 = 2 → ∃ u x, exec (.watchdog r) s = .next u ∧ faulted u 12 x ∧ x.word = s.heldWord r ∧
        (u.slot r).kvHold = t.kvHold ∧ u.reqs = s.reqs ∧ ∀ w, t.ir = some (t.pc, w) → x.word = w) ∧
      ((s.stateOf r).1 ≠ 2 → exec (.watchdog r) s = .next s)) ∧
    (t.phase = .live → t.wait = .none → t.kvHold = none → ∀ f, s.fetch r = .fail f → ∃ u x, exec (.fetchFault r) s = .next u ∧
      faulted u (if f.poison then 7 else 6) x ∧ x.addr = t.pc) ∧
    (∀ id w l ps, (s.walks.find? fun x => x.id == id) = some w → s.walkServed w = true → w.who = .strand r → t.walk = some w.id →
      w.stale = false → s.walk w.field w.ctx w.va w.acc = .leaf l ps → ∃ u, exec (.pageWalk id) s = .next u ∧ (u.slot r).walk = none ∧
        l ∈ (u.reel w.reel).tlb ∧ l ∈ (u.field (fieldOfReel w.reel)).tlb ∧ SameMemory s u) ∧
    (t.dly.new = false →
      (∀ b w, (t.bank b).wake = some w → w ≤ now → ∃ u, exec (.bankWakeDone (.vec r.reel r.slot b)) s = .next u ∧
        (u.slot r).bank b = { t.bank b with supply := .full, wake := none, by_ := none }) ∧
      (∀ b, (t.bank b).wake = none → (t.bank b).supply = .full → t.bankLive b = true → t.dly.ret ≠ 0 →
        (t.bank b).touch + t.dly.ret.toNat + 1 = now → ∃ u, exec (.bankRetain (.vec r.reel r.slot b)) s = .next u ∧
          (u.slot r).bank b = { t.bank b with supply := .retain }) ∧
      (∀ b d, (t.bank b).wake = none → (t.bank b).supply ≠ .off → t.bankLive b = false → (t.bank b).dead = some d →
        d + delayOff t.dly.off + 1 = now → ∃ u, exec (.bankOff (.vec r.reel r.slot b)) s = .next u ∧
          (u.slot r).bank b = { t.bank b with supply := .off }))

/-- R133 to R140, R150, R153, R158, R159, R374, R375, R378, R385, R400, R404: steps of the memory system. An L1 gives up a clean
sector, or sends the dirty bytes of one to their home, after older write-backs and before what else is on its way there, and
keeps it clean; a far cache drops a line; invalidations are acknowledged; a directory entry that goes invalidates its sharers; a
fault record enters its queue and EV0 rises by one; a field removes what a TLBINV names; a sealed page is converted, and one
whose header is poisoned leaves the registry instead (R472); host and peer accesses reach memory, snoops with the host's bytes,
and a transfer of a peer that was answered before gets the same answer and is not applied again. Writes are said where no
granule of memory is poisoned (R395), and of a step that lets waiting host writes go, where none waits. -/
def Obligations.MemoryEvents : Prop :=
  ∀ (s : State),
    let pure := ∀ g, s.mpsn.get false g = false
    let stored (u : State) (pa : Nat) (bs : List Byte) : Prop := (∀ k, k < bs.length → u.memByte (pa + k) = (bs.getD k 0, none)) ∧
      ∀ a, a < pa ∨ pa + bs.length ≤ a → u.memByte a = s.memByte a
    let conv (u : State) (st : Nat) := (u.ageing? st).conv
    let quiet := ∀ p, p < 4 → (s.hostPort p).writes = []
    (∀ n k, let x := (s.reel n).sector k
      (x.dirty = 0 → ∃ u, exec (.l1Writeback n k) s = .next u ∧ (u.reel n).sector k = Sector.empty ∧ u.reqs = s.reqs ∧ SameMemory s u) ∧
      (x.dirty ≠ 0 → ∃ (u : State) (q : Req), exec (.l1Writeback n k) s = .next u ∧ (u.reel n).sector k = { x with dirty := 0 } ∧
        u.reqs = (s.followBack n k q.id).reqs ++ [q] ∧ q.after = s.backsOf n k ∧ q.op = .writeback ∧ q.reel = n ∧ q.data = x.data.zeroExtend 2048 ∧ SameMemory s u)) ∧
    (∀ f line, ∃ u, exec (.farCacheDrop f line) s = .next u ∧ u = { s with fields := u.fields } ∧ ∀ x ∈ (u.field f).far, x.1 ≠ line) ∧
    (∀ line f, quiet → f < 42 → (s.dir line).pending.getLsbD f = true → ∃ u, exec (.invalidationAck line f) s = .next u ∧
      (∀ g, (u.dir line).pending.getLsbD g = (decide (g ≠ f) && (s.dir line).pending.getLsbD g)) ∧
      (∀ x ∈ (u.field f).far, x.1 ≠ line) ∧ SameMemory s u) ∧
    (∀ line, ∃ u, exec (.directoryEvict line) s = .next u ∧ (u.dir line).sharers = 0 ∧
      (u.dir line).pending = (s.dir line).pending ||| (s.dir line).sharers ∧ SameMemory s u) ∧
    (∀ line, quiet → ∃ u, exec (.hostSnoopResponse line) s = .next u ∧ (u.dir line).snoop = false ∧
      (u.dir line).pending = (s.dir line).pending ∧ SameMemory s u) ∧
    (∀ id q, s.req? id = some q → q.hit = none → ∃ u, exec (.requestResend id) s = .next u ∧ u.req? id = some { q with dup := q.dup + 1 } ∧
      SameMemory s u) ∧
    (∀ id, exec (.replyAck id) s = .next { s with replays := s.replays.filter fun x => x.req != id }) ∧
    (∀ c x rest, (s.ctx c).records = x :: rest → (s.ctx c).fqOpen = false → s.faultBlocked c = false → s.faultSlot c % 64 = 0 →
      s.faultSlot c < dramTop → s.dir (s.faultSlot c / 256) = Dir.none → pure →
      ∃ u, exec (.faultRecordAppend c) s = .next u ∧ (u.ctx c).records = rest ∧ u.ev c 0 = s.ev c 0 + 1 ∧
        stored u (s.faultSlot c) (x.bytes (s.ev c 0 + 1))) ∧
    (∀ id f v, (s.invs.find? fun x => x.id == id) = some v → s.allDone v.after 3 = true → f < 42 → v.waiting.getLsbD f = true →
      (v.removed.getLsbD f = false → ∃ u, exec (.tlbinvAck id f) s = .next u ∧ SameMemory s u ∧
        (∀ l, l ∈ (u.field f).tlb ∨ (∃ n, fieldOfReel n = f ∧ l ∈ (u.reel n).tlb) → v.kind < 2 ∧
          (v.kind = 0 → l.covers v.ctx v.va = false) ∧ (v.kind = 1 → l.ctx ≠ v.ctx)) ∧
        ∃ v' ∈ u.invs, v'.id = id ∧ v'.removed.getLsbD f = true ∧ v'.waiting = v.waiting) ∧
      (v.removed.getLsbD f = true → s.reelRuns v.reel = true → (∀ l ∈ v.lines, (s.dir l).pending = 0) →
        (∀ i ∈ v.reqs, ∀ q, s.req? i = some q → fieldOfReel q.reel = f → s.reqDone q 3 = true) → ∃ u, exec (.tlbinvAck id f) s = .next u ∧
        ∀ v' ∈ u.invs, v'.id = id → v'.waiting.getLsbD f = false)) ∧
    (∀ st page c, conv s st = none → ((s.ageing? st).registry.find? fun e => e.1 == page) = some (page, c) → s.kvDue page c = true →
      firstCode (s.memBytes (65536 * page) 32) = none → ∃ u, exec (.kvConversionStart st page) s = .next u ∧
        conv u st = some { page := page, ctx := c, step := .staging } ∧ SameMemory s u) ∧
    (∀ st c, conv s st = some c → c.step = .staging → s.kvHeaderPoisoned c.page = false → s.kvState c.page = some 1 → ∃ u, exec (.kvClosing st) s = .next u ∧
      conv u st = some { c with step := .closing } ∧ u.kvClosed c.page = true ∧ SameMemory s u) ∧
    (quiet → ∀ st c, conv s st = some c → s.kvHeaderPoisoned c.page = true → ∀ i,
      (c.step = .staging ∧ i = .kvClosing st) ∨ (c.step = .closing ∧ i = .kvConverting st) → ∃ u, exec i s = .next u ∧
        conv u st = none ∧ (∀ e ∈ (u.ageing? st).registry, e.1 ≠ c.page) ∧ SameMemory s u) ∧
    (∀ st c, conv s st = some c → c.step = .closing → pure → ∃ u, exec (.kvConverting st) s = .next u ∧
      conv u st = some { c with step := .converting } ∧ stored u (65536 * c.page + 3) [2]) ∧
    (∀ st c, quiet → conv s st = some c → c.step = .converting → pure → (s.convertedBody (65536 * c.page)).length = 65472 →
      ∃ u, exec (.kvFlip st) s = .next u ∧ conv u st = none ∧ (u.ageing? st).done = (s.ageing? st).done + 1 ∧
        u.memWord (65536 * c.page + 2) 1 = 4 ∧ u.memWord (65536 * c.page + 3) 1 = 3 ∧
        u.memWord (65536 * c.page + 4) 2 = (s.memWord (65536 * c.page + 4) 2 + 1) % 65536 ∧
        u.memWord (65536 * c.page + 24) 8 = s.tick % 2 ^ 64 ∧ (∀ e ∈ (u.ageing? st).registry, e.1 ≠ c.page) ∧
        ∀ a, a < 65536 * c.page ∨ 65536 * c.page + 65536 ≤ a → u.memByte a = s.memByte a) ∧
    (∀ port pa bs relaxed, quiet → port < 4 → (s.hostPort port).serves = true → inHdm pa bs.length = true →
      (relaxed = true ∨ ((s.hostPort port).order.filter fun l => (s.dir l).pending != 0) = []) →
      s.hostJudge pa (cleanBytes bs) = .allow → pure → ∃ u, exec (.hostMemWrite port pa ⟨bs, false⟩ relaxed) s = .next u ∧ stored u pa bs) ∧
    (∀ port pa bs relaxed, quiet → port < 4 → (s.hostPort port).serves = true → inHdm pa bs.length = true →
      (relaxed = true ∨ ((s.hostPort port).order.filter fun l => (s.dir l).pending != 0) = []) →
      let c := originCode 11 63 s.quedon.rasNext
      s.hostJudge pa (bs.map fun b => (b, some c)) = .allow → ∃ u, exec (.hostMemWrite port pa ⟨bs, true⟩ relaxed) s = .next u ∧
        ∀ k, k < bs.length → (u.memByte (pa + k)).2 = some c) ∧
    (∀ port pa n, port < 4 → (s.hostPort port).serves = true → inHdm pa n = true → (∀ l ∈ linesOf pa n, s.lineDone l = true) →
      (∀ x ∈ pagesOf pa n, s.kvClosed x = false) → ∃ u, exec (.hostMemRead port pa n) s = .next u ∧
        u.sent = s.sent ++ [.hostData port pa (s.memBytes pa n)] ∧ (∀ l ∈ linesOf pa n, (u.dir l).host = true) ∧ SameMemory s u) ∧
    (∀ pa bs, bs ≠ [] → hostBase ≤ pa → pa + bs.length ≤ hostTop → pure →
      ∃ u, exec (.hostSnoop pa ⟨bs, false⟩) s = .next u ∧ stored u pa bs) ∧
    (∀ x : PeerTransfer, let w := s.peerWindow x.window
      let va := w.base + Sys2Proof.word x.offset
      (s.peerPort x.port).up = true →
      ((s.peerSeen.find? fun y => y.sender == x.sender && y.tag == x.tag) = none →
        (s.peerAccepts x = false → ∃ u, exec (.peerTransferArrival x) s = .next u ∧ SameMemory s u ∧
          u.sent = s.sent ++ [.peerReply x.port { sender := x.sender, tag := x.tag, accepted := false, n := 0 }]) ∧
        (s.peerAccepts x = true → x.poisoned = false → x.bytes ≠ [] → va.toNat % 65536 + x.bytes.length ≤ 65536 → ∀ pa,
          s.peerXlate w.ctx va = .at_ pa false → pure → ∃ u, exec (.peerTransferArrival x) s = .next u ∧ stored u pa x.bytes)) ∧
      (∀ y, (s.peerSeen.find? fun y => y.sender == x.sender && y.tag == x.tag) = some y → s.pendSent = [] →
        exec (.peerTransferArrival x) s = .next { s with sent := s.sent ++ [.peerReply x.port y] }))

/-- R163, R168, R170, R174, R177, R187, R188, R190, R191, R291 to R293, R298 to R300, R302, R304, R306 to R308, R314 to R322, R378
to R380, R398, R399: steps of engines, lines, kites and links. Units of COPY, COPY2D, GATHR and SCATR move their bytes (MovesUnits),
those of SFEED, PMARK and SDRAIN their flits (StreamUnits), KVLD, KVAPP and KVSEAL act at the home of their page (KvUnits), and
the configuration unit performs KFREE, KCTX, KLDW, KSWAP, KMMA, KROUTE, KUNROUTE and KQRY (KiteUnits), each in its definition's
words. A command starts; a FILL writes its pattern over about as many bytes as the step names, up to the end of a granule; a
command that has ended writes its token; the configuration unit performs the command whose turn it is (KFUSE makes a kite, KCLK
asks for its divider); a flit in flight reaches the sink; a mark passes a ws kite with the lower level and swaps its planes
where a KSWAP awaits one, and a data token leaves the results of the cells; a peer's acknowledgement counts the bytes of its
tag, its refusal, a performed reduction and a timeout end a command with 7, 0 and 16; a replay is counted, a link goes down and
comes up, its fields suspect but in Safe Service (R422); a host port that goes down counts the requests that go over another
port, at the port that went down, the model's reading of R464 (log entry 53). A command that needs a gated field waits (R450). That a piece of a FILL is widened to whole granules is the model's
choice (log entry 73). -/
def Obligations.EngineEvents : Prop :=
  MovesUnits ∧ StreamUnits ∧ KvUnits ∧ KiteUnits ∧ ∀ (s : State),
    let settled (c : Cmd) := ∀ l ∈ c.lines, (s.dir l).pending = 0
    let here (c : Cmd) := (s.parts.find? fun p => p.handle == c.part && p.saved.any (·.1 == p.index c.reel)) = none
    (∀ n e c, startable (s.reel n) e = some c → s.partRuns c.part = true → s.cmdReady c = true →
      let s1 := s.setCmd { c with started := true }
      (∀ k, s1.startCheck c = some k → exec (.engineCommandStart n e) s = .next (s1.endCmd c.id k)) ∧
      (s1.startCheck c = none → exec (.engineCommandStart n e) s = .next s1 ∧
        (c.reel = n → c.eng = e → here c → { c with started := true } ∈ (s1.reel n).queue e))) ∧
    (∀ id n c k, s.cmd? id = some c → c.ending = some k → settled c → exec (.engineUnitDone id n) s = .next (s.finishCmd c k)) ∧
    (∀ id n c, s.cmd? id = some c → c.opc = 0xA6 → c.eng = .copy → c.ending = none → c.started = true → s.partRuns c.part = true →
      c.held = none → c.walk = none → c.bits 0 2 = 1 → 0 < n → c.prog < c.c.toNat →
      let d := c.a + Sys2Proof.word c.prog
      let m := wholeGranules d n (min (c.c.toNat - c.prog) (1024 - d.toNat % 1024))
      let x := s.reel c.reel
      d.toNat + m ≤ 0x80000 → (∀ b ∈ lsBanksOf d.toNat m, (x.lsBank b).supply = .full) → (∀ g, x.lsPsn.get false g = false) →
        min n (min (c.c.toNat - c.prog) (1024 - d.toNat % 1024)) ≤ m ∧ m ≤ n + 3 ∧
        ∃ u, exec (.engineUnitDone id n) s = .next u ∧
          (∀ k, k < m → (u.reel c.reel).ls.get 0 (d.toNat + k) = byteOf c.b ((d.toNat + k) % 8)) ∧
          (∀ k, k < d.toNat ∨ d.toNat + m ≤ k → (u.reel c.reel).ls.get 0 k = x.ls.get 0 k)) ∧
    (∀ part p c, s.partByHandle? part = some p → p.suspended = false → s.configTurn? p = some c →
      c.ending = none → c.held = none → c.walk = none → s.cmdReady c = true → (∀ f ∈ s.configFields p c, (s.field f).gated = false) →
      let c' := { c with started := true }
      exec (.configUnitPerform part) s = .next ((s.setCmd c').configStep p c') ∧
      (c.opc = 0xB9 → c.eng = .config → ∀ k, (s.kites.find? fun k => Sys2Proof.word k.handle == c.a && k.handle != 0 && k.ctx == c.ctx && k.part == c.part) = some k →
        k.halted = false → c.b ≠ 0 → c.b.toNat ≤ 8 → ∃ u, exec (.configUnitPerform part) s = .next u ∧
          (u.kite? k.handle).map (·.clkReq) = some (some c.b.toNat)) ∧
      (c.opc = 0xB0 → c.eng = .config → let bx := bitsOf c.a 0 16
        let by_ := bitsOf c.a 16 16
        let bw := bitsOf c.a 32 16
        let bh := bitsOf c.a 48 16
        p.bx c.reel = bx → p.by_ c.reel = by_ → 0 < bw → 0 < bh → bx + bw ≤ 11 * p.w → by_ + bh ≤ 11 * p.h → bitsOf c.b 0 8 ≠ 0 →
        s.modeOk c.cmd.toNat c.ty = true →
        (∀ k ∈ s.kites, k.part = p.handle → ∀ i j, i < bw → j < bh → k.covers (bx + i) (by_ + j) = false) →
        (∀ i j, i < bw → j < bh → s.blockFree (p.reel (bx + i) (by_ + j)) = true) →
        ∃ (u : State) (k : Kite), exec (.configUnitPerform part) s = .next u ∧ k ∈ u.kites ∧ k.handle = Config.handle s.nextId ∧
          k.ctx = c.ctx ∧ k.part = c.part ∧ k.bx = bx ∧ k.by_ = by_ ∧ k.bw = bw ∧ k.bh = bh ∧ k.mode = c.cmd.toNat ∧ k.prec = c.ty ∧
          k.words = [] ∧ k.active = [] ∧ k.halted = false)) ∧
    (∀ id l f rest, (s.lines.find? fun x => x.id == id) = some l → l.stopped = false → s.partRuns l.part = true → l.buf = f :: rest →
      ∃ u, exec (.lineFlitDelivery id) s = .next u ∧
        (u.lines.find? fun x => x.id == id) = some { l with buf := rest, arrived := l.arrived ++ [f] } ∧ SameMemory s u) ∧
    (∀ h k l f hs o, s.kite? h = some k → k.halted = false → k.mode = 0 → 0 < k.bh → k.sending = [] → s.partRuns k.part = true →
      (∀ rd ∈ s.kiteRows k, (s.field (rd / 11)).gated = false) →
      ((s.kiteInputs k).filterMap fun x => x.arrived.head?.map fun f => (x.snk, f)) = (l, f) :: hs →
      hs.length + 1 = (s.kiteInputs k).length → headsPair ((l, f) :: hs) = true →
      s.kiteOutputs k = [o] → o.space = true → o.op = 0 → (s.lines.find? fun x => x.id == o.id) = some o → o.gather = [] →
      ∃ u, exec (.kiteTokenPass h) s = .next u ∧
        (f.mark = true →
          (u.lines.find? fun x => x.id == o.id).map (·.buf) =
            some (o.buf ++ [markFlit f.rnd (((l, f) :: hs).foldl (fun n x => min n x.2.lvl) 3) (k.outTag ((l, f) :: hs) o.src)]) ∧
          (u.kite? h).map (·.active) = some (if k.swap.isSome then k.shadow else k.active)) ∧
        (f.mark = false →
          let x := k.wsToken (fun n => Config.freeWord (s.draws + n)) ((l, f) :: hs) o.src.b
          (u.lines.find? fun x => x.id == o.id).map (·.buf) =
            some (o.buf ++ [dataFlit f.rnd (k.outTag ((l, f) :: hs) o.src) x.1 x.2 (BitVec.allOnes 32)]))) ∧
    (∀ port tag o c, (s.peerOut.find? fun x => x.tag == tag) = some o → s.cmd? o.cmd = some c → c.ending = none →
      (s.peerPort port).up = true →
      exec (.peerAcknowledge port tag true) s = .next (s.endCmd c.id 7) ∧
      (o.red = 0 → exec (.peerAcknowledge port tag false) s =
        .next (State.moved { s with peerOut := s.peerOut.filter fun x => x != o } c o.units))) ∧
    (∀ port id c, s.cmd? id = some c → c.sent.isSome = true → c.ending = none → c.red ≠ 0 →
      ((s.peerPort port).up = true →
        (c.i0 = c.total → exec (.reductionAnswer ⟨port, id⟩ true) s = .next (s.endCmd id 0)) ∧
        ∃ u : State, exec (.reductionAnswer ⟨port, id⟩ false) s = .next (u.endCmd id 16) ∧ u.reels = s.reels) ∧
      (∀ t, c.sent = some t → t + s.peertmo.toNat < s.tick → ∃ u : State, exec (.peerTimeout id) s = .next (u.endCmd id 16) ∧ u.reels = s.reels)) ∧
    (∀ p, let h := s.hostPort p
      let g := s.peerPort p
      (∃ u, exec (.linkReplay (.host p)) s = .next u ∧ u.hostPort p = { h with crc := h.crc + 1, replays := h.replays + 1 }) ∧
      (∃ u, exec (.linkReplay (.peer p)) s = .next u ∧ u.peerPort p = { g with crc := g.crc + 1, replays := g.replays + 1 }) ∧
      (∃ u, exec (.linkDown (.host p)) s = .next u ∧ SameMemory s u ∧ u.hostPort p = { h with
        up := false, downs := h.downs + 1
        resent := h.resent + BitVec.ofNat 64 (s.reqs.filter fun q => decide (hostBase ≤ q.homePa) &&
          s.reqPort q q.homePa == some p && !s.portDown q q.homePa && !u.portDown q q.homePa).length }) ∧
      (∃ u, exec (.linkDown (.peer p)) s = .next u ∧ (u.peerPort p).up = false ∧ (u.peerPort p).downs = g.downs + 1 ∧ SameMemory s u) ∧
      (∃ u, exec (.linkRetrained (.host p)) s = .next u ∧ (u.hostPort p).up = true ∧
        ((u.hostPort p).lanes = 16 ∨ (u.hostPort p).lanes = 8) ∧
        ((u.hostPort p).rate = 128 ∨ (u.hostPort p).rate = 64 ∨ (u.hostPort p).rate = 32) ∧ SameMemory s u) ∧
      (∃ u, exec (.linkRetrained (.peer p)) s = .next u ∧ (u.peerPort p).up = true ∧ SameMemory s u)) ∧
    (∀ f x y,
      let marks (u : State) (n : Nat) : Prop := s.fw.devMode ≠ .safe → (u.field n).suspect = true
      (∃ u, exec (.linkDown (.hop f x y)) s = .next u ∧ marks u f ∧ (∀ l ∈ s.lines, l.stopped = false → s.crossesHop l f x y = true →
        ∀ m ∈ u.lines, m.id = l.id → m.stopped = true)) ∧
      (∃ u, exec (.linkDown (.channel f x)) s = .next u ∧ marks u (stackField f)) ∧
      (∃ u, exec (.linkDown (.seam f x y)) s = .next u ∧ marks u f ∧ marks u (acrossEdge f x)) ∧
      (∃ u, exec (.linkDown (.vbus f x y)) s = .next u ∧ marks u f))

/-- R22, R216, R352 to R358, R360 to R365, R370: hardware queues and their commands. A doorbell moves WRIDX, one beyond the ring
faults the queue; a well-formed packet is fetched and becomes the head, one that cannot be read faults the queue; a LAUNCH
starts its strand on the anchor reel in user mode, once its clocks run (R450); a SIGNAL stores its value, a NOP and a BARRIER-AND whose entries are all
unused complete; a watched entry that holds is met; a task with nothing left completes with EV1; contexts, partitions and queues
are created, destroyed, granted, freed, paused and resumed. DESTROY with KILL discards the head packet and every BARRIER-AND
watch and kills each task of the queue in flight: its strands leave or drain, its fabric and unanswered SPAWNs go, TASK_KILLED
is recorded once for each, and no task completes by it; it passes over a task whose completion value is written, which is not
counted KILLED, the model's choice (log entry 47). -/
def Obligations.QueueEvents : Prop :=
  ∀ (s : State) (q : Nat),
    let x := s.queue q
    let f := fieldOfReel (s.anchorOf x)
    (q < 1024 → x.state = .active ∨ x.state = .paused → ∀ v : Word, x.wridx < v.toNat →
      (v.toNat ≤ x.rdidx + 2 ^ x.logn → ∃ u, exec (.doorbell q v) s = .next u ∧ u.queue q = { x with wridx := v.toNat }) ∧
      (x.rdidx + 2 ^ x.logn < v.toNat → ∃ u, exec (.doorbell q v) s = .next u ∧ (u.queue q).state = .faulted ∧ (u.queue q).errcode = 5)) ∧
    (∀ i b, (i = .packetFetch ⟨q, b⟩ ∧ x.state = .active ∧ x.rdidx < x.wridx ∧ x.head = none ∧ x.mismatch = none) ∨
        (i = .seqRecheck ⟨q, b⟩ ∧ x.mismatch.isSome = true) →
      ∀ pa kv, s.ownXlate true f x.ctx (x.ring + Sys2Proof.word (128 * (x.rdidx % 2 ^ x.logn))) .read = .at_ pa kv →
      s.ownReadHeld f pa kv = false →
      (x.state = .active → (firstCode (s.memBytes pa 128)).isSome = true ∨ (b = true ∧ hostBase ≤ pa) → ∃ u, exec i s = .next u ∧
        (u.queue q).state = .faulted ∧ (u.queue q).errcode = 1 ∧ (u.queue q).rdidx = x.rdidx ∧ (u.queue q).head = x.head) ∧
      (firstCode (s.memBytes pa 128) = none → b = false ∨ pa < hostBase →
      let p : Packet := { index := x.rdidx, started := false, met := 0, signalled := none
                          words := (upto 16).map fun i => Sys2Proof.word (natOfBytes (plainBytes (((s.memBytes pa 128).drop (8 * i)).take 8))) }
      p.seq = x.rdidx % 65536 → p.ok = true →
      exec i s = .next (s.setQueue q { x with rdidx := (x.rdidx + 1) % 2 ^ 64, head := some p, mismatch := none }))) ∧
    (∀ p k s1 n, s.takeHead q 1 = some (p, k, s1) → s.reelRuns (p.reel 0 0) = true → (s1.reel (p.reel 0 0)).freeSlot? = some n →
      ∃ u, exec (.launchPacket q) s = .next u ∧
        let t := u.slot { reel := p.reel 0 0, slot := n }
        t.phase = .live ∧ t.mode = .user ∧ t.pc = pkWord k.words 1 ∧ t.ctx = x.ctx ∧ t.part = p.handle ∧ t.getS 1 = SReg.clean (pkWord k.words 2) ∧
        t.getS 2 = SReg.clean (Sys2Proof.word p.handle) ∧ t.getS 3 = SReg.clean (Sys2Proof.word k.seq) ∧
        t.prio = s.clampPrio .user x.ctx (bitsOf x.cls (5 * k.cls) 5) ∧ (∃ y ∈ u.tasks, t.task = some y.id ∧ y.sigAddr = k.sigAddr) ∧
        (u.queue q).head = none ∧ (u.queue q).inflt = x.inflt + 1) ∧
    (∀ p k s1, s.takeHead q 4 = some (p, k, s1) → ∃ u, exec (.nopPacket q) s = .next u ∧ (u.queue q).head = none ∧ SameMemory s u) ∧
    (x.watch = none → x.errors = [] → ∀ p k s1, s.takeHead q 3 = some (p, k, s1) → k.irq = false → k.signalled = none → k.sigAddr ≠ 0 → k.sigKind = 0 →
      ∀ pa, s.ownXlate true f x.ctx k.sigAddr .write = .at_ pa false → pa < dramTop → pa % 8 = 0 → s.dir (pa / 256) = Dir.none →
      s.replayFull (s.anchorOf x) (s.homeField pa) = false → (∀ g, s.mpsn.get false g = false) → ∃ u, exec (.signalPacket q) s = .next u ∧ u.memWord pa 8 = k.sigVal.toNat ∧
        (u.queue q).head = none ∧ (u.queue q).watch = none) ∧
    (∀ p k s1, s.takeHead q 2 = some (p, k, s1) → (∀ i, i < 4 → k.depCond i = 0) → k.met = 0 → k.signalled = none → k.sigAddr = 0 →
      k.irq = false → ∃ u, exec (.barrierAndPacket q) s = .next u ∧ (u.queue q).head = none ∧ (u.queue q).watch = none ∧ SameMemory s u) ∧
    (∀ k i pa kv, x.watch = some k → k.type = 2 → k.signalled = none → i < 4 → k.met.getLsbD i = false → k.depCond i ≠ 0 →
      s.ownXlate true f x.ctx (k.depAddr i) .read = .at_ pa kv → s.ownReadHeld f pa kv = false → firstCode (s.memBytes pa 8) = none →
      depHolds (k.depCond i) (Sys2Proof.word (natOfBytes (plainBytes (s.memBytes pa 8)))) (k.depVal i) = true →
      setBit k.met i true ≠ 15 →
      exec (.depWatchWake q i) s = .next (s.setQueue q { x with watch := some { k with met := setBit k.met i true } })) ∧
    (∀ id t p, s.task? id = some t → s.taskBusy id = false → s.releaseFabric id = s → t.killed = false → t.signalled = none →
      s.partByHandle? t.part = some p → s.flushTask p = s → s.taskWritten p id = true → t.sigAddr = 0 →
      ∃ u, exec (.taskComplete id) s = .next u ∧ u.task? id = none ∧ u.ev t.ctx 1 = s.ev t.ctx 1 + 1 ∧
        (u.queue t.queue).inflt = (s.queue t.queue).inflt - 1) ∧
    (∀ port c, s.namesCtx port c = true →
      (s.cctlDue port 1 = true → (s.ctx c).live = false → s.ctxDescOk c = true → ∃ u, exec (.contextCreate port c) s = .next u ∧
        (u.ctx c).live = true ∧ (u.ctx c).root = s.ctxDescWord c 0 ∧ (u.ctx c).fqBase = s.ctxDescWord c 1 ∧
        bitsOf (u.hostPort port).cctl 8 8 = 0) ∧
      (s.cctlDue port 2 = true → (s.ctx c).live = true → (∀ p ∈ s.parts, p.ctx ≠ c) → (∀ y ∈ s.queues, y.2.ctx = c → y.2.state = .disabled) →
        ∃ u, exec (.contextDestroy port c) s = .next u ∧ (u.ctx c).live = false ∧ bitsOf (u.hostPort port).cctl 8 8 = 0) ∧
      (s.cctlDue port 3 = true → (s.ctx c).live = true →
        ∀ fx fy, s.place c (bitsOf (s.hostPort port).cdata 0 3) (bitsOf (s.hostPort port).cdata 3 3) = some (fx, fy) →
        ∃ (u : State) (p : Partition), exec (.grantPartition port c) s = .next u ∧ u.parts = s.parts ++ [p] ∧ p.handle = Config.handle s.nextId ∧ p.ctx = c ∧
          p.fx = fx ∧ p.fy = fy ∧ (u.hostPort port).cdata = Sys2Proof.word (Config.handle s.nextId))) ∧
    (∀ port p, s.cctlDue port 4 = true → s.part? (bitsOf (s.hostPort port).cctl 32 6) (s.hostPort port).cdata.toNat = some p → s.partBusy p = false →
      ∃ u, exec (.freePartition port) s = .next u ∧ u.parts = s.parts.filter (fun y => y.handle != p.handle) ∧
        ∀ k ∈ u.kites, k.part ≠ p.handle) ∧
    (∀ port, (s.qctlDue port q 1 = true → x.state = .disabled → s.queueDescOk x = true → ∃ u, exec (.queueCreate port q) s = .next u ∧
        (u.queue q).state = .active ∧ (u.queue q).wridx = x.rdidx ∧ (u.queue q).inflt = 0) ∧
      (s.qctlDue port q 2 = true → x.state = .active ∨ x.state = .paused ∨ x.state = .faulted → ∃ u, exec (.queueDestroy port q) s = .next u ∧
        ((u.queue q).state = .draining ∨ (u.queue q).state = .disabled)) ∧
      (s.qctlDue port q 3 = true → x.state = .active ∨ x.state = .paused ∨ x.state = .faulted →
        ∃ u, exec (.destroyWithKill port q) s = .next u ∧ (u.queue q).head = none ∧
          ((u.queue q).state = .draining ∨ (u.queue q).state = .disabled) ∧ (∀ k, (u.queue q).watch = some k → k.type ≠ 2) ∧
          (u.queue q).killed = x.killed + (s.tasks.filter fun t => t.queue == q && !t.killed && t.signalled.isNone).length ∧
          (∀ t ∈ s.tasks, t.queue = q → t.killed = false → t.signalled = none → (u.queue q).errcode = 8 ∧
            (∀ r, (u.slot r).task = some t.id → (u.slot r).phase = .free ∨ (u.slot r).phase = .draining) ∧
            (∀ k ∈ u.kites, k.task ≠ some t.id) ∧ (∀ l ∈ u.lines, l.task ≠ some t.id) ∧ (∀ y ∈ u.spawns, y.task ≠ some t.id) ∧
            ∀ y ∈ u.tasks, y.id = t.id → y.killed = true) ∧
          ∀ c k, u.ev c k = s.ev c k) ∧
      (s.qctlDue port q 4 = true → x.state = .active → ∃ u, exec (.pauseQueue port q) s = .next u ∧ (u.queue q) = { x with state := .paused }) ∧
      (s.qctlDue port q 5 = true → x.state = .paused → ∃ u, exec (.resumeQueue port q) s = .next u ∧ (u.queue q) = { x with state := .active }))

/-- R405 to R410, R415, R421, R433 to R436: pre-emption and resets. SUSPEND, EVICT and RESTORE start the command in progress; it
stops the victim's strands with their pc; a claimed unit is scanned out and only device strands stay on the reel; a reset of a
strand, an engine, a reel, a kite, a field, a partition, a port, the device or Quedon leaves what R433 says; a warm one keeps
the power manager's state (R442, R443, R448, R449), and does nothing once the core rail is off (R449). That the blocks of RESET
targets are counted over the whole wafer, and that memory lost at a cold reset reads as at State.reset, are the model's choices
(log entries 40 and 5). -/
def Obligations.ResetEvents : Prop :=
  ∀ (s : State) (target : Word) (rep : StartReport),
    let asked (level : Nat) : Prop := s.fwDue 6 = true ∧ s.fwArg 0 = Sys2Proof.word level ∧ s.fwArg 1 = target
    let starts (i : Instr) (n op : Nat) : Prop := s.fwDue n = true → s.pmt.busy = false → ∃ u, exec i s = .next u ∧ u.pmt.busy = true ∧
      u.pmt.op = op ∧ u.pmt.viaFw = true ∧ u.pmt.jVict = bitsOf (s.fwArg 0) 0 6 ∧ u.pmt.jClaim = bitsOf (s.fwArg 0) 8 6 ∧ u.pmt.jPart = s.fwArg 1
    starts .suspendCtx 1 1 ∧ starts .evictCtx 2 3 ∧ starts .restoreCtx 3 2 ∧
    (s.fwDue 4 = true → ∃ u, exec .withholdSuspect s = .next u ∧ u.fw.withhold = true ∧ u.fw.reqStatus = 0) ∧
    (s.fwDue 5 = true → ∃ u, exec .offerSuspect s = .next u ∧ u.fw.withhold = false ∧ u.fw.reqStatus = 0) ∧
    (s.pmt.busy = true → s.fw.held = [] →
      (s.pmtRefusal ≠ 0 → (∀ p, s.part? s.pmt.jVict s.pmt.jPart.toNat = some p → s.pmt.op = 2 ∨ p.stopped = false ∨ p.suspended = true) →
        ∃ u, exec .pmtCommandDone s = .next u ∧ u.pmt.busy = false ∧ u.pmt.code = s.pmtRefusal) ∧
      (s.pmtRefusal = 0 → s.pmt.op = 1 → ∀ p r, s.part? s.pmt.jVict s.pmt.jPart.toNat = some p → (r, s.slot r) ∈ s.victims p →
        (s.slot r).phase ≠ .suspended → (s.slot r).kvHold = none → ∃ u, exec .pmtCommandDone s = .next u ∧
          (u.slot r).phase = .suspended ∧ (u.slot r).pc = (s.slot r).pc ∧ SameMemory s u)) ∧
    (∀ n p, s.suspendedOver n = some p →
      (p.claimed.contains (.block n) = false → s.wanted p (.block n) = true → ∃ u, exec (.scanOutDone (.block n)) s = .next u ∧
        ∃ p' ∈ u.parts, p'.handle = p.handle ∧ .block n ∈ p'.claimed) ∧
      (p.claimed.contains (.reel n) = false → s.wanted p (.reel n) = true → s.owedTo n = false → ∃ u, exec (.scanOutDone (.reel n)) s = .next u ∧
        (∀ k, ((u.reel n).slot k).phase = .free ∨ ((u.reel n).slot k).mode = .device) ∧ (u.reel n).feedQ = [] ∧ (u.reel n).ls = [] ∧
        ∃ p' ∈ u.parts, p'.handle = p.handle ∧ .reel n ∈ p'.claimed)) ∧
    (asked 1 → ∀ r t, (s.strands.find? fun x => x.2.handle == target.toNat && target.toNat != 0) = some (r, t) →
      ∃ u, exec (.resetStrand target) s = .next u ∧ (u.slot r).phase = .free ∧ u.fw.reqStatus = 0) ∧
    (asked 2 → bitsOf target 32 4 = 0 → ∀ n, deviceReel? (bitsOf target 0 16) (bitsOf target 16 16) = some n →
      ∃ u, exec (.resetEngine target) s = .next u ∧ (u.reel n).boundQ = [] ∧ u.fw.reqStatus = 0) ∧
    (asked 3 → ∀ n, deviceReel? (bitsOf target 0 16) (bitsOf target 16 16) = some n →
      ∃ u, exec (.resetReel target) s = .next u ∧ u.reel n = { Reel.reset with cycle := (s.reel n).cycle } ∧ u.fw.reqStatus = 0) ∧
    (asked 4 → ∀ k, (s.kites.find? fun k => k.handle == target.toNat && target != 0) = some k →
      ∃ u, exec (.resetKiteRelease target) s = .next u ∧ (∀ k' ∈ u.kites, k'.handle ≠ k.handle) ∧ u.fw.reqStatus = 0) ∧
    (asked 5 → target.toNat < 42 → (∀ p ∈ s.parts, p.hasField target.toNat = true → p.evicted = true) →
      ∃ u, exec (.resetField target) s = .next u ∧ (u.field target.toNat).tlb = [] ∧ (u.field target.toNat).far = [] ∧ u.fw.reqStatus = 0) ∧
    (asked 6 → ∀ p, s.partByHandle? target.toNat = some p → ∃ u, exec (.resetPartition target) s = .next u ∧
      (∀ k ∈ u.kites, k.part ≠ p.handle) ∧ (∀ l ∈ u.lines, l.part ≠ p.handle) ∧ u.fw.reqStatus = 0) ∧
    (∀ port, port < 4 → s.fwDue 6 = false → ∃ u, exec (.pcieFunctionReset port) s = .next u ∧ (u.hostPort port).up = false ∧
      (u.hostPort port).qctl = 0 ∧ (u.hostPort port).cctl = 0 ∧ (u.hostPort port).msix = false) ∧
    (s.power.railOff = true → exec (.warmDeviceReset rep) s = .next s) ∧
    (s.power.railOff = false → ∃ u, exec (.warmDeviceReset rep) s = .next u ∧ u.reels = [] ∧ u.ctxs = [] ∧ u.parts = [] ∧
      u.queues = [] ∧ u.kites = [] ∧ u.lines = [] ∧ u.tasks = [] ∧ u.tick = s.tick ∧ u.power = { s.power with railOff := u.power.railOff } ∧
      ∀ f, (u.field f).floor = (s.field f).floor ∧ (u.field f).ballast = (s.field f).ballast ∧ (u.field f).hot = (s.field f).hot ∧
        (u.field f).crit = (s.field f).crit) ∧
    (∃ u, exec (.coldDeviceReset rep) s = .next u ∧ u.reels = [] ∧ u.ctxs = [] ∧ u.parts = [] ∧ u.queues = [] ∧ u.kites = [] ∧
      u.lines = [] ∧ u.tasks = [] ∧ u.tick = 0 ∧ u.mem = []) ∧
    (s.fwDue 6 = false → ∃ u, exec .managementReset s = .next u ∧ u.quedon.session = false ∧
      u.quedon.quietUntil ≤ s.tick + 2000000000 ∧ u.fw.update = none ∧ u.fw.staged = none ∧ SameMemory s u)

/-- R351, R354, R379, R395, R412, R413, R417, R420, R423, R437 to R441, R456 to R458, R466 to R468: errors, defect maps,
firmware and Quedon's messages, with Quedon answering. A session opens, or closes and drops the update under way; an update is
asked for, its image goes to the inactive bank, which is valid only once verified; activation starts Quedon's new bank at once
and the control firmware's after a quiescent point, from which its handover ends with the new bank active or the old one back;
the fused SVN rises and never falls. A factory map is taken as it stands and leaves safe hold. A field's self-test starts and,
passed, offers a healthy field; a detected error of memory poisons it with its origin's code and is logged under the next serial;
a hard fault makes its field suspect. MSI-X of a port, PEERTMO and the ring of a disabled queue take what is written. Quedon
answers an unassigned command with code 1, READ_REG with the register or code 4, WRITE_REG outside a session with 5 and of no
register with 4, PWRCAP with its low 16 bits; RAS_READ with the entry or code 6; GET_RECORD with code 2 or 3, or the record of
the last snapshot. Before the first one GET_RECORD takes a snapshot, the model's choice (log entry 66). A snapshot raises GEN
by one and holds the power record. -/
def Obligations.FirmwareEvents : Prop :=
  ∀ (s : State) (tag : Byte) (c : Component) (img : Image),
    let up := s.quedonUp = true
    let ses := s.quedonUpdates = true ∧ s.quedon.session = true
    let answer (i : Instr) (command code : Byte) (payload : List Byte) : Prop := ∃ u, exec i s = .next u ∧
      u.sent = s.sent ++ [.response tag command code payload] ∧ SameMemory s u
    (s.quedonUpdates = true → exec (.spdmSession true) s = .next { s with quedon := { s.quedon with session := true } } ∧
      exec (.spdmSession false) s = .next { s with quedon := { s.quedon with session := false }, fw := { s.fw with update := none, staged := none } }) ∧
    (ses → s.fw.update = none → exec (.requestUpdate c) s = .next { s with fw := { s.fw with update := some c } }) ∧
    (ses → s.fw.update = some c → (c = .control → s.fw.handover = none ∧ s.fw.activating = none) → ∃ u, exec (.firmwareTransfer c img) s = .next u ∧ u.fw.staged = some img ∧
      (u.fw.inactive c).state = 2) ∧
    (ses → s.fw.update = some c → s.fw.staged = some img → ∃ u, exec (.verifyComplete c) s = .next u ∧
      (u.fw.inactive c).state = (if img.signatureOk && img.component == c && s.fw.minSvn ≤ img.svn && img.lengthOk then 1 else 2) ∧
      u.fw.update = none ∧ u.fw.staged = none) ∧
    (ses → (s.fw.inactive c).state = 1 → s.fw.handover = none → ∃ u, exec (.activateFirmware c) s = .next u ∧
      (c = .quedon → u.fw.quedonActive = 1 - s.fw.quedonActive ∧ u.quedon.session = false) ∧ (c = .control → u.fw.activating = some .control)) ∧
    (s.fw.activating.isSome = true → s.serving = true → s.pmt.busy = false → s.fw.reqStatus ≠ 1 → s.fw.devMode ≠ .booting →
      (s.fw.inactive .control).state = 1 → ∃ u, exec .quiescentPoint s = .next u ∧ u.fw.handover = some s.tick ∧ u.fw.activating = none ∧ u.fw.ctl = []) ∧
    (∀ t, s.fw.handover = some t → s.fw.held = [] →
      ((s.fw.inactive .control).healthy = true → s.tick ≤ t + 500000000 → ∃ u, exec .healthCheckPass s = .next u ∧ u.fw.handover = none ∧
        u.fw.controlActive = 1 - s.fw.controlActive ∧ u.fw.ver = (s.fw.inactive .control).version ∧ u.fw.lastResult = 1) ∧
      (∃ u, exec .healthCheckFail s = .next u ∧ u.fw.handover = none ∧ u.fw.controlActive = s.fw.controlActive ∧ u.fw.rollback = true ∧
        u.fw.lastResult = 3)) ∧
    (ses → ∀ v, s.fw.minSvn < v → exec (.svnRaise v) s = .next { s with fw := { s.fw with minSvn := v } }) ∧
    (∀ port b, port < 4 → (s.hostPort port).up = true → ∃ u, exec (.pcieConfigWrite port b) s = .next u ∧
      u.hostPort port = { s.hostPort port with msix := b }) ∧
    (∀ m : MapImage, s.quedon.session = true → m.kind = 0 → s.mapOk m = true → ∃ u, exec (.mapProvision (some m) none) s = .next u ∧
      u.fw.factory = { valid := true, serial := m.serial, seq := m.seq, entries := m.entries } ∧ u.fw.delta = s.fw.delta ∧ u.fw.safeHold = false ∧
        u.fw.deltaFuse = s.fw.deltaFuse) ∧
    (∀ f, s.fw.devMode = .bringup → s.nextTest = some f → ((upto 42).filter fun f => (s.field f).testing).length < 4 →
      ∃ u, exec (.fieldSelfTestStart f) s = .next u ∧ u.field f = { s.field f with testing := true, offered := false }) ∧
    (∀ f, (s.field f).testing = true → s.fw.devMode = .bringup → ∃ u, exec (.fieldSelfTestDone f true) s = .next u ∧
      u.field f = { s.field f with testing := false, tested := true, testFailed := false, offered := (s.field f).healthy }) ∧
    (∀ d : Detection, d.severity = 1 → d.kind = 1 → ∃ u, exec (.errorDetection d) s = .next u ∧ u.quedon.rasNext = s.quedon.rasNext + 1 ∧
      ∀ pa, d.units = [.mem pa] → (s.memKind? pa).isSome = true →
        (u.memByte pa).2 = some (originCode 1 d.field s.quedon.rasNext)) ∧
    (∀ loc, s.fw.hardFaults.contains loc = true → s.tasks = [] → entryField loc < 42 → ∃ u, exec (.hardFault loc) s = .next u ∧
      (s.fw.devMode ≠ .safe → (u.field (entryField loc)).suspect = true) ∧ u.fw.hardFaults = s.fw.hardFaults.erase loc) ∧
    (∀ port v, port < 4 → (s.hostPort port).up = true → s.fw.devMode ≠ .booting →
      exec (.registerWrite port 0x142000 v) s = .next { s with peertmo := v } ∧
      (∀ q, q < 1024 → (s.queue q).state = .disabled → ∃ u, exec (.registerWrite port (0x100000 + 64 * q) v) s = .next u ∧
        u.queue q = { s.queue q with ring := v })) ∧
    (up → ∀ command, answer (.unassignedCommand tag command) command 1 []) ∧
    (up → ∀ index, (∀ v, s.quedonReg index.toNat = some v → answer (.readReg tag index) 2 0 (bytesOf v 8)) ∧
      (s.quedonReg index.toNat = none → answer (.readReg tag index) 2 4 []) ∧
      (s.quedon.session = false → ∀ v, answer (.writeReg tag index v) 3 5 []) ∧
      (s.quedon.session = true → s.quedonReg index.toNat = none → ∀ v, answer (.writeReg tag index v) 3 4 [])) ∧
    (up → s.quedon.session = true → ∀ v : Word, ∃ u, exec (.writeReg tag 0 v) s = .next u ∧ u.power.pwrcap = v &&& 0xFFFF ∧
      u.sent = s.sent ++ [.response tag 3 0 []]) ∧
    (up → ∀ serial, (∀ e, (s.quedon.ras.find? fun e => e.serial == serial.toNat) = some e → answer (.rasRead tag serial) 4 0 (rasBytes e)) ∧
      ((s.quedon.ras.find? fun e => e.serial == serial.toNat) = none → answer (.rasRead tag serial) 4 6 [])) ∧
    (up → ∀ schema inst, (instances schema.toNat = 0 → answer (.getRecord tag schema inst) 1 2 []) ∧
      (instances schema.toNat ≠ 0 → instances schema.toNat ≤ inst.toNat → answer (.getRecord tag schema inst) 1 3 []) ∧
      (inst.toNat < instances schema.toNat → ∀ k bs, (s.quedon.records.find? fun x => x.1 == recordKey schema.toNat inst.toNat) = some (k, bs) →
        answer (.getRecord tag schema inst) 1 0 bs) ∧
      (inst.toNat < instances schema.toNat → s.quedon.records = [] →
        answer (.getRecord tag schema inst) 1 0 (s.recordOf (s.quedon.gen + 1) schema.toNat inst.toNat))) ∧
    (up → ∃ u, exec .telemetrySnapshot s = .next u ∧ u.quedon.gen = s.quedon.gen + 1 ∧ u.quedon.snapTick = s.tick ∧
      (recordKey 0x11 0, s.powerRecord (s.quedon.gen + 1)) ∈ u.quedon.records)

/-- R442 to R451, R454: the power manager. The floor of a field follows its demand at once and falls by its share, the rest
is ballast; a control interval takes the registers and the measurement, counts the energy above CAP and an overshoot, and sets
ENFW: a raised CAP at once, one lowered below the present power from that power, from where it falls by 0.72 · DOWN W/µs as time
passes; a window's end by the time counter records what is owed. That the ramp starts from ENFW where that lies lower, and that
energy is counted by the average power of each of the interval's 10 µs, are the model's (log entry 113). HOT ends
after 1 ms below its bound; a warning stretches the clock group by one step, up to four, and 1 µs without one takes a
step back; a held divider ends after 1 ms; an idle field with a hint is gated at once, and one that is not idle runs
again; a lease ends at its tick. -/
def Obligations.PowerEvents : Prop :=
  ∀ (s : State) (f rd : Nat),
    let x := s.field f
    let y := s.field (rd / 11)
    let r := rd % 11
    let n := s.groupStretch rd
    let cap := capOf s.power.pwrcap
    let now := s.tick / 1000000
    (s.power.railOff = false → ∀ demand, ∃ u, exec (.currentFloor f demand) s = .next u ∧
      (u.field f).floor = max (1000000 * demand) (x.floor - x.share) ∧ (u.field f).ballast = (u.field f).floor - 1000000 * demand ∧
      SameMemory s u) ∧
    (s.power.railOff = false → s.fw.handover = none → ∀ m : Measurement, (∀ k, k < 42 → m.temps.getD k (s.field k).temp ≤ 115) →
      ∃ u, exec (.controlInterval m) s = .next u ∧ u.power.polNow = s.power.pwrpol ∧ u.power.power = m.power ∧
        u.power.capNow = s.power.pwrcap ∧ u.power.slopeNow = s.power.pwrslope ∧ u.power.tcritNow = s.power.tcrit ∧ u.power.thotNow = s.power.thot ∧
        (s.tick / 1000000 ≤ s.power.windowNo → u.power.sum = (eachMicro m).foldl (· + ·) s.power.sum ∧ u.power.count = s.power.count + 10 ∧
          u.power.above = (eachMicro m).foldl (fun n w => n + (w - s.power.capW)) s.power.above) ∧ (f < 42 → (u.field f).temp = m.temps.getD f x.temp) ∧
        (s.power.capW < cap → u.power.enfw = cap) ∧ (s.power.rampAt = none → m.power ≤ cap → u.power.enfw = cap) ∧
        (cap < s.power.capW → cap < m.power → u.power.enfw = max cap (min s.power.enfw m.power)) ∧
        (u.power.enfw < m.power → u.power.overBit = true) ∧ SameMemory s u) ∧
    (∀ t dt, s.power.rampAt = some t →
      (s.advance dt).power.enfw = max s.power.capW (s.power.rampFrom - 72 * s.power.down * (s.tick + dt - t) / 100000)) ∧
    (∀ w, (now ≤ w → exec (.energyWindow w) s = .next s) ∧
      (w < now → s.power.windowNo < now → ∃ u, exec (.energyWindow w) s = .next u ∧ u.power.windowNo = now ∧
        u.power.owed = (if now = s.power.windowNo + 1 then min 65535 (s.power.above / 1000) else 0) ∧ u.power.above = 0 ∧
        u.power.sum = 0 ∧ u.power.count = 0 ∧ (s.power.count ≠ 0 → u.power.average = s.power.sum / s.power.count) ∧
        u = { s with power := u.power })) ∧
    (∀ t, x.coolSince = some t →
      (t + 1000000 ≤ s.tick → ∃ u, exec (.hotClear f) s = .next u ∧ u.field f = { x with hot := false, coolSince := none }) ∧
      (s.tick < t + 1000000 → exec (.hotClear f) s = .next s)) ∧
    (n < 4 → ∃ u, exec (.stretchWarning rd) s = .next u ∧ (u.field (rd / 11)).stretch.get 0 r = n + 1 ∧
      (u.field (rd / 11)).lastWarn.get 0 r = s.tick ∧ SameMemory s u) ∧
    (0 < n → (∀ d ∈ s.clockGroup rd, (s.field (d / 11)).lastWarn.get 0 (d % 11) + 1000 ≤ s.tick) → ∃ u, exec (.stretchRelax rd) s = .next u ∧
      (u.field (rd / 11)).stretch.get 0 r = n - 1 ∧ SameMemory s u) ∧
    (y.divHold.get 1 r ≠ 1 → y.divHoldAt.get 0 r ≤ s.tick → ∃ u, exec (.dividerHoldEnd rd) s = .next u ∧
      (u.field (rd / 11)).divHold.get 1 r = 1 ∧ SameMemory s u) ∧
    (x.gated = false → s.fieldIdle f = true → x.idleHint = true → ∃ u, exec (.fieldGate f) s = .next u ∧ (u.field f).gated = true ∧
      u = { s with fields := u.fields }) ∧
    (x.gated = true → s.fieldIdle f = false → s.power.ungateAt = none → ∃ u, exec (.fieldUngate f) s = .next u ∧ (u.field f).gated = false ∧
      u.power.ungateAt = some s.tick ∧ SameMemory s u) ∧
    (∀ c l, (s.ctx c).lease = some l → l.kept = none →
      (l.expiry ≤ s.tick → ∃ u, exec (.leaseExpiry c) s = .next u ∧ (u.ctx c).lease = none ∧ SameMemory s u) ∧
      (s.tick < l.expiry → exec (.leaseExpiry c) s = .next s))

/-! ## Where the rest completes -/

/-- R163, R177, R187, R291, R292, R314, R322 to R328, R331, R378, R379, R398, R399, R454: where the tile instructions, BOOST.req
and the steps of engines, configuration unit, lines, kites and links complete, poison of data or not: a tile instruction
that is accepted and finds the tile free and nothing of its strand to wait for, with a clean row operand or clean enabled
keys, moves its pc on and occupies the tile from now; BOOST.req is granted where leases are allowed and the context has no
field to predict for; a command starts, or ends with its token; the configuration unit sets a clock; a flit is delivered; a
ws kite passes a mark; a peer's answer is counted or ends the command; a link replays, goes down, comes up. The grant to such a
context (log entry 90), and that ATADD and ATMAX of a row mark it with no lane enabled too (log entry 109), are the model's
choice. -/
def Obligations.Completions : Prop :=
  (∀ (f : RF) (s : State) (i : Instr), i ∈ [Instr.atld f, .atst f, .atadd f, .atmax f, .atclr f] →
    accepted i s = true → (s.reel s.cur.reel).tileBusy ≤ s.now → (s.me).acqs = [] → (s.me).fences = [] →
    let key := (i = .atadd f ∨ i = .atmax f) ∧ f.sub.getLsbD 0 = true
    (¬ key → (s.rs f.sa).psn = false) →
    (key → ∀ k, k < 64 → (mskOf s.me f).getLsbD k = true → ((s.me).getV f.sa.toNat).code k = none) →
    (i = .atclr f → (s.rs f.sb).psn = false) →
    ∃ u, exec i s = .next u ∧ (u.me).pc = (s.me).pc + 8 ∧ (u.me).phase = (s.me).phase ∧ u.held = s.held ∧
      s.now < (u.reel s.cur.reel).tileBusy ∧ (u.ctx (s.me).ctx).records = (s.ctx (s.me).ctx).records ∧
      (i = .atld f → (u.me).isLive f.dst.toNat = true) ∧
      (i = .atst f ∨ ((i = .atadd f ∨ i = .atmax f) ∧ ¬ key) → (u.reel s.cur.reel).written.getLsbD (bitsOf (s.rs f.sa).val 0 8) = true) ∧
      (i = .atclr f → 0 < (s.rs f.sb).val.toNat → (u.reel s.cur.reel).written.getLsbD (bitsOf (s.rs f.sa).val 0 8) = false)) ∧
  (∀ (h : IF) (s : State), let c := (s.me).ctx
    let us := (s.rs h.sa).val.toNat
    accepted (.boostReq h) s = true → (s.rs h.sa).psn = false → s.fw.handover = none → s.fw.held = [] → s.fw.devMode = .full →
    s.power.boost = true → s.power.maxUs ≠ 0 → 1 ≤ us → us ≤ 1000000 → (∀ p ∈ s.parts, p.ctx = c → p.evicted = true) →
    ∃ u, exec (.boostReq h) s = .next u ∧ (u.me).pc = (s.me).pc + 8 ∧
      (u.ctx c).lease = some { mhz := h.imm.toNat, expiry := s.tick + 1000 * min us s.power.maxUs, kept := none }) ∧
  (∀ (s : State) (n : Nat) (e : Eng) (c : Cmd), startable (s.reel n) e = some c → s.partRuns c.part = true → s.cmdReady c = true →
    let t := s.setCmd { c with started := true }
    t.startCheck c = none → exec (.engineCommandStart n e) s = .next t) ∧
  (∀ (s : State) (id n : Nat) (c : Cmd), s.cmd? id = some c → c.ending = some 0 → (∀ l ∈ c.lines, (s.dir l).pending = 0) →
    exec (.engineUnitDone id n) s = .next (s.finishCmd c 0)) ∧
  (∀ (s : State) (part : Nat) (p : Partition) (c : Cmd) (k : Kite), s.partByHandle? part = some p → p.suspended = false →
    s.configTurn? p = some c → c.ending = none → c.held = none → c.walk = none → s.cmdReady c = true → c.opc = 0xB9 → c.eng = .config →
    (∀ f ∈ s.configFields p c, (s.field f).gated = false) →
    (s.kites.find? fun k => Sys2Proof.word k.handle == c.a && k.handle != 0 && k.ctx == c.ctx && k.part == c.part) = some k →
    k.halted = false → c.b ≠ 0 → c.b.toNat ≤ 8 →
    ∃ u, exec (.configUnitPerform part) s = .next u ∧ (u.kite? k.handle).map (·.clkReq) = some (some c.b.toNat)) ∧
  (∀ (s : State) (l : Line) (f : Flit) (rest : List Flit), (s.lines.find? fun x => x.id == l.id) = some l → l.stopped = false →
    s.partRuns l.part = true → l.buf = f :: rest → ∃ u, exec (.lineFlitDelivery l.id) s = .next u ∧
      (u.lines.find? fun x => x.id == l.id) = some { l with buf := rest, arrived := l.arrived ++ [f] }) ∧
  (∀ (s : State) (k : Kite) (i o : Line) (f : Flit) (rest : List Flit), s.kite? k.handle = some k → k.halted = false → k.mode = 0 →
    0 < k.bh → k.sending = [] → s.partRuns k.part = true → (∀ rd ∈ s.kiteRows k, (s.field (rd / 11)).gated = false) →
    s.kiteInputs k = [i] → i.snk.kind = 3 → i.arrived = f :: rest → f.mark = true → s.kiteOutputs k = [o] → o.space = true →
    o.op = 0 → o.gather = [] → (s.lines.find? fun x => x.id == o.id) = some o → (s.lines.find? fun x => x.id == i.id) = some i →
    o.id ≠ i.id → ∃ u, exec (.kiteTokenPass k.handle) s = .next u ∧
      (u.lines.find? fun x => x.id == i.id).map (·.arrived) = some rest ∧
      (u.lines.find? fun x => x.id == o.id).map (·.buf) =
        some (o.buf ++ [markFlit f.rnd (min 3 f.lvl) (k.outTag [(i.snk, f)] o.src)])) ∧
  (∀ (s : State) (port tag : Nat) (o : PeerOut) (c : Cmd), (s.peerOut.find? fun x => x.tag == tag) = some o →
    s.cmd? o.cmd = some c → c.ending = none → o.red = 0 → (s.peerPort port).up = true →
    ∃ u, exec (.peerAcknowledge port tag false) s = .next u ∧ o ∉ u.peerOut) ∧
  (∀ (s : State) (port id : Nat) (c : Cmd), s.cmd? id = some c → c.sent.isSome = true → c.ending = none → c.red ≠ 0 → c.i0 = c.total →
    (s.peerPort port).up = true → exec (.reductionAnswer ⟨port, id⟩ true) s = .next (s.endCmd id 0)) ∧
  (∀ (s : State) (id t : Nat) (c : Cmd), s.cmd? id = some c → c.ending = none → c.red ≠ 0 → c.sent = some t →
    t + s.peertmo.toNat < s.tick → ∃ u : State, exec (.peerTimeout id) s = .next (u.endCmd id 16) ∧ u.reels = s.reels) ∧
  (∀ (s : State) (p : Nat),
    (∃ u, exec (.linkReplay (.host p)) s = .next u ∧ (u.hostPort p).replays = (s.hostPort p).replays + 1) ∧
    (∃ u, exec (.linkDown (.host p)) s = .next u ∧ (u.hostPort p).up = false) ∧
    (∃ u, exec (.linkRetrained (.host p)) s = .next u ∧ (u.hostPort p).up = true))

end
end

