-- ==== Sys2Proof/Laws/Dispatch.lean ====
section
/-! SUPPORT. The arm of each constructor, so that no proof unfolds the whole dispatch. -/

namespace Sys2Proof.Machine

variable (s : State)

@[simp] theorem exec_nop (g : Guard) : exec (.nop g) s = execNop g s := rfl
@[simp] theorem exec_add (f : RF) : exec (.add f) s = execAdd f s := rfl
@[simp] theorem exec_sub (f : RF) : exec (.sub f) s = execSub f s := rfl
@[simp] theorem exec_mul (f : RF) : exec (.mul f) s = execMul f s := rfl
@[simp] theorem exec_mulh (f : RF) : exec (.mulh f) s = execMulh f s := rfl
@[simp] theorem exec_madd (f : RF) : exec (.madd f) s = execMadd f s := rfl
@[simp] theorem exec_div (f : RF) : exec (.div f) s = execDiv f s := rfl
@[simp] theorem exec_rem (f : RF) : exec (.rem f) s = execRem f s := rfl
@[simp] theorem exec_absd (f : RF) : exec (.absd f) s = execAbsd f s := rfl
@[simp] theorem exec_min (f : RF) : exec (.min f) s = execMin f s := rfl
@[simp] theorem exec_max (f : RF) : exec (.max f) s = execMax f s := rfl
@[simp] theorem exec_and (f : RF) : exec (.and_ f) s = execAnd f s := rfl
@[simp] theorem exec_or (f : RF) : exec (.or_ f) s = execOr f s := rfl
@[simp] theorem exec_xor (f : RF) : exec (.xor_ f) s = execXor f s := rfl
@[simp] theorem exec_andn (f : RF) : exec (.andn f) s = execAndn f s := rfl
@[simp] theorem exec_shl (f : RF) : exec (.shl f) s = execShl f s := rfl
@[simp] theorem exec_shr (f : RF) : exec (.shr f) s = execShr f s := rfl
@[simp] theorem exec_sar (f : RF) : exec (.sar f) s = execSar f s := rfl
@[simp] theorem exec_rol (f : RF) : exec (.rol f) s = execRol f s := rfl
@[simp] theorem exec_clz (f : RF) : exec (.clz f) s = execClz f s := rfl
@[simp] theorem exec_popc (f : RF) : exec (.popc f) s = execPopc f s := rfl
@[simp] theorem exec_brev (f : RF) : exec (.brev f) s = execBrev f s := rfl
@[simp] theorem exec_bfx (f : RF) : exec (.bfx f) s = execBfx f s := rfl
@[simp] theorem exec_bfi (f : RF) : exec (.bfi f) s = execBfi f s := rfl
@[simp] theorem exec_ext (f : RF) : exec (.ext f) s = execExt f s := rfl
@[simp] theorem exec_mov (f : RF) : exec (.mov f) s = execMov f s := rfl
@[simp] theorem exec_sel (f : RF) : exec (.sel f) s = execSel f s := rfl
@[simp] theorem exec_lea (f : RF) : exec (.lea f) s = execLea f s := rfl
@[simp] theorem exec_cmp (f : RF) : exec (.cmp f) s = execCmp f s := rfl
@[simp] theorem exec_plog (f : RF) : exec (.plog f) s = execPlog f s := rfl
@[simp] theorem exec_pmov (f : RF) : exec (.pmov f) s = execPmov f s := rfl
@[simp] theorem exec_addi (f : IF) : exec (.addi f) s = execAddi f s := rfl
@[simp] theorem exec_muli (f : IF) : exec (.muli f) s = execMuli f s := rfl
@[simp] theorem exec_logi (f : IF) : exec (.logi f) s = execLogi f s := rfl
@[simp] theorem exec_shi (f : IF) : exec (.shi f) s = execShi f s := rfl
@[simp] theorem exec_cmpi (f : IF) : exec (.cmpi f) s = execCmpi f s := rfl
@[simp] theorem exec_movi (f : IF) : exec (.movi f) s = execMovi f s := rfl
@[simp] theorem exec_movhi (f : IF) : exec (.movhi f) s = execMovhi f s := rfl
@[simp] theorem exec_br (f : BF) : exec (.br f) s = execBr f s := rfl
@[simp] theorem exec_brr (f : RF) : exec (.brr f) s = execBrr f s := rfl
@[simp] theorem exec_call (f : BF) : exec (.call f) s = execCall f s := rfl
@[simp] theorem exec_callr (f : RF) : exec (.callr f) s = execCallr f s := rfl
@[simp] theorem exec_ret (f : RF) : exec (.ret f) s = execRet f s := rfl
@[simp] theorem exec_loop (f : IF) : exec (.loop f) s = execLoop f s := rfl
@[simp] theorem exec_dbnz (f : IF) : exec (.dbnz f) s = execDbnz f s := rfl
@[simp] theorem exec_exit (f : RF) : exec (.exit f) s = execExit f s := rfl
@[simp] theorem exec_yield (f : RF) : exec (.yield f) s = execYield f s := rfl
@[simp] theorem exec_waitt (f : RF) : exec (.waitt f) s = execWaitt f s := rfl
@[simp] theorem exec_waitq (f : RF) : exec (.waitq f) s = execWaitq f s := rfl
@[simp] theorem exec_spawn (f : RF) : exec (.spawn f) s = execSpawn f s := rfl
@[simp] theorem exec_prio (f : IF) : exec (.prio f) s = execPrio f s := rfl
@[simp] theorem exec_time (f : RF) : exec (.time f) s = execTime f s := rfl
@[simp] theorem exec_strid (f : RF) : exec (.strid f) s = execStrid f s := rfl
@[simp] theorem exec_bkpt (f : IF) : exec (.bkpt f) s = execBkpt f s := rfl
@[simp] theorem exec_ld (f : MF) : exec (.ld f) s = execLd f s := rfl
@[simp] theorem exec_st (f : MF) : exec (.st f) s = execSt f s := rfl
@[simp] theorem exec_ldl (f : MF) : exec (.ldl f) s = execLdl f s := rfl
@[simp] theorem exec_stl (f : MF) : exec (.stl f) s = execStl f s := rfl
@[simp] theorem exec_ldacq (f : MF) : exec (.ldacq f) s = execLdacq f s := rfl
@[simp] theorem exec_strel (f : MF) : exec (.strel f) s = execStrel f s := rfl
@[simp] theorem exec_pref (f : MF) : exec (.pref f) s = execPref f s := rfl
@[simp] theorem exec_cline (f : MF) : exec (.cline f) s = execCline f s := rfl
@[simp] theorem exec_fence (f : MF) : exec (.fence f) s = execFence f s := rfl
@[simp] theorem exec_spkill (f : MF) : exec (.spkill f) s = execSpkill f s := rfl
@[simp] theorem exec_aadd (f : AF) : exec (.aadd f) s = execAadd f s := rfl
@[simp] theorem exec_afadd (f : AF) : exec (.afadd f) s = execAfadd f s := rfl
@[simp] theorem exec_amin (f : AF) : exec (.amin f) s = execAmin f s := rfl
@[simp] theorem exec_amax (f : AF) : exec (.amax f) s = execAmax f s := rfl
@[simp] theorem exec_aand (f : AF) : exec (.aand f) s = execAand f s := rfl
@[simp] theorem exec_aor (f : AF) : exec (.aor f) s = execAor f s := rfl
@[simp] theorem exec_axor (f : AF) : exec (.axor f) s = execAxor f s := rfl
@[simp] theorem exec_axchg (f : AF) : exec (.axchg f) s = execAxchg f s := rfl
@[simp] theorem exec_acas (f : AF) : exec (.acas f) s = execAcas f s := rfl
@[simp] theorem exec_adcas (f : AF) : exec (.adcas f) s = execAdcas f s := rfl
@[simp] theorem exec_amove (f : AF) : exec (.amove f) s = execAmove f s := rfl
@[simp] theorem exec_aadd2 (f : AF) : exec (.aadd2 f) s = execAadd2 f s := rfl
@[simp] theorem exec_waita (f : AF) : exec (.waita f) s = execWaita f s := rfl
@[simp] theorem exec_bara (f : AF) : exec (.bara f) s = execBara f s := rfl
@[simp] theorem exec_barw (f : AF) : exec (.barw f) s = execBarw f s := rfl
@[simp] theorem exec_coll (f : AF) : exec (.coll f) s = execColl f s := rfl
@[simp] theorem exec_vadd (f : RF) : exec (.vadd f) s = execVadd f s := rfl
@[simp] theorem exec_vsub (f : RF) : exec (.vsub f) s = execVsub f s := rfl
@[simp] theorem exec_vmul (f : RF) : exec (.vmul f) s = execVmul f s := rfl
@[simp] theorem exec_vfma (f : RF) : exec (.vfma f) s = execVfma f s := rfl
@[simp] theorem exec_vmin (f : RF) : exec (.vmin f) s = execVmin f s := rfl
@[simp] theorem exec_vmax (f : RF) : exec (.vmax f) s = execVmax f s := rfl
@[simp] theorem exec_vabs (f : RF) : exec (.vabs f) s = execVabs f s := rfl
@[simp] theorem exec_vneg (f : RF) : exec (.vneg f) s = execVneg f s := rfl
@[simp] theorem exec_vdiv (f : RF) : exec (.vdiv f) s = execVdiv f s := rfl
@[simp] theorem exec_vsqrt (f : RF) : exec (.vsqrt f) s = execVsqrt f s := rfl
@[simp] theorem exec_vrcp (f : RF) : exec (.vrcp f) s = execVrcp f s := rfl
@[simp] theorem exec_vrsq (f : RF) : exec (.vrsq f) s = execVrsq f s := rfl
@[simp] theorem exec_vexp2 (f : RF) : exec (.vexp2 f) s = execVexp2 f s := rfl
@[simp] theorem exec_vlog2 (f : RF) : exec (.vlog2 f) s = execVlog2 f s := rfl
@[simp] theorem exec_vround (f : RF) : exec (.vround f) s = execVround f s := rfl
@[simp] theorem exec_vclamp (f : RF) : exec (.vclamp f) s = execVclamp f s := rfl
@[simp] theorem exec_vand (f : RF) : exec (.vand f) s = execVand f s := rfl
@[simp] theorem exec_vor (f : RF) : exec (.vor f) s = execVor f s := rfl
@[simp] theorem exec_vxor (f : RF) : exec (.vxor f) s = execVxor f s := rfl
@[simp] theorem exec_vnot (f : RF) : exec (.vnot f) s = execVnot f s := rfl
@[simp] theorem exec_vshl (f : RF) : exec (.vshl f) s = execVshl f s := rfl
@[simp] theorem exec_vshr (f : RF) : exec (.vshr f) s = execVshr f s := rfl
@[simp] theorem exec_vsar (f : RF) : exec (.vsar f) s = execVsar f s := rfl
@[simp] theorem exec_vmulh (f : RF) : exec (.vmulh f) s = execVmulh f s := rfl
@[simp] theorem exec_vclz (f : RF) : exec (.vclz f) s = execVclz f s := rfl
@[simp] theorem exec_vpopc (f : RF) : exec (.vpopc f) s = execVpopc f s := rfl
@[simp] theorem exec_vacs (f : RF) : exec (.vacs f) s = execVacs f s := rfl
@[simp] theorem exec_vcmp (f : RF) : exec (.vcmp f) s = execVcmp f s := rfl
@[simp] theorem exec_vsel (f : RF) : exec (.vsel f) s = execVsel f s := rfl
@[simp] theorem exec_vmov (f : RF) : exec (.vmov f) s = execVmov f s := rfl
@[simp] theorem exec_vbcast (f : RF) : exec (.vbcast f) s = execVbcast f s := rfl
@[simp] theorem exec_viota (f : RF) : exec (.viota f) s = execViota f s := rfl
@[simp] theorem exec_vins (f : RF) : exec (.vins f) s = execVins f s := rfl
@[simp] theorem exec_vext (f : RF) : exec (.vext f) s = execVext f s := rfl
@[simp] theorem exec_vperm (f : RF) : exec (.vperm f) s = execVperm f s := rfl
@[simp] theorem exec_vshuf (f : RF) : exec (.vshuf f) s = execVshuf f s := rfl
@[simp] theorem exec_vred (f : RF) : exec (.vred f) s = execVred f s := rfl
@[simp] theorem exec_vscan (f : RF) : exec (.vscan f) s = execVscan f s := rfl
@[simp] theorem exec_vcomp (f : RF) : exec (.vcomp f) s = execVcomp f s := rfl
@[simp] theorem exec_vexpd (f : RF) : exec (.vexpd f) s = execVexpd f s := rfl
@[simp] theorem exec_vcvt (f : RF) : exec (.vcvt f) s = execVcvt f s := rfl
@[simp] theorem exec_vqnt (f : RF) : exec (.vqnt f) s = execVqnt f s := rfl
@[simp] theorem exec_vdqnt (f : RF) : exec (.vdqnt f) s = execVdqnt f s := rfl
@[simp] theorem exec_mlog (f : RF) : exec (.mlog f) s = execMlog f s := rfl
@[simp] theorem exec_mpopc (f : RF) : exec (.mpopc f) s = execMpopc f s := rfl
@[simp] theorem exec_mfirst (f : RF) : exec (.mfirst f) s = execMfirst f s := rfl
@[simp] theorem exec_mmov (f : RF) : exec (.mmov f) s = execMmov f s := rfl
@[simp] theorem exec_vld (f : MF) : exec (.vld f) s = execVld f s := rfl
@[simp] theorem exec_vst (f : MF) : exec (.vst f) s = execVst f s := rfl
@[simp] theorem exec_vlds (f : MF) : exec (.vlds f) s = execVlds f s := rfl
@[simp] theorem exec_vsts (f : MF) : exec (.vsts f) s = execVsts f s := rfl
@[simp] theorem exec_vgath (f : MF) : exec (.vgath f) s = execVgath f s := rfl
@[simp] theorem exec_vscat (f : MF) : exec (.vscat f) s = execVscat f s := rfl
@[simp] theorem exec_sfeed (f : EF) : exec (.sfeed f) s = execSfeed f s := rfl
@[simp] theorem exec_sdrain (f : EF) : exec (.sdrain f) s = execSdrain f s := rfl
@[simp] theorem exec_sbnd (f : EF) : exec (.sbnd f) s = execSbnd f s := rfl
@[simp] theorem exec_pmark (f : EF) : exec (.pmark f) s = execPmark f s := rfl
@[simp] theorem exec_copy (f : EF) : exec (.copy f) s = execCopy f s := rfl
@[simp] theorem exec_copy2d (f : EF) : exec (.copy2d f) s = execCopy2d f s := rfl
@[simp] theorem exec_fill (f : EF) : exec (.fill f) s = execFill f s := rfl
@[simp] theorem exec_gathr (f : EF) : exec (.gathr f) s = execGathr f s := rfl
@[simp] theorem exec_scatr (f : EF) : exec (.scatr f) s = execScatr f s := rfl
@[simp] theorem exec_kvld (f : EF) : exec (.kvld f) s = execKvld f s := rfl
@[simp] theorem exec_kvappRows (f : EF) : exec (.kvappRows f) s = execKvappRows f s := rfl
@[simp] theorem exec_kvappInit (f : EF) : exec (.kvappInit f) s = execKvappInit f s := rfl
@[simp] theorem exec_kvseal (f : EF) : exec (.kvseal f) s = execKvseal f s := rfl
@[simp] theorem exec_retry (f : EF) : exec (.retry f) s = execRetry f s := rfl
@[simp] theorem exec_ecancel (f : EF) : exec (.ecancel f) s = execEcancel f s := rfl
@[simp] theorem exec_estat (f : EF) : exec (.estat f) s = execEstat f s := rfl
@[simp] theorem exec_kfuse (f : EF) : exec (.kfuse f) s = execKfuse f s := rfl
@[simp] theorem exec_kfree (f : EF) : exec (.kfree f) s = execKfree f s := rfl
@[simp] theorem exec_kctx (f : EF) : exec (.kctx f) s = execKctx f s := rfl
@[simp] theorem exec_kldw (f : EF) : exec (.kldw f) s = execKldw f s := rfl
@[simp] theorem exec_kswap (f : EF) : exec (.kswap f) s = execKswap f s := rfl
@[simp] theorem exec_kmma (f : EF) : exec (.kmma f) s = execKmma f s := rfl
@[simp] theorem exec_kroute (f : EF) : exec (.kroute f) s = execKroute f s := rfl
@[simp] theorem exec_kunroute (f : EF) : exec (.kunroute f) s = execKunroute f s := rfl
@[simp] theorem exec_kqry (f : EF) : exec (.kqry f) s = execKqry f s := rfl
@[simp] theorem exec_kclk (f : EF) : exec (.kclk f) s = execKclk f s := rfl
@[simp] theorem exec_atld (f : RF) : exec (.atld f) s = execAtld f s := rfl
@[simp] theorem exec_atst (f : RF) : exec (.atst f) s = execAtst f s := rfl
@[simp] theorem exec_atadd (f : RF) : exec (.atadd f) s = execAtadd f s := rfl
@[simp] theorem exec_atmax (f : RF) : exec (.atmax f) s = execAtmax f s := rfl
@[simp] theorem exec_atclr (f : RF) : exec (.atclr f) s = execAtclr f s := rfl
@[simp] theorem exec_vdrop (f : RF) : exec (.vdrop f) s = execVdrop f s := rfl
@[simp] theorem exec_bkq (f : RF) : exec (.bkq f) s = execBkq f s := rfl
@[simp] theorem exec_boostReq (f : IF) : exec (.boostReq f) s = execBoostReq f s := rfl
@[simp] theorem exec_boostRel (f : IF) : exec (.boostRel f) s = execBoostRel f s := rfl
@[simp] theorem exec_boostQry (f : IF) : exec (.boostQry f) s = execBoostQry f s := rfl
@[simp] theorem exec_pwrhintIdle (f : IF) : exec (.pwrhintIdle f) s = execPwrhintIdle f s := rfl
@[simp] theorem exec_pwrhintRamp (f : IF) : exec (.pwrhintRamp f) s = execPwrhintRamp f s := rfl
@[simp] theorem exec_trap (f : SF) : exec (.trap f) s = execTrap f s := rfl
@[simp] theorem exec_eret (f : SF) : exec (.eret f) s = execEret f s := rfl
@[simp] theorem exec_csrr (f : SF) : exec (.csrr f) s = execCsrr f s := rfl
@[simp] theorem exec_csrw (f : SF) : exec (.csrw f) s = execCsrw f s := rfl
@[simp] theorem exec_csrx (f : SF) : exec (.csrx f) s = execCsrx f s := rfl
@[simp] theorem exec_tlbinv (f : SF) : exec (.tlbinv f) s = execTlbinv f s := rfl
@[simp] theorem exec_ctxsv (f : SF) : exec (.ctxsv f) s = execCtxsv f s := rfl
@[simp] theorem exec_ctxld (f : SF) : exec (.ctxld f) s = execCtxld f s := rfl
@[simp] theorem exec_idle (f : SF) : exec (.idle f) s = execIdle f s := rfl
@[simp] theorem exec_evpost (f : SF) : exec (.evpost f) s = execEvpost f s := rfl
@[simp] theorem exec_allocqGrant (f : SF) : exec (.allocqGrant f) s = execAllocqGrant f s := rfl
@[simp] theorem exec_allocqFree (f : SF) : exec (.allocqFree f) s = execAllocqFree f s := rfl
@[simp] theorem exec_spawnAnswer (id : Nat) : exec (.spawnAnswer id) s = execSpawnAnswer id s := rfl
@[simp] theorem exec_loadDataArrival (id : Nat) : exec (.loadDataArrival id) s = execLoadDataArrival id s := rfl
@[simp] theorem exec_bankWakeDone (b : BankRef) : exec (.bankWakeDone b) s = execBankWakeDone b s := rfl
@[simp] theorem exec_bankRetain (b : BankRef) : exec (.bankRetain b) s = execBankRetain b s := rfl
@[simp] theorem exec_bankOff (b : BankRef) : exec (.bankOff b) s = execBankOff b s := rfl
@[simp] theorem exec_waitaWake (r : StrandRef) : exec (.waitaWake r) s = execWaitaWake r s := rfl
@[simp] theorem exec_watchReread (r : StrandRef) : exec (.watchReread r) s = execWatchReread r s := rfl
@[simp] theorem exec_waitqWake (r : StrandRef) : exec (.waitqWake r) s = execWaitqWake r s := rfl
@[simp] theorem exec_waitDeadline (r : StrandRef) : exec (.waitDeadline r) s = execWaitDeadline r s := rfl
@[simp] theorem exec_barrierRelease (part b : Nat) : exec (.barrierRelease part b) s = execBarrierRelease part b s := rfl
@[simp] theorem exec_collResult (part id : Nat) : exec (.collResult part id) s = execCollResult part id s := rfl
@[simp] theorem exec_watchdog (r : StrandRef) : exec (.watchdog r) s = execWatchdog r s := rfl
@[simp] theorem exec_engineCommandStart (reel : Nat) (e : Eng) : exec (.engineCommandStart reel e) s = execEngineCommandStart reel e s := rfl
@[simp] theorem exec_engineUnitDone (id n : Nat) : exec (.engineUnitDone id n) s = execEngineUnitDone id n s := rfl
@[simp] theorem exec_configUnitPerform (part : Nat) : exec (.configUnitPerform part) s = execConfigUnitPerform part s := rfl
@[simp] theorem exec_lineFlitDelivery (line : Nat) : exec (.lineFlitDelivery line) s = execLineFlitDelivery line s := rfl
@[simp] theorem exec_kiteTokenPass (kite : Nat) : exec (.kiteTokenPass kite) s = execKiteTokenPass kite s := rfl
@[simp] theorem exec_homeRequest (id : Nat) : exec (.homeRequest id) s = execHomeRequest id s := rfl
@[simp] theorem exec_l1Writeback (reel sector : Nat) : exec (.l1Writeback reel sector) s = execL1Writeback reel sector s := rfl
@[simp] theorem exec_farCacheDrop (field line : Nat) : exec (.farCacheDrop field line) s = execFarCacheDrop field line s := rfl
@[simp] theorem exec_invalidationAck (line field : Nat) : exec (.invalidationAck line field) s = execInvalidationAck line field s := rfl
@[simp] theorem exec_directoryEvict (line : Nat) : exec (.directoryEvict line) s = execDirectoryEvict line s := rfl
@[simp] theorem exec_pageWalk (id : Nat) : exec (.pageWalk id) s = execPageWalk id s := rfl
@[simp] theorem exec_tlbinvAck (id field : Nat) : exec (.tlbinvAck id field) s = execTlbinvAck id field s := rfl
@[simp] theorem exec_requestResend (id : Nat) : exec (.requestResend id) s = execRequestResend id s := rfl
@[simp] theorem exec_replyAck (id : Nat) : exec (.replyAck id) s = execReplyAck id s := rfl
@[simp] theorem exec_kvConversionStart (stack page : Nat) : exec (.kvConversionStart stack page) s = execKvConversionStart stack page s := rfl
@[simp] theorem exec_kvClosing (stack : Nat) : exec (.kvClosing stack) s = execKvClosing stack s := rfl
@[simp] theorem exec_kvConverting (stack : Nat) : exec (.kvConverting stack) s = execKvConverting stack s := rfl
@[simp] theorem exec_kvFlip (stack : Nat) : exec (.kvFlip stack) s = execKvFlip stack s := rfl
@[simp] theorem exec_packetFetch (q : PacketRead) : exec (.packetFetch q) s = execPacketFetch q s := rfl
@[simp] theorem exec_seqRecheck (q : PacketRead) : exec (.seqRecheck q) s = execSeqRecheck q s := rfl
@[simp] theorem exec_launchPacket (q : Nat) : exec (.launchPacket q) s = execLaunchPacket q s := rfl
@[simp] theorem exec_barrierAndPacket (q : Nat) : exec (.barrierAndPacket q) s = execBarrierAndPacket q s := rfl
@[simp] theorem exec_signalPacket (q : Nat) : exec (.signalPacket q) s = execSignalPacket q s := rfl
@[simp] theorem exec_nopPacket (q : Nat) : exec (.nopPacket q) s = execNopPacket q s := rfl
@[simp] theorem exec_depWatchWake (q entry : Nat) : exec (.depWatchWake q entry) s = execDepWatchWake q entry s := rfl
@[simp] theorem exec_taskComplete (task : Nat) : exec (.taskComplete task) s = execTaskComplete task s := rfl
@[simp] theorem exec_faultRecordAppend (ctx : Nat) : exec (.faultRecordAppend ctx) s = execFaultRecordAppend ctx s := rfl
@[simp] theorem exec_scanOutDone (u : UnitRef) : exec (.scanOutDone u) s = execScanOutDone u s := rfl
@[simp] theorem exec_pmtCommandDone : exec .pmtCommandDone s = execPmtCommandDone s := rfl
@[simp] theorem exec_hostSnoopResponse (line : Nat) : exec (.hostSnoopResponse line) s = execHostSnoopResponse line s := rfl
@[simp] theorem exec_unassignedOpcode (w : Word) : exec (.unassignedOpcode w) s = execUnassignedOpcode w s := rfl
@[simp] theorem exec_fetchFault (r : StrandRef) : exec (.fetchFault r) s = execFetchFault r s := rfl
@[simp] theorem exec_linkReplay (l : LinkRef) : exec (.linkReplay l) s = execLinkReplay l s := rfl
@[simp] theorem exec_linkDown (l : LinkRef) : exec (.linkDown l) s = execLinkDown l s := rfl
@[simp] theorem exec_linkRetrained (l : LinkRef) : exec (.linkRetrained l) s = execLinkRetrained l s := rfl
@[simp] theorem exec_doorbell (q : Nat) (v : Word) : exec (.doorbell q v) s = execDoorbell q v s := rfl
@[simp] theorem exec_contextCreate (port ctx : Nat) : exec (.contextCreate port ctx) s = execContextCreate port ctx s := rfl
@[simp] theorem exec_contextDestroy (port ctx : Nat) : exec (.contextDestroy port ctx) s = execContextDestroy port ctx s := rfl
@[simp] theorem exec_grantPartition (port ctx : Nat) : exec (.grantPartition port ctx) s = execGrantPartition port ctx s := rfl
@[simp] theorem exec_freePartition (port : Nat) : exec (.freePartition port) s = execFreePartition port s := rfl
@[simp] theorem exec_queueCreate (port q : Nat) : exec (.queueCreate port q) s = execQueueCreate port q s := rfl
@[simp] theorem exec_queueDestroy (port q : Nat) : exec (.queueDestroy port q) s = execQueueDestroy port q s := rfl
@[simp] theorem exec_destroyWithKill (port q : Nat) : exec (.destroyWithKill port q) s = execDestroyWithKill port q s := rfl
@[simp] theorem exec_pauseQueue (port q : Nat) : exec (.pauseQueue port q) s = execPauseQueue port q s := rfl
@[simp] theorem exec_resumeQueue (port q : Nat) : exec (.resumeQueue port q) s = execResumeQueue port q s := rfl
@[simp] theorem exec_suspendCtx : exec .suspendCtx s = execSuspendCtx s := rfl
@[simp] theorem exec_evictCtx : exec .evictCtx s = execEvictCtx s := rfl
@[simp] theorem exec_restoreCtx : exec .restoreCtx s = execRestoreCtx s := rfl
@[simp] theorem exec_withholdSuspect : exec .withholdSuspect s = execWithholdSuspect s := rfl
@[simp] theorem exec_offerSuspect : exec .offerSuspect s = execOfferSuspect s := rfl
@[simp] theorem exec_resetStrand (target : Word) : exec (.resetStrand target) s = execResetStrand target s := rfl
@[simp] theorem exec_resetEngine (target : Word) : exec (.resetEngine target) s = execResetEngine target s := rfl
@[simp] theorem exec_resetReel (target : Word) : exec (.resetReel target) s = execResetReel target s := rfl
@[simp] theorem exec_resetKiteRelease (target : Word) : exec (.resetKiteRelease target) s = execResetKiteRelease target s := rfl
@[simp] theorem exec_resetField (target : Word) : exec (.resetField target) s = execResetField target s := rfl
@[simp] theorem exec_resetPartition (target : Word) : exec (.resetPartition target) s = execResetPartition target s := rfl
@[simp] theorem exec_pcieFunctionReset (port : Nat) : exec (.pcieFunctionReset port) s = execPcieFunctionReset port s := rfl
@[simp] theorem exec_warmDeviceReset (r : StartReport) : exec (.warmDeviceReset r) s = execWarmDeviceReset r s := rfl
@[simp] theorem exec_coldDeviceReset (r : StartReport) : exec (.coldDeviceReset r) s = execColdDeviceReset r s := rfl
@[simp] theorem exec_managementReset : exec .managementReset s = execManagementReset s := rfl
@[simp] theorem exec_fieldSelfTestDone (field : Nat) (pass : Bool) : exec (.fieldSelfTestDone field pass) s = execFieldSelfTestDone field pass s := rfl
@[simp] theorem exec_errorDetection (d : Detection) : exec (.errorDetection d) s = execErrorDetection d s := rfl
@[simp] theorem exec_hardFault (loc : Word) : exec (.hardFault loc) s = execHardFault loc s := rfl
@[simp] theorem exec_hostMemWrite (port pa : Nat) (bytes : HostBytes) (relaxed : Bool) : exec (.hostMemWrite port pa bytes relaxed) s = execHostMemWrite port pa bytes relaxed s := rfl
@[simp] theorem exec_hostMemRead (port pa n : Nat) : exec (.hostMemRead port pa n) s = execHostMemRead port pa n s := rfl
@[simp] theorem exec_hostSnoop (pa : Nat) (bytes : HostBytes) : exec (.hostSnoop pa bytes) s = execHostSnoop pa bytes s := rfl
@[simp] theorem exec_peerTransferArrival (t : PeerTransfer) : exec (.peerTransferArrival t) s = execPeerTransferArrival t s := rfl
@[simp] theorem exec_peerAcknowledge (port tag : Nat) (refused : Bool) : exec (.peerAcknowledge port tag refused) s = execPeerAcknowledge port tag refused s := rfl
@[simp] theorem exec_reductionAnswer (id : ReductionOf) (performed : Bool) : exec (.reductionAnswer id performed) s = execReductionAnswer id performed s := rfl
@[simp] theorem exec_peerTimeout (id : Nat) : exec (.peerTimeout id) s = execPeerTimeout id s := rfl
@[simp] theorem exec_currentFloor (field demand : Nat) : exec (.currentFloor field demand) s = execCurrentFloor field demand s := rfl
@[simp] theorem exec_controlInterval (m : Measurement) : exec (.controlInterval m) s = execControlInterval m s := rfl
@[simp] theorem exec_energyWindow (mJ : Nat) : exec (.energyWindow mJ) s = execEnergyWindow mJ s := rfl
@[simp] theorem exec_hotClear (field : Nat) : exec (.hotClear field) s = execHotClear field s := rfl
@[simp] theorem exec_stretchWarning (rd : Nat) : exec (.stretchWarning rd) s = execStretchWarning rd s := rfl
@[simp] theorem exec_stretchRelax (rd : Nat) : exec (.stretchRelax rd) s = execStretchRelax rd s := rfl
@[simp] theorem exec_dividerHoldEnd (rd : Nat) : exec (.dividerHoldEnd rd) s = execDividerHoldEnd rd s := rfl
@[simp] theorem exec_fieldGate (field : Nat) : exec (.fieldGate field) s = execFieldGate field s := rfl
@[simp] theorem exec_fieldUngate (field : Nat) : exec (.fieldUngate field) s = execFieldUngate field s := rfl
@[simp] theorem exec_leaseExpiry (ctx : Nat) : exec (.leaseExpiry ctx) s = execLeaseExpiry ctx s := rfl
@[simp] theorem exec_telemetrySnapshot : exec .telemetrySnapshot s = execTelemetrySnapshot s := rfl
@[simp] theorem exec_getRecord (tag schema : Byte) (inst : BitVec 16) : exec (.getRecord tag schema inst) s = execGetRecord tag schema inst s := rfl
@[simp] theorem exec_readReg (tag index : Byte) : exec (.readReg tag index) s = execReadReg tag index s := rfl
@[simp] theorem exec_writeReg (tag index : Byte) (v : Word) : exec (.writeReg tag index v) s = execWriteReg tag index v s := rfl
@[simp] theorem exec_rasRead (tag : Byte) (serial : BitVec 32) : exec (.rasRead tag serial) s = execRasRead tag serial s := rfl
@[simp] theorem exec_requestUpdate (c : Component) : exec (.requestUpdate c) s = execRequestUpdate c s := rfl
@[simp] theorem exec_firmwareTransfer (c : Component) (img : Image) : exec (.firmwareTransfer c img) s = execFirmwareTransfer c img s := rfl
@[simp] theorem exec_verifyComplete (c : Component) : exec (.verifyComplete c) s = execVerifyComplete c s := rfl
@[simp] theorem exec_activateFirmware (c : Component) : exec (.activateFirmware c) s = execActivateFirmware c s := rfl
@[simp] theorem exec_quiescentPoint : exec .quiescentPoint s = execQuiescentPoint s := rfl
@[simp] theorem exec_healthCheckPass : exec .healthCheckPass s = execHealthCheckPass s := rfl
@[simp] theorem exec_healthCheckFail : exec .healthCheckFail s = execHealthCheckFail s := rfl
@[simp] theorem exec_svnRaise (v : BitVec 32) : exec (.svnRaise v) s = execSvnRaise v s := rfl
@[simp] theorem exec_mapProvision (factory delta : Option MapImage) : exec (.mapProvision factory delta) s = execMapProvision factory delta s := rfl
@[simp] theorem exec_registerWrite (port off : Nat) (v : Word) : exec (.registerWrite port off v) s = execRegisterWrite port off v s := rfl
@[simp] theorem exec_fieldSelfTestStart (field : Nat) : exec (.fieldSelfTestStart field) s = execFieldSelfTestStart field s := rfl
@[simp] theorem exec_spdmSession (est : Bool) : exec (.spdmSession est) s = execSpdmSession est s := rfl
@[simp] theorem exec_pcieConfigWrite (port : Nat) (msixOn : Bool) : exec (.pcieConfigWrite port msixOn) s = execPcieConfigWrite port msixOn s := rfl
@[simp] theorem exec_unassignedCommand (tag command : Byte) : exec (.unassignedCommand tag command) s = execUnassignedCommand tag command s := rfl

end Sys2Proof.Machine
end

