-- ==== Sys2Proof/Laws/SMap.lean ====
section
/-! SUPPORT. Sparse tables: reading after writing, and the canonical form that every write keeps. -/

namespace Sys2Proof

variable {α : Type}

theorem SMap.get_ins_same (d : α) (m : SMap α) (i : Nat) (x : α) : SMap.get d (SMap.ins m i x) i = x := by
  induction m with
  | nil => simp [SMap.ins, SMap.get]
  | cons kv m ih =>
    obtain ⟨k, v⟩ := kv
    simp only [SMap.ins]
    split
    · simp [SMap.get]
    · split
      · simp [SMap.get]
      · rename_i h1 h2
        simp only [SMap.get]
        rw [if_neg (by omega), ih]

theorem SMap.get_ins_other (d : α) (m : SMap α) (i j : Nat) (x : α) (h : j ≠ i) :
    SMap.get d (SMap.ins m i x) j = SMap.get d m j := by
  induction m with
  | nil => simp only [SMap.ins, SMap.get]; rw [if_neg (by omega)]
  | cons kv m ih =>
    obtain ⟨k, v⟩ := kv
    simp only [SMap.ins]
    split
    · simp only [SMap.get]; rw [if_neg (by omega)]
    · split
      · subst_vars; simp only [SMap.get]; rw [if_neg (by omega), if_neg (by omega)]
      · simp only [SMap.get]; split <;> simp_all

theorem SMap.get_del_same (d : α) (m : SMap α) (i : Nat) : SMap.get d (SMap.del m i) i = d := by
  induction m with
  | nil => rfl
  | cons kv m ih =>
    obtain ⟨k, v⟩ := kv
    simp only [SMap.del]
    split
    · exact ih
    · simp only [SMap.get]; rw [if_neg (by assumption), ih]

theorem SMap.get_del_other (d : α) (m : SMap α) (i j : Nat) (h : j ≠ i) :
    SMap.get d (SMap.del m i) j = SMap.get d m j := by
  induction m with
  | nil => rfl
  | cons kv m ih =>
    obtain ⟨k, v⟩ := kv
    simp only [SMap.del]
    split
    · subst_vars; rw [ih]; simp only [SMap.get]; rw [if_neg (by omega)]
    · simp only [SMap.get]; split <;> simp_all

variable [DecidableEq α]

/-- A key reads as what was written to it. -/
@[simp] theorem SMap.get_put_same (d : α) (m : SMap α) (i : Nat) (x : α) : SMap.get d (SMap.put d m i x) i = x := by
  simp only [SMap.put]
  split
  · subst_vars; exact SMap.get_del_same _ m i
  · exact SMap.get_ins_same d m i x

/-- A write leaves every other key alone. -/
theorem SMap.get_put_other (d : α) (m : SMap α) (i j : Nat) (x : α) (h : j ≠ i) :
    SMap.get d (SMap.put d m i x) j = SMap.get d m j := by
  simp only [SMap.put]
  split
  · exact SMap.get_del_other d m i j h
  · exact SMap.get_ins_other d m i j x h

theorem SMap.get_put (d : α) (m : SMap α) (i j : Nat) (x : α) :
    SMap.get d (SMap.put d m i x) j = if j = i then x else SMap.get d m j := by
  split
  · subst_vars; exact SMap.get_put_same d m _ x
  · exact SMap.get_put_other d m i j x ‹_›

/-! ## The canonical form -/

omit [DecidableEq α] in
theorem SMap.rising_mono {lo lo' : Nat} {m : SMap α} (h : SMap.rising lo m = true) (hl : lo' ≤ lo) :
    SMap.rising lo' m = true := by
  cases m with
  | nil => rfl
  | cons kv m =>
    obtain ⟨k, v⟩ := kv
    simp only [SMap.rising, Bool.and_eq_true, decide_eq_true_eq] at *
    exact ⟨by omega, h.2⟩

omit [DecidableEq α] in
theorem SMap.rising_ins {lo : Nat} {m : SMap α} {i : Nat} {x : α} (h : SMap.rising lo m = true) (hi : lo ≤ i) :
    SMap.rising lo (SMap.ins m i x) = true := by
  induction m generalizing lo with
  | nil => simp [SMap.ins, SMap.rising, hi]
  | cons kv m ih =>
    obtain ⟨k, v⟩ := kv
    simp only [SMap.rising, Bool.and_eq_true, decide_eq_true_eq] at h
    simp only [SMap.ins]
    split
    · simp only [SMap.rising, Bool.and_eq_true, decide_eq_true_eq]
      exact ⟨hi, by omega, h.2⟩
    · split
      · subst_vars
        simp only [SMap.rising, Bool.and_eq_true, decide_eq_true_eq]
        exact ⟨hi, h.2⟩
      · simp only [SMap.rising, Bool.and_eq_true, decide_eq_true_eq]
        exact ⟨h.1, ih h.2 (by omega)⟩

omit [DecidableEq α] in
theorem SMap.rising_filter {lo : Nat} {m : SMap α} (p : Nat × α → Bool) (h : SMap.rising lo m = true) :
    SMap.rising lo (m.filter p) = true := by
  induction m generalizing lo with
  | nil => rfl
  | cons kv m ih =>
    obtain ⟨k, v⟩ := kv
    simp only [SMap.rising, Bool.and_eq_true, decide_eq_true_eq] at h
    rw [List.filter_cons]
    split
    · simp only [SMap.rising, Bool.and_eq_true, decide_eq_true_eq]
      exact ⟨h.1, ih h.2⟩
    · exact SMap.rising_mono (ih h.2) (by omega)

omit [DecidableEq α] in
theorem SMap.del_eq_filter (m : SMap α) (i : Nat) : SMap.del m i = m.filter fun kv => kv.1 != i := by
  induction m with
  | nil => rfl
  | cons kv m ih =>
    obtain ⟨k, v⟩ := kv
    simp only [SMap.del, List.filter_cons]
    split <;> simp_all

omit [DecidableEq α] in
theorem SMap.all_ins {m : SMap α} {i : Nat} {x : α} {p : Nat × α → Bool} (h : m.all p = true) (hx : p (i, x) = true) :
    (SMap.ins m i x).all p = true := by
  induction m with
  | nil => simp [SMap.ins, hx]
  | cons kv m ih =>
    obtain ⟨k, v⟩ := kv
    simp only [List.all_cons, Bool.and_eq_true] at h
    simp only [SMap.ins]
    split
    · simp [hx, h]
    · split
      · simp [hx, h]
      · simp [h.1, ih h.2]

/-- Removing entries keeps the canonical form. -/
theorem SMap.wf_filter {d : α} {m : SMap α} (p : Nat × α → Bool) (h : SMap.wf d m = true) :
    SMap.wf d (m.filter p) = true := by
  simp only [SMap.wf, Bool.and_eq_true] at *
  refine ⟨SMap.rising_filter p h.1, ?_⟩
  rw [List.all_filter]
  exact List.all_eq_true.2 fun x hx => by simp [List.all_eq_true.1 h.2 x hx]

/-- A write keeps the canonical form. -/
theorem SMap.wf_put {d : α} {m : SMap α} (i : Nat) (x : α) (h : SMap.wf d m = true) : SMap.wf d (SMap.put d m i x) = true := by
  simp only [SMap.put]
  split
  · rw [SMap.del_eq_filter]; exact SMap.wf_filter _ h
  · simp only [SMap.wf, Bool.and_eq_true] at *
    exact ⟨SMap.rising_ins h.1 (by omega), SMap.all_ins h.2 (by simpa)⟩

/-- Clearing a range keeps the canonical form. -/
theorem SMap.wf_clear {d : α} {m : SMap α} (lo n : Nat) (h : SMap.wf d m = true) : SMap.wf d (SMap.clear m lo n) = true :=
  SMap.wf_filter _ h

/-- Folding writes keeps the canonical form. -/
theorem SMap.wf_foldl_put {β : Type} {d : α} (l : List β) (k : β → Nat) (v : β → α) {m : SMap α} (h : SMap.wf d m = true) :
    SMap.wf d (l.foldl (fun m b => SMap.put d m (k b) (v b)) m) = true := by
  induction l generalizing m with
  | nil => exact h
  | cons b l ih => exact ih (SMap.wf_put _ _ h)

end Sys2Proof
end

