-- ==== Sys2Proof/Laws/State.lean ====
section
/-! SUPPORT. What each named update of the state leaves alone: one lemma for each field and update. -/

namespace Sys2Proof.Machine

/-! `State.setReel` changes only reels. -/

@[simp] theorem State.setReel_tick (s : State) (n : Nat) (x : Reel) : (s.setReel n x).tick = s.tick := rfl
@[simp] theorem State.setReel_agenda (s : State) (n : Nat) (x : Reel) : (s.setReel n x).agenda = s.agenda := rfl
@[simp] theorem State.setReel_nextId (s : State) (n : Nat) (x : Reel) : (s.setReel n x).nextId = s.nextId := rfl
@[simp] theorem State.setReel_draws (s : State) (n : Nat) (x : Reel) : (s.setReel n x).draws = s.draws := rfl
@[simp] theorem State.setReel_turn (s : State) (n : Nat) (x : Reel) : (s.setReel n x).turn = s.turn := rfl
@[simp] theorem State.setReel_cur (s : State) (n : Nat) (x : Reel) : (s.setReel n x).cur = s.cur := rfl
@[simp] theorem State.setReel_held (s : State) (n : Nat) (x : Reel) : (s.setReel n x).held = s.held := rfl
@[simp] theorem State.setReel_mem (s : State) (n : Nat) (x : Reel) : (s.setReel n x).mem = s.mem := rfl
@[simp] theorem State.setReel_mpsn (s : State) (n : Nat) (x : Reel) : (s.setReel n x).mpsn = s.mpsn := rfl
@[simp] theorem State.setReel_dirs (s : State) (n : Nat) (x : Reel) : (s.setReel n x).dirs = s.dirs := rfl
@[simp] theorem State.setReel_reqs (s : State) (n : Nat) (x : Reel) : (s.setReel n x).reqs = s.reqs := rfl
@[simp] theorem State.setReel_replays (s : State) (n : Nat) (x : Reel) : (s.setReel n x).replays = s.replays := rfl
@[simp] theorem State.setReel_walks (s : State) (n : Nat) (x : Reel) : (s.setReel n x).walks = s.walks := rfl
@[simp] theorem State.setReel_invs (s : State) (n : Nat) (x : Reel) : (s.setReel n x).invs = s.invs := rfl
@[simp] theorem State.setReel_saves (s : State) (n : Nat) (x : Reel) : (s.setReel n x).saves = s.saves := rfl
@[simp] theorem State.setReel_ageing (s : State) (n : Nat) (x : Reel) : (s.setReel n x).ageing = s.ageing := rfl
@[simp] theorem State.setReel_fields (s : State) (n : Nat) (x : Reel) : (s.setReel n x).fields = s.fields := rfl
@[simp] theorem State.setReel_parts (s : State) (n : Nat) (x : Reel) : (s.setReel n x).parts = s.parts := rfl
@[simp] theorem State.setReel_kites (s : State) (n : Nat) (x : Reel) : (s.setReel n x).kites = s.kites := rfl
@[simp] theorem State.setReel_lines (s : State) (n : Nat) (x : Reel) : (s.setReel n x).lines = s.lines := rfl
@[simp] theorem State.setReel_spawns (s : State) (n : Nat) (x : Reel) : (s.setReel n x).spawns = s.spawns := rfl
@[simp] theorem State.setReel_ctxs (s : State) (n : Nat) (x : Reel) : (s.setReel n x).ctxs = s.ctxs := rfl
@[simp] theorem State.setReel_ctxDesc (s : State) (n : Nat) (x : Reel) : (s.setReel n x).ctxDesc = s.ctxDesc := rfl
@[simp] theorem State.setReel_queues (s : State) (n : Nat) (x : Reel) : (s.setReel n x).queues = s.queues := rfl
@[simp] theorem State.setReel_qptr (s : State) (n : Nat) (x : Reel) : (s.setReel n x).qptr = s.qptr := rfl
@[simp] theorem State.setReel_tasks (s : State) (n : Nat) (x : Reel) : (s.setReel n x).tasks = s.tasks := rfl
@[simp] theorem State.setReel_hostPorts (s : State) (n : Nat) (x : Reel) : (s.setReel n x).hostPorts = s.hostPorts := rfl
@[simp] theorem State.setReel_peerPorts (s : State) (n : Nat) (x : Reel) : (s.setReel n x).peerPorts = s.peerPorts := rfl
@[simp] theorem State.setReel_hostWins (s : State) (n : Nat) (x : Reel) : (s.setReel n x).hostWins = s.hostWins := rfl
@[simp] theorem State.setReel_peerWins (s : State) (n : Nat) (x : Reel) : (s.setReel n x).peerWins = s.peerWins := rfl
@[simp] theorem State.setReel_peertmo (s : State) (n : Nat) (x : Reel) : (s.setReel n x).peertmo = s.peertmo := rfl
@[simp] theorem State.setReel_peerOut (s : State) (n : Nat) (x : Reel) : (s.setReel n x).peerOut = s.peerOut := rfl
@[simp] theorem State.setReel_peerSeen (s : State) (n : Nat) (x : Reel) : (s.setReel n x).peerSeen = s.peerSeen := rfl
@[simp] theorem State.setReel_peerId (s : State) (n : Nat) (x : Reel) : (s.setReel n x).peerId = s.peerId := rfl
@[simp] theorem State.setReel_pmt (s : State) (n : Nat) (x : Reel) : (s.setReel n x).pmt = s.pmt := rfl
@[simp] theorem State.setReel_fw (s : State) (n : Nat) (x : Reel) : (s.setReel n x).fw = s.fw := rfl
@[simp] theorem State.setReel_power (s : State) (n : Nat) (x : Reel) : (s.setReel n x).power = s.power := rfl
@[simp] theorem State.setReel_quedon (s : State) (n : Nat) (x : Reel) : (s.setReel n x).quedon = s.quedon := rfl
@[simp] theorem State.setReel_sent (s : State) (n : Nat) (x : Reel) : (s.setReel n x).sent = s.sent := rfl
@[simp] theorem State.setReel_pendSent (s : State) (n : Nat) (x : Reel) : (s.setReel n x).pendSent = s.pendSent := rfl

/-! `State.modReel` changes only reels. -/

@[simp] theorem State.modReel_tick (s : State) (n : Nat) (f : Reel → Reel) : (s.modReel n f).tick = s.tick := rfl
@[simp] theorem State.modReel_agenda (s : State) (n : Nat) (f : Reel → Reel) : (s.modReel n f).agenda = s.agenda := rfl
@[simp] theorem State.modReel_nextId (s : State) (n : Nat) (f : Reel → Reel) : (s.modReel n f).nextId = s.nextId := rfl
@[simp] theorem State.modReel_draws (s : State) (n : Nat) (f : Reel → Reel) : (s.modReel n f).draws = s.draws := rfl
@[simp] theorem State.modReel_turn (s : State) (n : Nat) (f : Reel → Reel) : (s.modReel n f).turn = s.turn := rfl
@[simp] theorem State.modReel_cur (s : State) (n : Nat) (f : Reel → Reel) : (s.modReel n f).cur = s.cur := rfl
@[simp] theorem State.modReel_held (s : State) (n : Nat) (f : Reel → Reel) : (s.modReel n f).held = s.held := rfl
@[simp] theorem State.modReel_mem (s : State) (n : Nat) (f : Reel → Reel) : (s.modReel n f).mem = s.mem := rfl
@[simp] theorem State.modReel_mpsn (s : State) (n : Nat) (f : Reel → Reel) : (s.modReel n f).mpsn = s.mpsn := rfl
@[simp] theorem State.modReel_dirs (s : State) (n : Nat) (f : Reel → Reel) : (s.modReel n f).dirs = s.dirs := rfl
@[simp] theorem State.modReel_reqs (s : State) (n : Nat) (f : Reel → Reel) : (s.modReel n f).reqs = s.reqs := rfl
@[simp] theorem State.modReel_replays (s : State) (n : Nat) (f : Reel → Reel) : (s.modReel n f).replays = s.replays := rfl
@[simp] theorem State.modReel_walks (s : State) (n : Nat) (f : Reel → Reel) : (s.modReel n f).walks = s.walks := rfl
@[simp] theorem State.modReel_invs (s : State) (n : Nat) (f : Reel → Reel) : (s.modReel n f).invs = s.invs := rfl
@[simp] theorem State.modReel_saves (s : State) (n : Nat) (f : Reel → Reel) : (s.modReel n f).saves = s.saves := rfl
@[simp] theorem State.modReel_ageing (s : State) (n : Nat) (f : Reel → Reel) : (s.modReel n f).ageing = s.ageing := rfl
@[simp] theorem State.modReel_fields (s : State) (n : Nat) (f : Reel → Reel) : (s.modReel n f).fields = s.fields := rfl
@[simp] theorem State.modReel_parts (s : State) (n : Nat) (f : Reel → Reel) : (s.modReel n f).parts = s.parts := rfl
@[simp] theorem State.modReel_kites (s : State) (n : Nat) (f : Reel → Reel) : (s.modReel n f).kites = s.kites := rfl
@[simp] theorem State.modReel_lines (s : State) (n : Nat) (f : Reel → Reel) : (s.modReel n f).lines = s.lines := rfl
@[simp] theorem State.modReel_spawns (s : State) (n : Nat) (f : Reel → Reel) : (s.modReel n f).spawns = s.spawns := rfl
@[simp] theorem State.modReel_ctxs (s : State) (n : Nat) (f : Reel → Reel) : (s.modReel n f).ctxs = s.ctxs := rfl
@[simp] theorem State.modReel_ctxDesc (s : State) (n : Nat) (f : Reel → Reel) : (s.modReel n f).ctxDesc = s.ctxDesc := rfl
@[simp] theorem State.modReel_queues (s : State) (n : Nat) (f : Reel → Reel) : (s.modReel n f).queues = s.queues := rfl
@[simp] theorem State.modReel_qptr (s : State) (n : Nat) (f : Reel → Reel) : (s.modReel n f).qptr = s.qptr := rfl
@[simp] theorem State.modReel_tasks (s : State) (n : Nat) (f : Reel → Reel) : (s.modReel n f).tasks = s.tasks := rfl
@[simp] theorem State.modReel_hostPorts (s : State) (n : Nat) (f : Reel → Reel) : (s.modReel n f).hostPorts = s.hostPorts := rfl
@[simp] theorem State.modReel_peerPorts (s : State) (n : Nat) (f : Reel → Reel) : (s.modReel n f).peerPorts = s.peerPorts := rfl
@[simp] theorem State.modReel_hostWins (s : State) (n : Nat) (f : Reel → Reel) : (s.modReel n f).hostWins = s.hostWins := rfl
@[simp] theorem State.modReel_peerWins (s : State) (n : Nat) (f : Reel → Reel) : (s.modReel n f).peerWins = s.peerWins := rfl
@[simp] theorem State.modReel_peertmo (s : State) (n : Nat) (f : Reel → Reel) : (s.modReel n f).peertmo = s.peertmo := rfl
@[simp] theorem State.modReel_peerOut (s : State) (n : Nat) (f : Reel → Reel) : (s.modReel n f).peerOut = s.peerOut := rfl
@[simp] theorem State.modReel_peerSeen (s : State) (n : Nat) (f : Reel → Reel) : (s.modReel n f).peerSeen = s.peerSeen := rfl
@[simp] theorem State.modReel_peerId (s : State) (n : Nat) (f : Reel → Reel) : (s.modReel n f).peerId = s.peerId := rfl
@[simp] theorem State.modReel_pmt (s : State) (n : Nat) (f : Reel → Reel) : (s.modReel n f).pmt = s.pmt := rfl
@[simp] theorem State.modReel_fw (s : State) (n : Nat) (f : Reel → Reel) : (s.modReel n f).fw = s.fw := rfl
@[simp] theorem State.modReel_power (s : State) (n : Nat) (f : Reel → Reel) : (s.modReel n f).power = s.power := rfl
@[simp] theorem State.modReel_quedon (s : State) (n : Nat) (f : Reel → Reel) : (s.modReel n f).quedon = s.quedon := rfl
@[simp] theorem State.modReel_sent (s : State) (n : Nat) (f : Reel → Reel) : (s.modReel n f).sent = s.sent := rfl
@[simp] theorem State.modReel_pendSent (s : State) (n : Nat) (f : Reel → Reel) : (s.modReel n f).pendSent = s.pendSent := rfl

/-! `State.setSlot` changes only reels. -/

@[simp] theorem State.setSlot_tick (s : State) (r : StrandRef) (x : Slot) : (s.setSlot r x).tick = s.tick := rfl
@[simp] theorem State.setSlot_agenda (s : State) (r : StrandRef) (x : Slot) : (s.setSlot r x).agenda = s.agenda := rfl
@[simp] theorem State.setSlot_nextId (s : State) (r : StrandRef) (x : Slot) : (s.setSlot r x).nextId = s.nextId := rfl
@[simp] theorem State.setSlot_draws (s : State) (r : StrandRef) (x : Slot) : (s.setSlot r x).draws = s.draws := rfl
@[simp] theorem State.setSlot_turn (s : State) (r : StrandRef) (x : Slot) : (s.setSlot r x).turn = s.turn := rfl
@[simp] theorem State.setSlot_cur (s : State) (r : StrandRef) (x : Slot) : (s.setSlot r x).cur = s.cur := rfl
@[simp] theorem State.setSlot_held (s : State) (r : StrandRef) (x : Slot) : (s.setSlot r x).held = s.held := rfl
@[simp] theorem State.setSlot_mem (s : State) (r : StrandRef) (x : Slot) : (s.setSlot r x).mem = s.mem := rfl
@[simp] theorem State.setSlot_mpsn (s : State) (r : StrandRef) (x : Slot) : (s.setSlot r x).mpsn = s.mpsn := rfl
@[simp] theorem State.setSlot_dirs (s : State) (r : StrandRef) (x : Slot) : (s.setSlot r x).dirs = s.dirs := rfl
@[simp] theorem State.setSlot_reqs (s : State) (r : StrandRef) (x : Slot) : (s.setSlot r x).reqs = s.reqs := rfl
@[simp] theorem State.setSlot_replays (s : State) (r : StrandRef) (x : Slot) : (s.setSlot r x).replays = s.replays := rfl
@[simp] theorem State.setSlot_walks (s : State) (r : StrandRef) (x : Slot) : (s.setSlot r x).walks = s.walks := rfl
@[simp] theorem State.setSlot_invs (s : State) (r : StrandRef) (x : Slot) : (s.setSlot r x).invs = s.invs := rfl
@[simp] theorem State.setSlot_saves (s : State) (r : StrandRef) (x : Slot) : (s.setSlot r x).saves = s.saves := rfl
@[simp] theorem State.setSlot_ageing (s : State) (r : StrandRef) (x : Slot) : (s.setSlot r x).ageing = s.ageing := rfl
@[simp] theorem State.setSlot_fields (s : State) (r : StrandRef) (x : Slot) : (s.setSlot r x).fields = s.fields := rfl
@[simp] theorem State.setSlot_parts (s : State) (r : StrandRef) (x : Slot) : (s.setSlot r x).parts = s.parts := rfl
@[simp] theorem State.setSlot_kites (s : State) (r : StrandRef) (x : Slot) : (s.setSlot r x).kites = s.kites := rfl
@[simp] theorem State.setSlot_lines (s : State) (r : StrandRef) (x : Slot) : (s.setSlot r x).lines = s.lines := rfl
@[simp] theorem State.setSlot_spawns (s : State) (r : StrandRef) (x : Slot) : (s.setSlot r x).spawns = s.spawns := rfl
@[simp] theorem State.setSlot_ctxs (s : State) (r : StrandRef) (x : Slot) : (s.setSlot r x).ctxs = s.ctxs := rfl
@[simp] theorem State.setSlot_ctxDesc (s : State) (r : StrandRef) (x : Slot) : (s.setSlot r x).ctxDesc = s.ctxDesc := rfl
@[simp] theorem State.setSlot_queues (s : State) (r : StrandRef) (x : Slot) : (s.setSlot r x).queues = s.queues := rfl
@[simp] theorem State.setSlot_qptr (s : State) (r : StrandRef) (x : Slot) : (s.setSlot r x).qptr = s.qptr := rfl
@[simp] theorem State.setSlot_tasks (s : State) (r : StrandRef) (x : Slot) : (s.setSlot r x).tasks = s.tasks := rfl
@[simp] theorem State.setSlot_hostPorts (s : State) (r : StrandRef) (x : Slot) : (s.setSlot r x).hostPorts = s.hostPorts := rfl
@[simp] theorem State.setSlot_peerPorts (s : State) (r : StrandRef) (x : Slot) : (s.setSlot r x).peerPorts = s.peerPorts := rfl
@[simp] theorem State.setSlot_hostWins (s : State) (r : StrandRef) (x : Slot) : (s.setSlot r x).hostWins = s.hostWins := rfl
@[simp] theorem State.setSlot_peerWins (s : State) (r : StrandRef) (x : Slot) : (s.setSlot r x).peerWins = s.peerWins := rfl
@[simp] theorem State.setSlot_peertmo (s : State) (r : StrandRef) (x : Slot) : (s.setSlot r x).peertmo = s.peertmo := rfl
@[simp] theorem State.setSlot_peerOut (s : State) (r : StrandRef) (x : Slot) : (s.setSlot r x).peerOut = s.peerOut := rfl
@[simp] theorem State.setSlot_peerSeen (s : State) (r : StrandRef) (x : Slot) : (s.setSlot r x).peerSeen = s.peerSeen := rfl
@[simp] theorem State.setSlot_peerId (s : State) (r : StrandRef) (x : Slot) : (s.setSlot r x).peerId = s.peerId := rfl
@[simp] theorem State.setSlot_pmt (s : State) (r : StrandRef) (x : Slot) : (s.setSlot r x).pmt = s.pmt := rfl
@[simp] theorem State.setSlot_fw (s : State) (r : StrandRef) (x : Slot) : (s.setSlot r x).fw = s.fw := rfl
@[simp] theorem State.setSlot_power (s : State) (r : StrandRef) (x : Slot) : (s.setSlot r x).power = s.power := rfl
@[simp] theorem State.setSlot_quedon (s : State) (r : StrandRef) (x : Slot) : (s.setSlot r x).quedon = s.quedon := rfl
@[simp] theorem State.setSlot_sent (s : State) (r : StrandRef) (x : Slot) : (s.setSlot r x).sent = s.sent := rfl
@[simp] theorem State.setSlot_pendSent (s : State) (r : StrandRef) (x : Slot) : (s.setSlot r x).pendSent = s.pendSent := rfl

/-! `State.modSlot` changes only reels. -/

@[simp] theorem State.modSlot_tick (s : State) (r : StrandRef) (f : Slot → Slot) : (s.modSlot r f).tick = s.tick := rfl
@[simp] theorem State.modSlot_agenda (s : State) (r : StrandRef) (f : Slot → Slot) : (s.modSlot r f).agenda = s.agenda := rfl
@[simp] theorem State.modSlot_nextId (s : State) (r : StrandRef) (f : Slot → Slot) : (s.modSlot r f).nextId = s.nextId := rfl
@[simp] theorem State.modSlot_draws (s : State) (r : StrandRef) (f : Slot → Slot) : (s.modSlot r f).draws = s.draws := rfl
@[simp] theorem State.modSlot_turn (s : State) (r : StrandRef) (f : Slot → Slot) : (s.modSlot r f).turn = s.turn := rfl
@[simp] theorem State.modSlot_cur (s : State) (r : StrandRef) (f : Slot → Slot) : (s.modSlot r f).cur = s.cur := rfl
@[simp] theorem State.modSlot_held (s : State) (r : StrandRef) (f : Slot → Slot) : (s.modSlot r f).held = s.held := rfl
@[simp] theorem State.modSlot_mem (s : State) (r : StrandRef) (f : Slot → Slot) : (s.modSlot r f).mem = s.mem := rfl
@[simp] theorem State.modSlot_mpsn (s : State) (r : StrandRef) (f : Slot → Slot) : (s.modSlot r f).mpsn = s.mpsn := rfl
@[simp] theorem State.modSlot_dirs (s : State) (r : StrandRef) (f : Slot → Slot) : (s.modSlot r f).dirs = s.dirs := rfl
@[simp] theorem State.modSlot_reqs (s : State) (r : StrandRef) (f : Slot → Slot) : (s.modSlot r f).reqs = s.reqs := rfl
@[simp] theorem State.modSlot_replays (s : State) (r : StrandRef) (f : Slot → Slot) : (s.modSlot r f).replays = s.replays := rfl
@[simp] theorem State.modSlot_walks (s : State) (r : StrandRef) (f : Slot → Slot) : (s.modSlot r f).walks = s.walks := rfl
@[simp] theorem State.modSlot_invs (s : State) (r : StrandRef) (f : Slot → Slot) : (s.modSlot r f).invs = s.invs := rfl
@[simp] theorem State.modSlot_saves (s : State) (r : StrandRef) (f : Slot → Slot) : (s.modSlot r f).saves = s.saves := rfl
@[simp] theorem State.modSlot_ageing (s : State) (r : StrandRef) (f : Slot → Slot) : (s.modSlot r f).ageing = s.ageing := rfl
@[simp] theorem State.modSlot_fields (s : State) (r : StrandRef) (f : Slot → Slot) : (s.modSlot r f).fields = s.fields := rfl
@[simp] theorem State.modSlot_parts (s : State) (r : StrandRef) (f : Slot → Slot) : (s.modSlot r f).parts = s.parts := rfl
@[simp] theorem State.modSlot_kites (s : State) (r : StrandRef) (f : Slot → Slot) : (s.modSlot r f).kites = s.kites := rfl
@[simp] theorem State.modSlot_lines (s : State) (r : StrandRef) (f : Slot → Slot) : (s.modSlot r f).lines = s.lines := rfl
@[simp] theorem State.modSlot_spawns (s : State) (r : StrandRef) (f : Slot → Slot) : (s.modSlot r f).spawns = s.spawns := rfl
@[simp] theorem State.modSlot_ctxs (s : State) (r : StrandRef) (f : Slot → Slot) : (s.modSlot r f).ctxs = s.ctxs := rfl
@[simp] theorem State.modSlot_ctxDesc (s : State) (r : StrandRef) (f : Slot → Slot) : (s.modSlot r f).ctxDesc = s.ctxDesc := rfl
@[simp] theorem State.modSlot_queues (s : State) (r : StrandRef) (f : Slot → Slot) : (s.modSlot r f).queues = s.queues := rfl
@[simp] theorem State.modSlot_qptr (s : State) (r : StrandRef) (f : Slot → Slot) : (s.modSlot r f).qptr = s.qptr := rfl
@[simp] theorem State.modSlot_tasks (s : State) (r : StrandRef) (f : Slot → Slot) : (s.modSlot r f).tasks = s.tasks := rfl
@[simp] theorem State.modSlot_hostPorts (s : State) (r : StrandRef) (f : Slot → Slot) : (s.modSlot r f).hostPorts = s.hostPorts := rfl
@[simp] theorem State.modSlot_peerPorts (s : State) (r : StrandRef) (f : Slot → Slot) : (s.modSlot r f).peerPorts = s.peerPorts := rfl
@[simp] theorem State.modSlot_hostWins (s : State) (r : StrandRef) (f : Slot → Slot) : (s.modSlot r f).hostWins = s.hostWins := rfl
@[simp] theorem State.modSlot_peerWins (s : State) (r : StrandRef) (f : Slot → Slot) : (s.modSlot r f).peerWins = s.peerWins := rfl
@[simp] theorem State.modSlot_peertmo (s : State) (r : StrandRef) (f : Slot → Slot) : (s.modSlot r f).peertmo = s.peertmo := rfl
@[simp] theorem State.modSlot_peerOut (s : State) (r : StrandRef) (f : Slot → Slot) : (s.modSlot r f).peerOut = s.peerOut := rfl
@[simp] theorem State.modSlot_peerSeen (s : State) (r : StrandRef) (f : Slot → Slot) : (s.modSlot r f).peerSeen = s.peerSeen := rfl
@[simp] theorem State.modSlot_peerId (s : State) (r : StrandRef) (f : Slot → Slot) : (s.modSlot r f).peerId = s.peerId := rfl
@[simp] theorem State.modSlot_pmt (s : State) (r : StrandRef) (f : Slot → Slot) : (s.modSlot r f).pmt = s.pmt := rfl
@[simp] theorem State.modSlot_fw (s : State) (r : StrandRef) (f : Slot → Slot) : (s.modSlot r f).fw = s.fw := rfl
@[simp] theorem State.modSlot_power (s : State) (r : StrandRef) (f : Slot → Slot) : (s.modSlot r f).power = s.power := rfl
@[simp] theorem State.modSlot_quedon (s : State) (r : StrandRef) (f : Slot → Slot) : (s.modSlot r f).quedon = s.quedon := rfl
@[simp] theorem State.modSlot_sent (s : State) (r : StrandRef) (f : Slot → Slot) : (s.modSlot r f).sent = s.sent := rfl
@[simp] theorem State.modSlot_pendSent (s : State) (r : StrandRef) (f : Slot → Slot) : (s.modSlot r f).pendSent = s.pendSent := rfl

/-! `State.modMe` changes only reels. -/

@[simp] theorem State.modMe_tick (s : State) (f : Slot → Slot) : (s.modMe f).tick = s.tick := rfl
@[simp] theorem State.modMe_agenda (s : State) (f : Slot → Slot) : (s.modMe f).agenda = s.agenda := rfl
@[simp] theorem State.modMe_nextId (s : State) (f : Slot → Slot) : (s.modMe f).nextId = s.nextId := rfl
@[simp] theorem State.modMe_draws (s : State) (f : Slot → Slot) : (s.modMe f).draws = s.draws := rfl
@[simp] theorem State.modMe_turn (s : State) (f : Slot → Slot) : (s.modMe f).turn = s.turn := rfl
@[simp] theorem State.modMe_cur (s : State) (f : Slot → Slot) : (s.modMe f).cur = s.cur := rfl
@[simp] theorem State.modMe_held (s : State) (f : Slot → Slot) : (s.modMe f).held = s.held := rfl
@[simp] theorem State.modMe_mem (s : State) (f : Slot → Slot) : (s.modMe f).mem = s.mem := rfl
@[simp] theorem State.modMe_mpsn (s : State) (f : Slot → Slot) : (s.modMe f).mpsn = s.mpsn := rfl
@[simp] theorem State.modMe_dirs (s : State) (f : Slot → Slot) : (s.modMe f).dirs = s.dirs := rfl
@[simp] theorem State.modMe_reqs (s : State) (f : Slot → Slot) : (s.modMe f).reqs = s.reqs := rfl
@[simp] theorem State.modMe_replays (s : State) (f : Slot → Slot) : (s.modMe f).replays = s.replays := rfl
@[simp] theorem State.modMe_walks (s : State) (f : Slot → Slot) : (s.modMe f).walks = s.walks := rfl
@[simp] theorem State.modMe_invs (s : State) (f : Slot → Slot) : (s.modMe f).invs = s.invs := rfl
@[simp] theorem State.modMe_saves (s : State) (f : Slot → Slot) : (s.modMe f).saves = s.saves := rfl
@[simp] theorem State.modMe_ageing (s : State) (f : Slot → Slot) : (s.modMe f).ageing = s.ageing := rfl
@[simp] theorem State.modMe_fields (s : State) (f : Slot → Slot) : (s.modMe f).fields = s.fields := rfl
@[simp] theorem State.modMe_parts (s : State) (f : Slot → Slot) : (s.modMe f).parts = s.parts := rfl
@[simp] theorem State.modMe_kites (s : State) (f : Slot → Slot) : (s.modMe f).kites = s.kites := rfl
@[simp] theorem State.modMe_lines (s : State) (f : Slot → Slot) : (s.modMe f).lines = s.lines := rfl
@[simp] theorem State.modMe_spawns (s : State) (f : Slot → Slot) : (s.modMe f).spawns = s.spawns := rfl
@[simp] theorem State.modMe_ctxs (s : State) (f : Slot → Slot) : (s.modMe f).ctxs = s.ctxs := rfl
@[simp] theorem State.modMe_ctxDesc (s : State) (f : Slot → Slot) : (s.modMe f).ctxDesc = s.ctxDesc := rfl
@[simp] theorem State.modMe_queues (s : State) (f : Slot → Slot) : (s.modMe f).queues = s.queues := rfl
@[simp] theorem State.modMe_qptr (s : State) (f : Slot → Slot) : (s.modMe f).qptr = s.qptr := rfl
@[simp] theorem State.modMe_tasks (s : State) (f : Slot → Slot) : (s.modMe f).tasks = s.tasks := rfl
@[simp] theorem State.modMe_hostPorts (s : State) (f : Slot → Slot) : (s.modMe f).hostPorts = s.hostPorts := rfl
@[simp] theorem State.modMe_peerPorts (s : State) (f : Slot → Slot) : (s.modMe f).peerPorts = s.peerPorts := rfl
@[simp] theorem State.modMe_hostWins (s : State) (f : Slot → Slot) : (s.modMe f).hostWins = s.hostWins := rfl
@[simp] theorem State.modMe_peerWins (s : State) (f : Slot → Slot) : (s.modMe f).peerWins = s.peerWins := rfl
@[simp] theorem State.modMe_peertmo (s : State) (f : Slot → Slot) : (s.modMe f).peertmo = s.peertmo := rfl
@[simp] theorem State.modMe_peerOut (s : State) (f : Slot → Slot) : (s.modMe f).peerOut = s.peerOut := rfl
@[simp] theorem State.modMe_peerSeen (s : State) (f : Slot → Slot) : (s.modMe f).peerSeen = s.peerSeen := rfl
@[simp] theorem State.modMe_peerId (s : State) (f : Slot → Slot) : (s.modMe f).peerId = s.peerId := rfl
@[simp] theorem State.modMe_pmt (s : State) (f : Slot → Slot) : (s.modMe f).pmt = s.pmt := rfl
@[simp] theorem State.modMe_fw (s : State) (f : Slot → Slot) : (s.modMe f).fw = s.fw := rfl
@[simp] theorem State.modMe_power (s : State) (f : Slot → Slot) : (s.modMe f).power = s.power := rfl
@[simp] theorem State.modMe_quedon (s : State) (f : Slot → Slot) : (s.modMe f).quedon = s.quedon := rfl
@[simp] theorem State.modMe_sent (s : State) (f : Slot → Slot) : (s.modMe f).sent = s.sent := rfl
@[simp] theorem State.modMe_pendSent (s : State) (f : Slot → Slot) : (s.modMe f).pendSent = s.pendSent := rfl

/-! `State.setCtx` changes only ctxs. -/

@[simp] theorem State.setCtx_tick (s : State) (n : Nat) (x : Context) : (s.setCtx n x).tick = s.tick := rfl
@[simp] theorem State.setCtx_agenda (s : State) (n : Nat) (x : Context) : (s.setCtx n x).agenda = s.agenda := rfl
@[simp] theorem State.setCtx_nextId (s : State) (n : Nat) (x : Context) : (s.setCtx n x).nextId = s.nextId := rfl
@[simp] theorem State.setCtx_draws (s : State) (n : Nat) (x : Context) : (s.setCtx n x).draws = s.draws := rfl
@[simp] theorem State.setCtx_turn (s : State) (n : Nat) (x : Context) : (s.setCtx n x).turn = s.turn := rfl
@[simp] theorem State.setCtx_cur (s : State) (n : Nat) (x : Context) : (s.setCtx n x).cur = s.cur := rfl
@[simp] theorem State.setCtx_held (s : State) (n : Nat) (x : Context) : (s.setCtx n x).held = s.held := rfl
@[simp] theorem State.setCtx_mem (s : State) (n : Nat) (x : Context) : (s.setCtx n x).mem = s.mem := rfl
@[simp] theorem State.setCtx_mpsn (s : State) (n : Nat) (x : Context) : (s.setCtx n x).mpsn = s.mpsn := rfl
@[simp] theorem State.setCtx_dirs (s : State) (n : Nat) (x : Context) : (s.setCtx n x).dirs = s.dirs := rfl
@[simp] theorem State.setCtx_reqs (s : State) (n : Nat) (x : Context) : (s.setCtx n x).reqs = s.reqs := rfl
@[simp] theorem State.setCtx_replays (s : State) (n : Nat) (x : Context) : (s.setCtx n x).replays = s.replays := rfl
@[simp] theorem State.setCtx_walks (s : State) (n : Nat) (x : Context) : (s.setCtx n x).walks = s.walks := rfl
@[simp] theorem State.setCtx_invs (s : State) (n : Nat) (x : Context) : (s.setCtx n x).invs = s.invs := rfl
@[simp] theorem State.setCtx_saves (s : State) (n : Nat) (x : Context) : (s.setCtx n x).saves = s.saves := rfl
@[simp] theorem State.setCtx_ageing (s : State) (n : Nat) (x : Context) : (s.setCtx n x).ageing = s.ageing := rfl
@[simp] theorem State.setCtx_reels (s : State) (n : Nat) (x : Context) : (s.setCtx n x).reels = s.reels := rfl
@[simp] theorem State.setCtx_fields (s : State) (n : Nat) (x : Context) : (s.setCtx n x).fields = s.fields := rfl
@[simp] theorem State.setCtx_parts (s : State) (n : Nat) (x : Context) : (s.setCtx n x).parts = s.parts := rfl
@[simp] theorem State.setCtx_kites (s : State) (n : Nat) (x : Context) : (s.setCtx n x).kites = s.kites := rfl
@[simp] theorem State.setCtx_lines (s : State) (n : Nat) (x : Context) : (s.setCtx n x).lines = s.lines := rfl
@[simp] theorem State.setCtx_spawns (s : State) (n : Nat) (x : Context) : (s.setCtx n x).spawns = s.spawns := rfl
@[simp] theorem State.setCtx_ctxDesc (s : State) (n : Nat) (x : Context) : (s.setCtx n x).ctxDesc = s.ctxDesc := rfl
@[simp] theorem State.setCtx_queues (s : State) (n : Nat) (x : Context) : (s.setCtx n x).queues = s.queues := rfl
@[simp] theorem State.setCtx_qptr (s : State) (n : Nat) (x : Context) : (s.setCtx n x).qptr = s.qptr := rfl
@[simp] theorem State.setCtx_tasks (s : State) (n : Nat) (x : Context) : (s.setCtx n x).tasks = s.tasks := rfl
@[simp] theorem State.setCtx_hostPorts (s : State) (n : Nat) (x : Context) : (s.setCtx n x).hostPorts = s.hostPorts := rfl
@[simp] theorem State.setCtx_peerPorts (s : State) (n : Nat) (x : Context) : (s.setCtx n x).peerPorts = s.peerPorts := rfl
@[simp] theorem State.setCtx_hostWins (s : State) (n : Nat) (x : Context) : (s.setCtx n x).hostWins = s.hostWins := rfl
@[simp] theorem State.setCtx_peerWins (s : State) (n : Nat) (x : Context) : (s.setCtx n x).peerWins = s.peerWins := rfl
@[simp] theorem State.setCtx_peertmo (s : State) (n : Nat) (x : Context) : (s.setCtx n x).peertmo = s.peertmo := rfl
@[simp] theorem State.setCtx_peerOut (s : State) (n : Nat) (x : Context) : (s.setCtx n x).peerOut = s.peerOut := rfl
@[simp] theorem State.setCtx_peerSeen (s : State) (n : Nat) (x : Context) : (s.setCtx n x).peerSeen = s.peerSeen := rfl
@[simp] theorem State.setCtx_peerId (s : State) (n : Nat) (x : Context) : (s.setCtx n x).peerId = s.peerId := rfl
@[simp] theorem State.setCtx_pmt (s : State) (n : Nat) (x : Context) : (s.setCtx n x).pmt = s.pmt := rfl
@[simp] theorem State.setCtx_fw (s : State) (n : Nat) (x : Context) : (s.setCtx n x).fw = s.fw := rfl
@[simp] theorem State.setCtx_power (s : State) (n : Nat) (x : Context) : (s.setCtx n x).power = s.power := rfl
@[simp] theorem State.setCtx_quedon (s : State) (n : Nat) (x : Context) : (s.setCtx n x).quedon = s.quedon := rfl
@[simp] theorem State.setCtx_sent (s : State) (n : Nat) (x : Context) : (s.setCtx n x).sent = s.sent := rfl
@[simp] theorem State.setCtx_pendSent (s : State) (n : Nat) (x : Context) : (s.setCtx n x).pendSent = s.pendSent := rfl

/-! `State.modCtx` changes only ctxs. -/

@[simp] theorem State.modCtx_tick (s : State) (n : Nat) (f : Context → Context) : (s.modCtx n f).tick = s.tick := rfl
@[simp] theorem State.modCtx_agenda (s : State) (n : Nat) (f : Context → Context) : (s.modCtx n f).agenda = s.agenda := rfl
@[simp] theorem State.modCtx_nextId (s : State) (n : Nat) (f : Context → Context) : (s.modCtx n f).nextId = s.nextId := rfl
@[simp] theorem State.modCtx_draws (s : State) (n : Nat) (f : Context → Context) : (s.modCtx n f).draws = s.draws := rfl
@[simp] theorem State.modCtx_turn (s : State) (n : Nat) (f : Context → Context) : (s.modCtx n f).turn = s.turn := rfl
@[simp] theorem State.modCtx_cur (s : State) (n : Nat) (f : Context → Context) : (s.modCtx n f).cur = s.cur := rfl
@[simp] theorem State.modCtx_held (s : State) (n : Nat) (f : Context → Context) : (s.modCtx n f).held = s.held := rfl
@[simp] theorem State.modCtx_mem (s : State) (n : Nat) (f : Context → Context) : (s.modCtx n f).mem = s.mem := rfl
@[simp] theorem State.modCtx_mpsn (s : State) (n : Nat) (f : Context → Context) : (s.modCtx n f).mpsn = s.mpsn := rfl
@[simp] theorem State.modCtx_dirs (s : State) (n : Nat) (f : Context → Context) : (s.modCtx n f).dirs = s.dirs := rfl
@[simp] theorem State.modCtx_reqs (s : State) (n : Nat) (f : Context → Context) : (s.modCtx n f).reqs = s.reqs := rfl
@[simp] theorem State.modCtx_replays (s : State) (n : Nat) (f : Context → Context) : (s.modCtx n f).replays = s.replays := rfl
@[simp] theorem State.modCtx_walks (s : State) (n : Nat) (f : Context → Context) : (s.modCtx n f).walks = s.walks := rfl
@[simp] theorem State.modCtx_invs (s : State) (n : Nat) (f : Context → Context) : (s.modCtx n f).invs = s.invs := rfl
@[simp] theorem State.modCtx_saves (s : State) (n : Nat) (f : Context → Context) : (s.modCtx n f).saves = s.saves := rfl
@[simp] theorem State.modCtx_ageing (s : State) (n : Nat) (f : Context → Context) : (s.modCtx n f).ageing = s.ageing := rfl
@[simp] theorem State.modCtx_reels (s : State) (n : Nat) (f : Context → Context) : (s.modCtx n f).reels = s.reels := rfl
@[simp] theorem State.modCtx_fields (s : State) (n : Nat) (f : Context → Context) : (s.modCtx n f).fields = s.fields := rfl
@[simp] theorem State.modCtx_parts (s : State) (n : Nat) (f : Context → Context) : (s.modCtx n f).parts = s.parts := rfl
@[simp] theorem State.modCtx_kites (s : State) (n : Nat) (f : Context → Context) : (s.modCtx n f).kites = s.kites := rfl
@[simp] theorem State.modCtx_lines (s : State) (n : Nat) (f : Context → Context) : (s.modCtx n f).lines = s.lines := rfl
@[simp] theorem State.modCtx_spawns (s : State) (n : Nat) (f : Context → Context) : (s.modCtx n f).spawns = s.spawns := rfl
@[simp] theorem State.modCtx_ctxDesc (s : State) (n : Nat) (f : Context → Context) : (s.modCtx n f).ctxDesc = s.ctxDesc := rfl
@[simp] theorem State.modCtx_queues (s : State) (n : Nat) (f : Context → Context) : (s.modCtx n f).queues = s.queues := rfl
@[simp] theorem State.modCtx_qptr (s : State) (n : Nat) (f : Context → Context) : (s.modCtx n f).qptr = s.qptr := rfl
@[simp] theorem State.modCtx_tasks (s : State) (n : Nat) (f : Context → Context) : (s.modCtx n f).tasks = s.tasks := rfl
@[simp] theorem State.modCtx_hostPorts (s : State) (n : Nat) (f : Context → Context) : (s.modCtx n f).hostPorts = s.hostPorts := rfl
@[simp] theorem State.modCtx_peerPorts (s : State) (n : Nat) (f : Context → Context) : (s.modCtx n f).peerPorts = s.peerPorts := rfl
@[simp] theorem State.modCtx_hostWins (s : State) (n : Nat) (f : Context → Context) : (s.modCtx n f).hostWins = s.hostWins := rfl
@[simp] theorem State.modCtx_peerWins (s : State) (n : Nat) (f : Context → Context) : (s.modCtx n f).peerWins = s.peerWins := rfl
@[simp] theorem State.modCtx_peertmo (s : State) (n : Nat) (f : Context → Context) : (s.modCtx n f).peertmo = s.peertmo := rfl
@[simp] theorem State.modCtx_peerOut (s : State) (n : Nat) (f : Context → Context) : (s.modCtx n f).peerOut = s.peerOut := rfl
@[simp] theorem State.modCtx_peerSeen (s : State) (n : Nat) (f : Context → Context) : (s.modCtx n f).peerSeen = s.peerSeen := rfl
@[simp] theorem State.modCtx_peerId (s : State) (n : Nat) (f : Context → Context) : (s.modCtx n f).peerId = s.peerId := rfl
@[simp] theorem State.modCtx_pmt (s : State) (n : Nat) (f : Context → Context) : (s.modCtx n f).pmt = s.pmt := rfl
@[simp] theorem State.modCtx_fw (s : State) (n : Nat) (f : Context → Context) : (s.modCtx n f).fw = s.fw := rfl
@[simp] theorem State.modCtx_power (s : State) (n : Nat) (f : Context → Context) : (s.modCtx n f).power = s.power := rfl
@[simp] theorem State.modCtx_quedon (s : State) (n : Nat) (f : Context → Context) : (s.modCtx n f).quedon = s.quedon := rfl
@[simp] theorem State.modCtx_sent (s : State) (n : Nat) (f : Context → Context) : (s.modCtx n f).sent = s.sent := rfl
@[simp] theorem State.modCtx_pendSent (s : State) (n : Nat) (f : Context → Context) : (s.modCtx n f).pendSent = s.pendSent := rfl

/-! `State.setField` changes only fields. -/

@[simp] theorem State.setField_tick (s : State) (n : Nat) (x : Field) : (s.setField n x).tick = s.tick := rfl
@[simp] theorem State.setField_agenda (s : State) (n : Nat) (x : Field) : (s.setField n x).agenda = s.agenda := rfl
@[simp] theorem State.setField_nextId (s : State) (n : Nat) (x : Field) : (s.setField n x).nextId = s.nextId := rfl
@[simp] theorem State.setField_draws (s : State) (n : Nat) (x : Field) : (s.setField n x).draws = s.draws := rfl
@[simp] theorem State.setField_turn (s : State) (n : Nat) (x : Field) : (s.setField n x).turn = s.turn := rfl
@[simp] theorem State.setField_cur (s : State) (n : Nat) (x : Field) : (s.setField n x).cur = s.cur := rfl
@[simp] theorem State.setField_held (s : State) (n : Nat) (x : Field) : (s.setField n x).held = s.held := rfl
@[simp] theorem State.setField_mem (s : State) (n : Nat) (x : Field) : (s.setField n x).mem = s.mem := rfl
@[simp] theorem State.setField_mpsn (s : State) (n : Nat) (x : Field) : (s.setField n x).mpsn = s.mpsn := rfl
@[simp] theorem State.setField_dirs (s : State) (n : Nat) (x : Field) : (s.setField n x).dirs = s.dirs := rfl
@[simp] theorem State.setField_reqs (s : State) (n : Nat) (x : Field) : (s.setField n x).reqs = s.reqs := rfl
@[simp] theorem State.setField_replays (s : State) (n : Nat) (x : Field) : (s.setField n x).replays = s.replays := rfl
@[simp] theorem State.setField_walks (s : State) (n : Nat) (x : Field) : (s.setField n x).walks = s.walks := rfl
@[simp] theorem State.setField_invs (s : State) (n : Nat) (x : Field) : (s.setField n x).invs = s.invs := rfl
@[simp] theorem State.setField_saves (s : State) (n : Nat) (x : Field) : (s.setField n x).saves = s.saves := rfl
@[simp] theorem State.setField_ageing (s : State) (n : Nat) (x : Field) : (s.setField n x).ageing = s.ageing := rfl
@[simp] theorem State.setField_reels (s : State) (n : Nat) (x : Field) : (s.setField n x).reels = s.reels := rfl
@[simp] theorem State.setField_parts (s : State) (n : Nat) (x : Field) : (s.setField n x).parts = s.parts := rfl
@[simp] theorem State.setField_kites (s : State) (n : Nat) (x : Field) : (s.setField n x).kites = s.kites := rfl
@[simp] theorem State.setField_lines (s : State) (n : Nat) (x : Field) : (s.setField n x).lines = s.lines := rfl
@[simp] theorem State.setField_spawns (s : State) (n : Nat) (x : Field) : (s.setField n x).spawns = s.spawns := rfl
@[simp] theorem State.setField_ctxs (s : State) (n : Nat) (x : Field) : (s.setField n x).ctxs = s.ctxs := rfl
@[simp] theorem State.setField_ctxDesc (s : State) (n : Nat) (x : Field) : (s.setField n x).ctxDesc = s.ctxDesc := rfl
@[simp] theorem State.setField_queues (s : State) (n : Nat) (x : Field) : (s.setField n x).queues = s.queues := rfl
@[simp] theorem State.setField_qptr (s : State) (n : Nat) (x : Field) : (s.setField n x).qptr = s.qptr := rfl
@[simp] theorem State.setField_tasks (s : State) (n : Nat) (x : Field) : (s.setField n x).tasks = s.tasks := rfl
@[simp] theorem State.setField_hostPorts (s : State) (n : Nat) (x : Field) : (s.setField n x).hostPorts = s.hostPorts := rfl
@[simp] theorem State.setField_peerPorts (s : State) (n : Nat) (x : Field) : (s.setField n x).peerPorts = s.peerPorts := rfl
@[simp] theorem State.setField_hostWins (s : State) (n : Nat) (x : Field) : (s.setField n x).hostWins = s.hostWins := rfl
@[simp] theorem State.setField_peerWins (s : State) (n : Nat) (x : Field) : (s.setField n x).peerWins = s.peerWins := rfl
@[simp] theorem State.setField_peertmo (s : State) (n : Nat) (x : Field) : (s.setField n x).peertmo = s.peertmo := rfl
@[simp] theorem State.setField_peerOut (s : State) (n : Nat) (x : Field) : (s.setField n x).peerOut = s.peerOut := rfl
@[simp] theorem State.setField_peerSeen (s : State) (n : Nat) (x : Field) : (s.setField n x).peerSeen = s.peerSeen := rfl
@[simp] theorem State.setField_peerId (s : State) (n : Nat) (x : Field) : (s.setField n x).peerId = s.peerId := rfl
@[simp] theorem State.setField_pmt (s : State) (n : Nat) (x : Field) : (s.setField n x).pmt = s.pmt := rfl
@[simp] theorem State.setField_fw (s : State) (n : Nat) (x : Field) : (s.setField n x).fw = s.fw := rfl
@[simp] theorem State.setField_power (s : State) (n : Nat) (x : Field) : (s.setField n x).power = s.power := rfl
@[simp] theorem State.setField_quedon (s : State) (n : Nat) (x : Field) : (s.setField n x).quedon = s.quedon := rfl
@[simp] theorem State.setField_sent (s : State) (n : Nat) (x : Field) : (s.setField n x).sent = s.sent := rfl
@[simp] theorem State.setField_pendSent (s : State) (n : Nat) (x : Field) : (s.setField n x).pendSent = s.pendSent := rfl

/-! `State.modField` changes only fields. -/

@[simp] theorem State.modField_tick (s : State) (n : Nat) (f : Field → Field) : (s.modField n f).tick = s.tick := rfl
@[simp] theorem State.modField_agenda (s : State) (n : Nat) (f : Field → Field) : (s.modField n f).agenda = s.agenda := rfl
@[simp] theorem State.modField_nextId (s : State) (n : Nat) (f : Field → Field) : (s.modField n f).nextId = s.nextId := rfl
@[simp] theorem State.modField_draws (s : State) (n : Nat) (f : Field → Field) : (s.modField n f).draws = s.draws := rfl
@[simp] theorem State.modField_turn (s : State) (n : Nat) (f : Field → Field) : (s.modField n f).turn = s.turn := rfl
@[simp] theorem State.modField_cur (s : State) (n : Nat) (f : Field → Field) : (s.modField n f).cur = s.cur := rfl
@[simp] theorem State.modField_held (s : State) (n : Nat) (f : Field → Field) : (s.modField n f).held = s.held := rfl
@[simp] theorem State.modField_mem (s : State) (n : Nat) (f : Field → Field) : (s.modField n f).mem = s.mem := rfl
@[simp] theorem State.modField_mpsn (s : State) (n : Nat) (f : Field → Field) : (s.modField n f).mpsn = s.mpsn := rfl
@[simp] theorem State.modField_dirs (s : State) (n : Nat) (f : Field → Field) : (s.modField n f).dirs = s.dirs := rfl
@[simp] theorem State.modField_reqs (s : State) (n : Nat) (f : Field → Field) : (s.modField n f).reqs = s.reqs := rfl
@[simp] theorem State.modField_replays (s : State) (n : Nat) (f : Field → Field) : (s.modField n f).replays = s.replays := rfl
@[simp] theorem State.modField_walks (s : State) (n : Nat) (f : Field → Field) : (s.modField n f).walks = s.walks := rfl
@[simp] theorem State.modField_invs (s : State) (n : Nat) (f : Field → Field) : (s.modField n f).invs = s.invs := rfl
@[simp] theorem State.modField_saves (s : State) (n : Nat) (f : Field → Field) : (s.modField n f).saves = s.saves := rfl
@[simp] theorem State.modField_ageing (s : State) (n : Nat) (f : Field → Field) : (s.modField n f).ageing = s.ageing := rfl
@[simp] theorem State.modField_reels (s : State) (n : Nat) (f : Field → Field) : (s.modField n f).reels = s.reels := rfl
@[simp] theorem State.modField_parts (s : State) (n : Nat) (f : Field → Field) : (s.modField n f).parts = s.parts := rfl
@[simp] theorem State.modField_kites (s : State) (n : Nat) (f : Field → Field) : (s.modField n f).kites = s.kites := rfl
@[simp] theorem State.modField_lines (s : State) (n : Nat) (f : Field → Field) : (s.modField n f).lines = s.lines := rfl
@[simp] theorem State.modField_spawns (s : State) (n : Nat) (f : Field → Field) : (s.modField n f).spawns = s.spawns := rfl
@[simp] theorem State.modField_ctxs (s : State) (n : Nat) (f : Field → Field) : (s.modField n f).ctxs = s.ctxs := rfl
@[simp] theorem State.modField_ctxDesc (s : State) (n : Nat) (f : Field → Field) : (s.modField n f).ctxDesc = s.ctxDesc := rfl
@[simp] theorem State.modField_queues (s : State) (n : Nat) (f : Field → Field) : (s.modField n f).queues = s.queues := rfl
@[simp] theorem State.modField_qptr (s : State) (n : Nat) (f : Field → Field) : (s.modField n f).qptr = s.qptr := rfl
@[simp] theorem State.modField_tasks (s : State) (n : Nat) (f : Field → Field) : (s.modField n f).tasks = s.tasks := rfl
@[simp] theorem State.modField_hostPorts (s : State) (n : Nat) (f : Field → Field) : (s.modField n f).hostPorts = s.hostPorts := rfl
@[simp] theorem State.modField_peerPorts (s : State) (n : Nat) (f : Field → Field) : (s.modField n f).peerPorts = s.peerPorts := rfl
@[simp] theorem State.modField_hostWins (s : State) (n : Nat) (f : Field → Field) : (s.modField n f).hostWins = s.hostWins := rfl
@[simp] theorem State.modField_peerWins (s : State) (n : Nat) (f : Field → Field) : (s.modField n f).peerWins = s.peerWins := rfl
@[simp] theorem State.modField_peertmo (s : State) (n : Nat) (f : Field → Field) : (s.modField n f).peertmo = s.peertmo := rfl
@[simp] theorem State.modField_peerOut (s : State) (n : Nat) (f : Field → Field) : (s.modField n f).peerOut = s.peerOut := rfl
@[simp] theorem State.modField_peerSeen (s : State) (n : Nat) (f : Field → Field) : (s.modField n f).peerSeen = s.peerSeen := rfl
@[simp] theorem State.modField_peerId (s : State) (n : Nat) (f : Field → Field) : (s.modField n f).peerId = s.peerId := rfl
@[simp] theorem State.modField_pmt (s : State) (n : Nat) (f : Field → Field) : (s.modField n f).pmt = s.pmt := rfl
@[simp] theorem State.modField_fw (s : State) (n : Nat) (f : Field → Field) : (s.modField n f).fw = s.fw := rfl
@[simp] theorem State.modField_power (s : State) (n : Nat) (f : Field → Field) : (s.modField n f).power = s.power := rfl
@[simp] theorem State.modField_quedon (s : State) (n : Nat) (f : Field → Field) : (s.modField n f).quedon = s.quedon := rfl
@[simp] theorem State.modField_sent (s : State) (n : Nat) (f : Field → Field) : (s.modField n f).sent = s.sent := rfl
@[simp] theorem State.modField_pendSent (s : State) (n : Nat) (f : Field → Field) : (s.modField n f).pendSent = s.pendSent := rfl

/-! `State.modPart` changes only parts. -/

@[simp] theorem State.modPart_tick (s : State) (n : Nat) (f : Partition → Partition) : (s.modPart n f).tick = s.tick := rfl
@[simp] theorem State.modPart_agenda (s : State) (n : Nat) (f : Partition → Partition) : (s.modPart n f).agenda = s.agenda := rfl
@[simp] theorem State.modPart_nextId (s : State) (n : Nat) (f : Partition → Partition) : (s.modPart n f).nextId = s.nextId := rfl
@[simp] theorem State.modPart_draws (s : State) (n : Nat) (f : Partition → Partition) : (s.modPart n f).draws = s.draws := rfl
@[simp] theorem State.modPart_turn (s : State) (n : Nat) (f : Partition → Partition) : (s.modPart n f).turn = s.turn := rfl
@[simp] theorem State.modPart_cur (s : State) (n : Nat) (f : Partition → Partition) : (s.modPart n f).cur = s.cur := rfl
@[simp] theorem State.modPart_held (s : State) (n : Nat) (f : Partition → Partition) : (s.modPart n f).held = s.held := rfl
@[simp] theorem State.modPart_mem (s : State) (n : Nat) (f : Partition → Partition) : (s.modPart n f).mem = s.mem := rfl
@[simp] theorem State.modPart_mpsn (s : State) (n : Nat) (f : Partition → Partition) : (s.modPart n f).mpsn = s.mpsn := rfl
@[simp] theorem State.modPart_dirs (s : State) (n : Nat) (f : Partition → Partition) : (s.modPart n f).dirs = s.dirs := rfl
@[simp] theorem State.modPart_reqs (s : State) (n : Nat) (f : Partition → Partition) : (s.modPart n f).reqs = s.reqs := rfl
@[simp] theorem State.modPart_replays (s : State) (n : Nat) (f : Partition → Partition) : (s.modPart n f).replays = s.replays := rfl
@[simp] theorem State.modPart_walks (s : State) (n : Nat) (f : Partition → Partition) : (s.modPart n f).walks = s.walks := rfl
@[simp] theorem State.modPart_invs (s : State) (n : Nat) (f : Partition → Partition) : (s.modPart n f).invs = s.invs := rfl
@[simp] theorem State.modPart_saves (s : State) (n : Nat) (f : Partition → Partition) : (s.modPart n f).saves = s.saves := rfl
@[simp] theorem State.modPart_ageing (s : State) (n : Nat) (f : Partition → Partition) : (s.modPart n f).ageing = s.ageing := rfl
@[simp] theorem State.modPart_reels (s : State) (n : Nat) (f : Partition → Partition) : (s.modPart n f).reels = s.reels := rfl
@[simp] theorem State.modPart_fields (s : State) (n : Nat) (f : Partition → Partition) : (s.modPart n f).fields = s.fields := rfl
@[simp] theorem State.modPart_kites (s : State) (n : Nat) (f : Partition → Partition) : (s.modPart n f).kites = s.kites := rfl
@[simp] theorem State.modPart_lines (s : State) (n : Nat) (f : Partition → Partition) : (s.modPart n f).lines = s.lines := rfl
@[simp] theorem State.modPart_spawns (s : State) (n : Nat) (f : Partition → Partition) : (s.modPart n f).spawns = s.spawns := rfl
@[simp] theorem State.modPart_ctxs (s : State) (n : Nat) (f : Partition → Partition) : (s.modPart n f).ctxs = s.ctxs := rfl
@[simp] theorem State.modPart_ctxDesc (s : State) (n : Nat) (f : Partition → Partition) : (s.modPart n f).ctxDesc = s.ctxDesc := rfl
@[simp] theorem State.modPart_queues (s : State) (n : Nat) (f : Partition → Partition) : (s.modPart n f).queues = s.queues := rfl
@[simp] theorem State.modPart_qptr (s : State) (n : Nat) (f : Partition → Partition) : (s.modPart n f).qptr = s.qptr := rfl
@[simp] theorem State.modPart_tasks (s : State) (n : Nat) (f : Partition → Partition) : (s.modPart n f).tasks = s.tasks := rfl
@[simp] theorem State.modPart_hostPorts (s : State) (n : Nat) (f : Partition → Partition) : (s.modPart n f).hostPorts = s.hostPorts := rfl
@[simp] theorem State.modPart_peerPorts (s : State) (n : Nat) (f : Partition → Partition) : (s.modPart n f).peerPorts = s.peerPorts := rfl
@[simp] theorem State.modPart_hostWins (s : State) (n : Nat) (f : Partition → Partition) : (s.modPart n f).hostWins = s.hostWins := rfl
@[simp] theorem State.modPart_peerWins (s : State) (n : Nat) (f : Partition → Partition) : (s.modPart n f).peerWins = s.peerWins := rfl
@[simp] theorem State.modPart_peertmo (s : State) (n : Nat) (f : Partition → Partition) : (s.modPart n f).peertmo = s.peertmo := rfl
@[simp] theorem State.modPart_peerOut (s : State) (n : Nat) (f : Partition → Partition) : (s.modPart n f).peerOut = s.peerOut := rfl
@[simp] theorem State.modPart_peerSeen (s : State) (n : Nat) (f : Partition → Partition) : (s.modPart n f).peerSeen = s.peerSeen := rfl
@[simp] theorem State.modPart_peerId (s : State) (n : Nat) (f : Partition → Partition) : (s.modPart n f).peerId = s.peerId := rfl
@[simp] theorem State.modPart_pmt (s : State) (n : Nat) (f : Partition → Partition) : (s.modPart n f).pmt = s.pmt := rfl
@[simp] theorem State.modPart_fw (s : State) (n : Nat) (f : Partition → Partition) : (s.modPart n f).fw = s.fw := rfl
@[simp] theorem State.modPart_power (s : State) (n : Nat) (f : Partition → Partition) : (s.modPart n f).power = s.power := rfl
@[simp] theorem State.modPart_quedon (s : State) (n : Nat) (f : Partition → Partition) : (s.modPart n f).quedon = s.quedon := rfl
@[simp] theorem State.modPart_sent (s : State) (n : Nat) (f : Partition → Partition) : (s.modPart n f).sent = s.sent := rfl
@[simp] theorem State.modPart_pendSent (s : State) (n : Nat) (f : Partition → Partition) : (s.modPart n f).pendSent = s.pendSent := rfl

/-! `State.record` changes only ctxs. -/

@[simp] theorem State.record_tick (s : State) (n : Nat) (r : Record) : (s.record n r).tick = s.tick := rfl
@[simp] theorem State.record_agenda (s : State) (n : Nat) (r : Record) : (s.record n r).agenda = s.agenda := rfl
@[simp] theorem State.record_nextId (s : State) (n : Nat) (r : Record) : (s.record n r).nextId = s.nextId := rfl
@[simp] theorem State.record_draws (s : State) (n : Nat) (r : Record) : (s.record n r).draws = s.draws := rfl
@[simp] theorem State.record_turn (s : State) (n : Nat) (r : Record) : (s.record n r).turn = s.turn := rfl
@[simp] theorem State.record_cur (s : State) (n : Nat) (r : Record) : (s.record n r).cur = s.cur := rfl
@[simp] theorem State.record_held (s : State) (n : Nat) (r : Record) : (s.record n r).held = s.held := rfl
@[simp] theorem State.record_mem (s : State) (n : Nat) (r : Record) : (s.record n r).mem = s.mem := rfl
@[simp] theorem State.record_mpsn (s : State) (n : Nat) (r : Record) : (s.record n r).mpsn = s.mpsn := rfl
@[simp] theorem State.record_dirs (s : State) (n : Nat) (r : Record) : (s.record n r).dirs = s.dirs := rfl
@[simp] theorem State.record_reqs (s : State) (n : Nat) (r : Record) : (s.record n r).reqs = s.reqs := rfl
@[simp] theorem State.record_replays (s : State) (n : Nat) (r : Record) : (s.record n r).replays = s.replays := rfl
@[simp] theorem State.record_walks (s : State) (n : Nat) (r : Record) : (s.record n r).walks = s.walks := rfl
@[simp] theorem State.record_invs (s : State) (n : Nat) (r : Record) : (s.record n r).invs = s.invs := rfl
@[simp] theorem State.record_saves (s : State) (n : Nat) (r : Record) : (s.record n r).saves = s.saves := rfl
@[simp] theorem State.record_ageing (s : State) (n : Nat) (r : Record) : (s.record n r).ageing = s.ageing := rfl
@[simp] theorem State.record_reels (s : State) (n : Nat) (r : Record) : (s.record n r).reels = s.reels := rfl
@[simp] theorem State.record_fields (s : State) (n : Nat) (r : Record) : (s.record n r).fields = s.fields := rfl
@[simp] theorem State.record_parts (s : State) (n : Nat) (r : Record) : (s.record n r).parts = s.parts := rfl
@[simp] theorem State.record_kites (s : State) (n : Nat) (r : Record) : (s.record n r).kites = s.kites := rfl
@[simp] theorem State.record_lines (s : State) (n : Nat) (r : Record) : (s.record n r).lines = s.lines := rfl
@[simp] theorem State.record_spawns (s : State) (n : Nat) (r : Record) : (s.record n r).spawns = s.spawns := rfl
@[simp] theorem State.record_ctxDesc (s : State) (n : Nat) (r : Record) : (s.record n r).ctxDesc = s.ctxDesc := rfl
@[simp] theorem State.record_queues (s : State) (n : Nat) (r : Record) : (s.record n r).queues = s.queues := rfl
@[simp] theorem State.record_qptr (s : State) (n : Nat) (r : Record) : (s.record n r).qptr = s.qptr := rfl
@[simp] theorem State.record_tasks (s : State) (n : Nat) (r : Record) : (s.record n r).tasks = s.tasks := rfl
@[simp] theorem State.record_hostPorts (s : State) (n : Nat) (r : Record) : (s.record n r).hostPorts = s.hostPorts := rfl
@[simp] theorem State.record_peerPorts (s : State) (n : Nat) (r : Record) : (s.record n r).peerPorts = s.peerPorts := rfl
@[simp] theorem State.record_hostWins (s : State) (n : Nat) (r : Record) : (s.record n r).hostWins = s.hostWins := rfl
@[simp] theorem State.record_peerWins (s : State) (n : Nat) (r : Record) : (s.record n r).peerWins = s.peerWins := rfl
@[simp] theorem State.record_peertmo (s : State) (n : Nat) (r : Record) : (s.record n r).peertmo = s.peertmo := rfl
@[simp] theorem State.record_peerOut (s : State) (n : Nat) (r : Record) : (s.record n r).peerOut = s.peerOut := rfl
@[simp] theorem State.record_peerSeen (s : State) (n : Nat) (r : Record) : (s.record n r).peerSeen = s.peerSeen := rfl
@[simp] theorem State.record_peerId (s : State) (n : Nat) (r : Record) : (s.record n r).peerId = s.peerId := rfl
@[simp] theorem State.record_pmt (s : State) (n : Nat) (r : Record) : (s.record n r).pmt = s.pmt := rfl
@[simp] theorem State.record_fw (s : State) (n : Nat) (r : Record) : (s.record n r).fw = s.fw := rfl
@[simp] theorem State.record_power (s : State) (n : Nat) (r : Record) : (s.record n r).power = s.power := rfl
@[simp] theorem State.record_quedon (s : State) (n : Nat) (r : Record) : (s.record n r).quedon = s.quedon := rfl
@[simp] theorem State.record_sent (s : State) (n : Nat) (r : Record) : (s.record n r).sent = s.sent := rfl
@[simp] theorem State.record_pendSent (s : State) (n : Nat) (r : Record) : (s.record n r).pendSent = s.pendSent := rfl

/-! `State.takeFault` changes only reels, ctxs, fields. -/

@[simp] theorem State.takeFault_tick (s : State) (r : StrandRef) (x : Trap) (w : Word) : (s.takeFault r x w).tick = s.tick := by simp [State.takeFault]
@[simp] theorem State.takeFault_agenda (s : State) (r : StrandRef) (x : Trap) (w : Word) : (s.takeFault r x w).agenda = s.agenda := by simp [State.takeFault]
@[simp] theorem State.takeFault_nextId (s : State) (r : StrandRef) (x : Trap) (w : Word) : (s.takeFault r x w).nextId = s.nextId := by simp [State.takeFault]
@[simp] theorem State.takeFault_draws (s : State) (r : StrandRef) (x : Trap) (w : Word) : (s.takeFault r x w).draws = s.draws := by simp [State.takeFault]
@[simp] theorem State.takeFault_turn (s : State) (r : StrandRef) (x : Trap) (w : Word) : (s.takeFault r x w).turn = s.turn := by simp [State.takeFault]
@[simp] theorem State.takeFault_cur (s : State) (r : StrandRef) (x : Trap) (w : Word) : (s.takeFault r x w).cur = s.cur := by simp [State.takeFault]
@[simp] theorem State.takeFault_held (s : State) (r : StrandRef) (x : Trap) (w : Word) : (s.takeFault r x w).held = s.held := by simp [State.takeFault]
@[simp] theorem State.takeFault_mem (s : State) (r : StrandRef) (x : Trap) (w : Word) : (s.takeFault r x w).mem = s.mem := by simp [State.takeFault]
@[simp] theorem State.takeFault_mpsn (s : State) (r : StrandRef) (x : Trap) (w : Word) : (s.takeFault r x w).mpsn = s.mpsn := by simp [State.takeFault]
@[simp] theorem State.takeFault_dirs (s : State) (r : StrandRef) (x : Trap) (w : Word) : (s.takeFault r x w).dirs = s.dirs := by simp [State.takeFault]
@[simp] theorem State.takeFault_reqs (s : State) (r : StrandRef) (x : Trap) (w : Word) : (s.takeFault r x w).reqs = s.reqs := by simp [State.takeFault]
@[simp] theorem State.takeFault_replays (s : State) (r : StrandRef) (x : Trap) (w : Word) : (s.takeFault r x w).replays = s.replays := by simp [State.takeFault]
@[simp] theorem State.takeFault_walks (s : State) (r : StrandRef) (x : Trap) (w : Word) : (s.takeFault r x w).walks = s.walks := by simp [State.takeFault]
@[simp] theorem State.takeFault_invs (s : State) (r : StrandRef) (x : Trap) (w : Word) : (s.takeFault r x w).invs = s.invs := by simp [State.takeFault]
@[simp] theorem State.takeFault_saves (s : State) (r : StrandRef) (x : Trap) (w : Word) : (s.takeFault r x w).saves = s.saves := by simp [State.takeFault]
@[simp] theorem State.takeFault_ageing (s : State) (r : StrandRef) (x : Trap) (w : Word) : (s.takeFault r x w).ageing = s.ageing := by simp [State.takeFault]
@[simp] theorem State.takeFault_parts (s : State) (r : StrandRef) (x : Trap) (w : Word) : (s.takeFault r x w).parts = s.parts := by simp [State.takeFault]
@[simp] theorem State.takeFault_kites (s : State) (r : StrandRef) (x : Trap) (w : Word) : (s.takeFault r x w).kites = s.kites := by simp [State.takeFault]
@[simp] theorem State.takeFault_lines (s : State) (r : StrandRef) (x : Trap) (w : Word) : (s.takeFault r x w).lines = s.lines := by simp [State.takeFault]
@[simp] theorem State.takeFault_spawns (s : State) (r : StrandRef) (x : Trap) (w : Word) : (s.takeFault r x w).spawns = s.spawns := by simp [State.takeFault]
@[simp] theorem State.takeFault_ctxDesc (s : State) (r : StrandRef) (x : Trap) (w : Word) : (s.takeFault r x w).ctxDesc = s.ctxDesc := by simp [State.takeFault]
@[simp] theorem State.takeFault_queues (s : State) (r : StrandRef) (x : Trap) (w : Word) : (s.takeFault r x w).queues = s.queues := by simp [State.takeFault]
@[simp] theorem State.takeFault_qptr (s : State) (r : StrandRef) (x : Trap) (w : Word) : (s.takeFault r x w).qptr = s.qptr := by simp [State.takeFault]
@[simp] theorem State.takeFault_tasks (s : State) (r : StrandRef) (x : Trap) (w : Word) : (s.takeFault r x w).tasks = s.tasks := by simp [State.takeFault]
@[simp] theorem State.takeFault_hostPorts (s : State) (r : StrandRef) (x : Trap) (w : Word) : (s.takeFault r x w).hostPorts = s.hostPorts := by simp [State.takeFault]
@[simp] theorem State.takeFault_peerPorts (s : State) (r : StrandRef) (x : Trap) (w : Word) : (s.takeFault r x w).peerPorts = s.peerPorts := by simp [State.takeFault]
@[simp] theorem State.takeFault_hostWins (s : State) (r : StrandRef) (x : Trap) (w : Word) : (s.takeFault r x w).hostWins = s.hostWins := by simp [State.takeFault]
@[simp] theorem State.takeFault_peerWins (s : State) (r : StrandRef) (x : Trap) (w : Word) : (s.takeFault r x w).peerWins = s.peerWins := by simp [State.takeFault]
@[simp] theorem State.takeFault_peertmo (s : State) (r : StrandRef) (x : Trap) (w : Word) : (s.takeFault r x w).peertmo = s.peertmo := by simp [State.takeFault]
@[simp] theorem State.takeFault_peerOut (s : State) (r : StrandRef) (x : Trap) (w : Word) : (s.takeFault r x w).peerOut = s.peerOut := by simp [State.takeFault]
@[simp] theorem State.takeFault_peerSeen (s : State) (r : StrandRef) (x : Trap) (w : Word) : (s.takeFault r x w).peerSeen = s.peerSeen := by simp [State.takeFault]
@[simp] theorem State.takeFault_peerId (s : State) (r : StrandRef) (x : Trap) (w : Word) : (s.takeFault r x w).peerId = s.peerId := by simp [State.takeFault]
@[simp] theorem State.takeFault_pmt (s : State) (r : StrandRef) (x : Trap) (w : Word) : (s.takeFault r x w).pmt = s.pmt := by simp [State.takeFault]
@[simp] theorem State.takeFault_fw (s : State) (r : StrandRef) (x : Trap) (w : Word) : (s.takeFault r x w).fw = s.fw := by simp [State.takeFault]
@[simp] theorem State.takeFault_power (s : State) (r : StrandRef) (x : Trap) (w : Word) : (s.takeFault r x w).power = s.power := by simp [State.takeFault]
@[simp] theorem State.takeFault_quedon (s : State) (r : StrandRef) (x : Trap) (w : Word) : (s.takeFault r x w).quedon = s.quedon := by simp [State.takeFault]
@[simp] theorem State.takeFault_sent (s : State) (r : StrandRef) (x : Trap) (w : Word) : (s.takeFault r x w).sent = s.sent := by simp [State.takeFault]
@[simp] theorem State.takeFault_pendSent (s : State) (r : StrandRef) (x : Trap) (w : Word) : (s.takeFault r x w).pendSent = s.pendSent := by simp [State.takeFault]

/-! `State.trapAt` changes only reels, ctxs, fields. -/

@[simp] theorem State.trapAt_tick (s : State) (i : Instr) (x : Trap) : (s.trapAt i x).tick = s.tick := by simp [State.trapAt]
@[simp] theorem State.trapAt_agenda (s : State) (i : Instr) (x : Trap) : (s.trapAt i x).agenda = s.agenda := by simp [State.trapAt]
@[simp] theorem State.trapAt_nextId (s : State) (i : Instr) (x : Trap) : (s.trapAt i x).nextId = s.nextId := by simp [State.trapAt]
@[simp] theorem State.trapAt_draws (s : State) (i : Instr) (x : Trap) : (s.trapAt i x).draws = s.draws := by simp [State.trapAt]
@[simp] theorem State.trapAt_turn (s : State) (i : Instr) (x : Trap) : (s.trapAt i x).turn = s.turn := by simp [State.trapAt]
@[simp] theorem State.trapAt_cur (s : State) (i : Instr) (x : Trap) : (s.trapAt i x).cur = s.cur := by simp [State.trapAt]
@[simp] theorem State.trapAt_held (s : State) (i : Instr) (x : Trap) : (s.trapAt i x).held = s.held := by simp [State.trapAt]
@[simp] theorem State.trapAt_mem (s : State) (i : Instr) (x : Trap) : (s.trapAt i x).mem = s.mem := by simp [State.trapAt]
@[simp] theorem State.trapAt_mpsn (s : State) (i : Instr) (x : Trap) : (s.trapAt i x).mpsn = s.mpsn := by simp [State.trapAt]
@[simp] theorem State.trapAt_dirs (s : State) (i : Instr) (x : Trap) : (s.trapAt i x).dirs = s.dirs := by simp [State.trapAt]
@[simp] theorem State.trapAt_reqs (s : State) (i : Instr) (x : Trap) : (s.trapAt i x).reqs = s.reqs := by simp [State.trapAt]
@[simp] theorem State.trapAt_replays (s : State) (i : Instr) (x : Trap) : (s.trapAt i x).replays = s.replays := by simp [State.trapAt]
@[simp] theorem State.trapAt_walks (s : State) (i : Instr) (x : Trap) : (s.trapAt i x).walks = s.walks := by simp [State.trapAt]
@[simp] theorem State.trapAt_invs (s : State) (i : Instr) (x : Trap) : (s.trapAt i x).invs = s.invs := by simp [State.trapAt]
@[simp] theorem State.trapAt_saves (s : State) (i : Instr) (x : Trap) : (s.trapAt i x).saves = s.saves := by simp [State.trapAt]
@[simp] theorem State.trapAt_ageing (s : State) (i : Instr) (x : Trap) : (s.trapAt i x).ageing = s.ageing := by simp [State.trapAt]
@[simp] theorem State.trapAt_parts (s : State) (i : Instr) (x : Trap) : (s.trapAt i x).parts = s.parts := by simp [State.trapAt]
@[simp] theorem State.trapAt_kites (s : State) (i : Instr) (x : Trap) : (s.trapAt i x).kites = s.kites := by simp [State.trapAt]
@[simp] theorem State.trapAt_lines (s : State) (i : Instr) (x : Trap) : (s.trapAt i x).lines = s.lines := by simp [State.trapAt]
@[simp] theorem State.trapAt_spawns (s : State) (i : Instr) (x : Trap) : (s.trapAt i x).spawns = s.spawns := by simp [State.trapAt]
@[simp] theorem State.trapAt_ctxDesc (s : State) (i : Instr) (x : Trap) : (s.trapAt i x).ctxDesc = s.ctxDesc := by simp [State.trapAt]
@[simp] theorem State.trapAt_queues (s : State) (i : Instr) (x : Trap) : (s.trapAt i x).queues = s.queues := by simp [State.trapAt]
@[simp] theorem State.trapAt_qptr (s : State) (i : Instr) (x : Trap) : (s.trapAt i x).qptr = s.qptr := by simp [State.trapAt]
@[simp] theorem State.trapAt_tasks (s : State) (i : Instr) (x : Trap) : (s.trapAt i x).tasks = s.tasks := by simp [State.trapAt]
@[simp] theorem State.trapAt_hostPorts (s : State) (i : Instr) (x : Trap) : (s.trapAt i x).hostPorts = s.hostPorts := by simp [State.trapAt]
@[simp] theorem State.trapAt_peerPorts (s : State) (i : Instr) (x : Trap) : (s.trapAt i x).peerPorts = s.peerPorts := by simp [State.trapAt]
@[simp] theorem State.trapAt_hostWins (s : State) (i : Instr) (x : Trap) : (s.trapAt i x).hostWins = s.hostWins := by simp [State.trapAt]
@[simp] theorem State.trapAt_peerWins (s : State) (i : Instr) (x : Trap) : (s.trapAt i x).peerWins = s.peerWins := by simp [State.trapAt]
@[simp] theorem State.trapAt_peertmo (s : State) (i : Instr) (x : Trap) : (s.trapAt i x).peertmo = s.peertmo := by simp [State.trapAt]
@[simp] theorem State.trapAt_peerOut (s : State) (i : Instr) (x : Trap) : (s.trapAt i x).peerOut = s.peerOut := by simp [State.trapAt]
@[simp] theorem State.trapAt_peerSeen (s : State) (i : Instr) (x : Trap) : (s.trapAt i x).peerSeen = s.peerSeen := by simp [State.trapAt]
@[simp] theorem State.trapAt_peerId (s : State) (i : Instr) (x : Trap) : (s.trapAt i x).peerId = s.peerId := by simp [State.trapAt]
@[simp] theorem State.trapAt_pmt (s : State) (i : Instr) (x : Trap) : (s.trapAt i x).pmt = s.pmt := by simp [State.trapAt]
@[simp] theorem State.trapAt_fw (s : State) (i : Instr) (x : Trap) : (s.trapAt i x).fw = s.fw := by simp [State.trapAt]
@[simp] theorem State.trapAt_power (s : State) (i : Instr) (x : Trap) : (s.trapAt i x).power = s.power := by simp [State.trapAt]
@[simp] theorem State.trapAt_quedon (s : State) (i : Instr) (x : Trap) : (s.trapAt i x).quedon = s.quedon := by simp [State.trapAt]
@[simp] theorem State.trapAt_sent (s : State) (i : Instr) (x : Trap) : (s.trapAt i x).sent = s.sent := by simp [State.trapAt]
@[simp] theorem State.trapAt_pendSent (s : State) (i : Instr) (x : Trap) : (s.trapAt i x).pendSent = s.pendSent := by simp [State.trapAt]

/-! `State.retire` changes only reels. -/

@[simp] theorem State.retire_tick (s : State) (i : Instr) : (s.retire i).tick = s.tick := rfl
@[simp] theorem State.retire_agenda (s : State) (i : Instr) : (s.retire i).agenda = s.agenda := rfl
@[simp] theorem State.retire_nextId (s : State) (i : Instr) : (s.retire i).nextId = s.nextId := rfl
@[simp] theorem State.retire_draws (s : State) (i : Instr) : (s.retire i).draws = s.draws := rfl
@[simp] theorem State.retire_turn (s : State) (i : Instr) : (s.retire i).turn = s.turn := rfl
@[simp] theorem State.retire_cur (s : State) (i : Instr) : (s.retire i).cur = s.cur := rfl
@[simp] theorem State.retire_held (s : State) (i : Instr) : (s.retire i).held = s.held := rfl
@[simp] theorem State.retire_mem (s : State) (i : Instr) : (s.retire i).mem = s.mem := rfl
@[simp] theorem State.retire_mpsn (s : State) (i : Instr) : (s.retire i).mpsn = s.mpsn := rfl
@[simp] theorem State.retire_dirs (s : State) (i : Instr) : (s.retire i).dirs = s.dirs := rfl
@[simp] theorem State.retire_reqs (s : State) (i : Instr) : (s.retire i).reqs = s.reqs := rfl
@[simp] theorem State.retire_replays (s : State) (i : Instr) : (s.retire i).replays = s.replays := rfl
@[simp] theorem State.retire_walks (s : State) (i : Instr) : (s.retire i).walks = s.walks := rfl
@[simp] theorem State.retire_invs (s : State) (i : Instr) : (s.retire i).invs = s.invs := rfl
@[simp] theorem State.retire_saves (s : State) (i : Instr) : (s.retire i).saves = s.saves := rfl
@[simp] theorem State.retire_ageing (s : State) (i : Instr) : (s.retire i).ageing = s.ageing := rfl
@[simp] theorem State.retire_fields (s : State) (i : Instr) : (s.retire i).fields = s.fields := rfl
@[simp] theorem State.retire_parts (s : State) (i : Instr) : (s.retire i).parts = s.parts := rfl
@[simp] theorem State.retire_kites (s : State) (i : Instr) : (s.retire i).kites = s.kites := rfl
@[simp] theorem State.retire_lines (s : State) (i : Instr) : (s.retire i).lines = s.lines := rfl
@[simp] theorem State.retire_spawns (s : State) (i : Instr) : (s.retire i).spawns = s.spawns := rfl
@[simp] theorem State.retire_ctxs (s : State) (i : Instr) : (s.retire i).ctxs = s.ctxs := rfl
@[simp] theorem State.retire_ctxDesc (s : State) (i : Instr) : (s.retire i).ctxDesc = s.ctxDesc := rfl
@[simp] theorem State.retire_queues (s : State) (i : Instr) : (s.retire i).queues = s.queues := rfl
@[simp] theorem State.retire_qptr (s : State) (i : Instr) : (s.retire i).qptr = s.qptr := rfl
@[simp] theorem State.retire_tasks (s : State) (i : Instr) : (s.retire i).tasks = s.tasks := rfl
@[simp] theorem State.retire_hostPorts (s : State) (i : Instr) : (s.retire i).hostPorts = s.hostPorts := rfl
@[simp] theorem State.retire_peerPorts (s : State) (i : Instr) : (s.retire i).peerPorts = s.peerPorts := rfl
@[simp] theorem State.retire_hostWins (s : State) (i : Instr) : (s.retire i).hostWins = s.hostWins := rfl
@[simp] theorem State.retire_peerWins (s : State) (i : Instr) : (s.retire i).peerWins = s.peerWins := rfl
@[simp] theorem State.retire_peertmo (s : State) (i : Instr) : (s.retire i).peertmo = s.peertmo := rfl
@[simp] theorem State.retire_peerOut (s : State) (i : Instr) : (s.retire i).peerOut = s.peerOut := rfl
@[simp] theorem State.retire_peerSeen (s : State) (i : Instr) : (s.retire i).peerSeen = s.peerSeen := rfl
@[simp] theorem State.retire_peerId (s : State) (i : Instr) : (s.retire i).peerId = s.peerId := rfl
@[simp] theorem State.retire_pmt (s : State) (i : Instr) : (s.retire i).pmt = s.pmt := rfl
@[simp] theorem State.retire_fw (s : State) (i : Instr) : (s.retire i).fw = s.fw := rfl
@[simp] theorem State.retire_power (s : State) (i : Instr) : (s.retire i).power = s.power := rfl
@[simp] theorem State.retire_quedon (s : State) (i : Instr) : (s.retire i).quedon = s.quedon := rfl
@[simp] theorem State.retire_sent (s : State) (i : Instr) : (s.retire i).sent = s.sent := rfl
@[simp] theorem State.retire_pendSent (s : State) (i : Instr) : (s.retire i).pendSent = s.pendSent := rfl

/-! `State.skip` changes only reels. -/

@[simp] theorem State.skip_tick (s : State) : (s.skip).tick = s.tick := rfl
@[simp] theorem State.skip_agenda (s : State) : (s.skip).agenda = s.agenda := rfl
@[simp] theorem State.skip_nextId (s : State) : (s.skip).nextId = s.nextId := rfl
@[simp] theorem State.skip_draws (s : State) : (s.skip).draws = s.draws := rfl
@[simp] theorem State.skip_turn (s : State) : (s.skip).turn = s.turn := rfl
@[simp] theorem State.skip_cur (s : State) : (s.skip).cur = s.cur := rfl
@[simp] theorem State.skip_held (s : State) : (s.skip).held = s.held := rfl
@[simp] theorem State.skip_mem (s : State) : (s.skip).mem = s.mem := rfl
@[simp] theorem State.skip_mpsn (s : State) : (s.skip).mpsn = s.mpsn := rfl
@[simp] theorem State.skip_dirs (s : State) : (s.skip).dirs = s.dirs := rfl
@[simp] theorem State.skip_reqs (s : State) : (s.skip).reqs = s.reqs := rfl
@[simp] theorem State.skip_replays (s : State) : (s.skip).replays = s.replays := rfl
@[simp] theorem State.skip_walks (s : State) : (s.skip).walks = s.walks := rfl
@[simp] theorem State.skip_invs (s : State) : (s.skip).invs = s.invs := rfl
@[simp] theorem State.skip_saves (s : State) : (s.skip).saves = s.saves := rfl
@[simp] theorem State.skip_ageing (s : State) : (s.skip).ageing = s.ageing := rfl
@[simp] theorem State.skip_fields (s : State) : (s.skip).fields = s.fields := rfl
@[simp] theorem State.skip_parts (s : State) : (s.skip).parts = s.parts := rfl
@[simp] theorem State.skip_kites (s : State) : (s.skip).kites = s.kites := rfl
@[simp] theorem State.skip_lines (s : State) : (s.skip).lines = s.lines := rfl
@[simp] theorem State.skip_spawns (s : State) : (s.skip).spawns = s.spawns := rfl
@[simp] theorem State.skip_ctxs (s : State) : (s.skip).ctxs = s.ctxs := rfl
@[simp] theorem State.skip_ctxDesc (s : State) : (s.skip).ctxDesc = s.ctxDesc := rfl
@[simp] theorem State.skip_queues (s : State) : (s.skip).queues = s.queues := rfl
@[simp] theorem State.skip_qptr (s : State) : (s.skip).qptr = s.qptr := rfl
@[simp] theorem State.skip_tasks (s : State) : (s.skip).tasks = s.tasks := rfl
@[simp] theorem State.skip_hostPorts (s : State) : (s.skip).hostPorts = s.hostPorts := rfl
@[simp] theorem State.skip_peerPorts (s : State) : (s.skip).peerPorts = s.peerPorts := rfl
@[simp] theorem State.skip_hostWins (s : State) : (s.skip).hostWins = s.hostWins := rfl
@[simp] theorem State.skip_peerWins (s : State) : (s.skip).peerWins = s.peerWins := rfl
@[simp] theorem State.skip_peertmo (s : State) : (s.skip).peertmo = s.peertmo := rfl
@[simp] theorem State.skip_peerOut (s : State) : (s.skip).peerOut = s.peerOut := rfl
@[simp] theorem State.skip_peerSeen (s : State) : (s.skip).peerSeen = s.peerSeen := rfl
@[simp] theorem State.skip_peerId (s : State) : (s.skip).peerId = s.peerId := rfl
@[simp] theorem State.skip_pmt (s : State) : (s.skip).pmt = s.pmt := rfl
@[simp] theorem State.skip_fw (s : State) : (s.skip).fw = s.fw := rfl
@[simp] theorem State.skip_power (s : State) : (s.skip).power = s.power := rfl
@[simp] theorem State.skip_quedon (s : State) : (s.skip).quedon = s.quedon := rfl
@[simp] theorem State.skip_sent (s : State) : (s.skip).sent = s.sent := rfl
@[simp] theorem State.skip_pendSent (s : State) : (s.skip).pendSent = s.pendSent := rfl

/-! `State.setRs` changes only reels. -/

@[simp] theorem State.setRs_tick (s : State) (n : BitVec 6) (x : SReg) : (s.setRs n x).tick = s.tick := rfl
@[simp] theorem State.setRs_agenda (s : State) (n : BitVec 6) (x : SReg) : (s.setRs n x).agenda = s.agenda := rfl
@[simp] theorem State.setRs_nextId (s : State) (n : BitVec 6) (x : SReg) : (s.setRs n x).nextId = s.nextId := rfl
@[simp] theorem State.setRs_draws (s : State) (n : BitVec 6) (x : SReg) : (s.setRs n x).draws = s.draws := rfl
@[simp] theorem State.setRs_turn (s : State) (n : BitVec 6) (x : SReg) : (s.setRs n x).turn = s.turn := rfl
@[simp] theorem State.setRs_cur (s : State) (n : BitVec 6) (x : SReg) : (s.setRs n x).cur = s.cur := rfl
@[simp] theorem State.setRs_held (s : State) (n : BitVec 6) (x : SReg) : (s.setRs n x).held = s.held := rfl
@[simp] theorem State.setRs_mem (s : State) (n : BitVec 6) (x : SReg) : (s.setRs n x).mem = s.mem := rfl
@[simp] theorem State.setRs_mpsn (s : State) (n : BitVec 6) (x : SReg) : (s.setRs n x).mpsn = s.mpsn := rfl
@[simp] theorem State.setRs_dirs (s : State) (n : BitVec 6) (x : SReg) : (s.setRs n x).dirs = s.dirs := rfl
@[simp] theorem State.setRs_reqs (s : State) (n : BitVec 6) (x : SReg) : (s.setRs n x).reqs = s.reqs := rfl
@[simp] theorem State.setRs_replays (s : State) (n : BitVec 6) (x : SReg) : (s.setRs n x).replays = s.replays := rfl
@[simp] theorem State.setRs_walks (s : State) (n : BitVec 6) (x : SReg) : (s.setRs n x).walks = s.walks := rfl
@[simp] theorem State.setRs_invs (s : State) (n : BitVec 6) (x : SReg) : (s.setRs n x).invs = s.invs := rfl
@[simp] theorem State.setRs_saves (s : State) (n : BitVec 6) (x : SReg) : (s.setRs n x).saves = s.saves := rfl
@[simp] theorem State.setRs_ageing (s : State) (n : BitVec 6) (x : SReg) : (s.setRs n x).ageing = s.ageing := rfl
@[simp] theorem State.setRs_fields (s : State) (n : BitVec 6) (x : SReg) : (s.setRs n x).fields = s.fields := rfl
@[simp] theorem State.setRs_parts (s : State) (n : BitVec 6) (x : SReg) : (s.setRs n x).parts = s.parts := rfl
@[simp] theorem State.setRs_kites (s : State) (n : BitVec 6) (x : SReg) : (s.setRs n x).kites = s.kites := rfl
@[simp] theorem State.setRs_lines (s : State) (n : BitVec 6) (x : SReg) : (s.setRs n x).lines = s.lines := rfl
@[simp] theorem State.setRs_spawns (s : State) (n : BitVec 6) (x : SReg) : (s.setRs n x).spawns = s.spawns := rfl
@[simp] theorem State.setRs_ctxs (s : State) (n : BitVec 6) (x : SReg) : (s.setRs n x).ctxs = s.ctxs := rfl
@[simp] theorem State.setRs_ctxDesc (s : State) (n : BitVec 6) (x : SReg) : (s.setRs n x).ctxDesc = s.ctxDesc := rfl
@[simp] theorem State.setRs_queues (s : State) (n : BitVec 6) (x : SReg) : (s.setRs n x).queues = s.queues := rfl
@[simp] theorem State.setRs_qptr (s : State) (n : BitVec 6) (x : SReg) : (s.setRs n x).qptr = s.qptr := rfl
@[simp] theorem State.setRs_tasks (s : State) (n : BitVec 6) (x : SReg) : (s.setRs n x).tasks = s.tasks := rfl
@[simp] theorem State.setRs_hostPorts (s : State) (n : BitVec 6) (x : SReg) : (s.setRs n x).hostPorts = s.hostPorts := rfl
@[simp] theorem State.setRs_peerPorts (s : State) (n : BitVec 6) (x : SReg) : (s.setRs n x).peerPorts = s.peerPorts := rfl
@[simp] theorem State.setRs_hostWins (s : State) (n : BitVec 6) (x : SReg) : (s.setRs n x).hostWins = s.hostWins := rfl
@[simp] theorem State.setRs_peerWins (s : State) (n : BitVec 6) (x : SReg) : (s.setRs n x).peerWins = s.peerWins := rfl
@[simp] theorem State.setRs_peertmo (s : State) (n : BitVec 6) (x : SReg) : (s.setRs n x).peertmo = s.peertmo := rfl
@[simp] theorem State.setRs_peerOut (s : State) (n : BitVec 6) (x : SReg) : (s.setRs n x).peerOut = s.peerOut := rfl
@[simp] theorem State.setRs_peerSeen (s : State) (n : BitVec 6) (x : SReg) : (s.setRs n x).peerSeen = s.peerSeen := rfl
@[simp] theorem State.setRs_peerId (s : State) (n : BitVec 6) (x : SReg) : (s.setRs n x).peerId = s.peerId := rfl
@[simp] theorem State.setRs_pmt (s : State) (n : BitVec 6) (x : SReg) : (s.setRs n x).pmt = s.pmt := rfl
@[simp] theorem State.setRs_fw (s : State) (n : BitVec 6) (x : SReg) : (s.setRs n x).fw = s.fw := rfl
@[simp] theorem State.setRs_power (s : State) (n : BitVec 6) (x : SReg) : (s.setRs n x).power = s.power := rfl
@[simp] theorem State.setRs_quedon (s : State) (n : BitVec 6) (x : SReg) : (s.setRs n x).quedon = s.quedon := rfl
@[simp] theorem State.setRs_sent (s : State) (n : BitVec 6) (x : SReg) : (s.setRs n x).sent = s.sent := rfl
@[simp] theorem State.setRs_pendSent (s : State) (n : BitVec 6) (x : SReg) : (s.setRs n x).pendSent = s.pendSent := rfl

/-! `State.setPc` changes only reels. -/

@[simp] theorem State.setPc_tick (s : State) (x : Word) : (s.setPc x).tick = s.tick := rfl
@[simp] theorem State.setPc_agenda (s : State) (x : Word) : (s.setPc x).agenda = s.agenda := rfl
@[simp] theorem State.setPc_nextId (s : State) (x : Word) : (s.setPc x).nextId = s.nextId := rfl
@[simp] theorem State.setPc_draws (s : State) (x : Word) : (s.setPc x).draws = s.draws := rfl
@[simp] theorem State.setPc_turn (s : State) (x : Word) : (s.setPc x).turn = s.turn := rfl
@[simp] theorem State.setPc_cur (s : State) (x : Word) : (s.setPc x).cur = s.cur := rfl
@[simp] theorem State.setPc_held (s : State) (x : Word) : (s.setPc x).held = s.held := rfl
@[simp] theorem State.setPc_mem (s : State) (x : Word) : (s.setPc x).mem = s.mem := rfl
@[simp] theorem State.setPc_mpsn (s : State) (x : Word) : (s.setPc x).mpsn = s.mpsn := rfl
@[simp] theorem State.setPc_dirs (s : State) (x : Word) : (s.setPc x).dirs = s.dirs := rfl
@[simp] theorem State.setPc_reqs (s : State) (x : Word) : (s.setPc x).reqs = s.reqs := rfl
@[simp] theorem State.setPc_replays (s : State) (x : Word) : (s.setPc x).replays = s.replays := rfl
@[simp] theorem State.setPc_walks (s : State) (x : Word) : (s.setPc x).walks = s.walks := rfl
@[simp] theorem State.setPc_invs (s : State) (x : Word) : (s.setPc x).invs = s.invs := rfl
@[simp] theorem State.setPc_saves (s : State) (x : Word) : (s.setPc x).saves = s.saves := rfl
@[simp] theorem State.setPc_ageing (s : State) (x : Word) : (s.setPc x).ageing = s.ageing := rfl
@[simp] theorem State.setPc_fields (s : State) (x : Word) : (s.setPc x).fields = s.fields := rfl
@[simp] theorem State.setPc_parts (s : State) (x : Word) : (s.setPc x).parts = s.parts := rfl
@[simp] theorem State.setPc_kites (s : State) (x : Word) : (s.setPc x).kites = s.kites := rfl
@[simp] theorem State.setPc_lines (s : State) (x : Word) : (s.setPc x).lines = s.lines := rfl
@[simp] theorem State.setPc_spawns (s : State) (x : Word) : (s.setPc x).spawns = s.spawns := rfl
@[simp] theorem State.setPc_ctxs (s : State) (x : Word) : (s.setPc x).ctxs = s.ctxs := rfl
@[simp] theorem State.setPc_ctxDesc (s : State) (x : Word) : (s.setPc x).ctxDesc = s.ctxDesc := rfl
@[simp] theorem State.setPc_queues (s : State) (x : Word) : (s.setPc x).queues = s.queues := rfl
@[simp] theorem State.setPc_qptr (s : State) (x : Word) : (s.setPc x).qptr = s.qptr := rfl
@[simp] theorem State.setPc_tasks (s : State) (x : Word) : (s.setPc x).tasks = s.tasks := rfl
@[simp] theorem State.setPc_hostPorts (s : State) (x : Word) : (s.setPc x).hostPorts = s.hostPorts := rfl
@[simp] theorem State.setPc_peerPorts (s : State) (x : Word) : (s.setPc x).peerPorts = s.peerPorts := rfl
@[simp] theorem State.setPc_hostWins (s : State) (x : Word) : (s.setPc x).hostWins = s.hostWins := rfl
@[simp] theorem State.setPc_peerWins (s : State) (x : Word) : (s.setPc x).peerWins = s.peerWins := rfl
@[simp] theorem State.setPc_peertmo (s : State) (x : Word) : (s.setPc x).peertmo = s.peertmo := rfl
@[simp] theorem State.setPc_peerOut (s : State) (x : Word) : (s.setPc x).peerOut = s.peerOut := rfl
@[simp] theorem State.setPc_peerSeen (s : State) (x : Word) : (s.setPc x).peerSeen = s.peerSeen := rfl
@[simp] theorem State.setPc_peerId (s : State) (x : Word) : (s.setPc x).peerId = s.peerId := rfl
@[simp] theorem State.setPc_pmt (s : State) (x : Word) : (s.setPc x).pmt = s.pmt := rfl
@[simp] theorem State.setPc_fw (s : State) (x : Word) : (s.setPc x).fw = s.fw := rfl
@[simp] theorem State.setPc_power (s : State) (x : Word) : (s.setPc x).power = s.power := rfl
@[simp] theorem State.setPc_quedon (s : State) (x : Word) : (s.setPc x).quedon = s.quedon := rfl
@[simp] theorem State.setPc_sent (s : State) (x : Word) : (s.setPc x).sent = s.sent := rfl
@[simp] theorem State.setPc_pendSent (s : State) (x : Word) : (s.setPc x).pendSent = s.pendSent := rfl

/-! `State.setTok` changes only reels. -/

@[simp] theorem State.setTok_tick (s : State) (n : BitVec 6) (id : Nat) : (s.setTok n id).tick = s.tick := rfl
@[simp] theorem State.setTok_agenda (s : State) (n : BitVec 6) (id : Nat) : (s.setTok n id).agenda = s.agenda := rfl
@[simp] theorem State.setTok_nextId (s : State) (n : BitVec 6) (id : Nat) : (s.setTok n id).nextId = s.nextId := rfl
@[simp] theorem State.setTok_draws (s : State) (n : BitVec 6) (id : Nat) : (s.setTok n id).draws = s.draws := rfl
@[simp] theorem State.setTok_turn (s : State) (n : BitVec 6) (id : Nat) : (s.setTok n id).turn = s.turn := rfl
@[simp] theorem State.setTok_cur (s : State) (n : BitVec 6) (id : Nat) : (s.setTok n id).cur = s.cur := rfl
@[simp] theorem State.setTok_held (s : State) (n : BitVec 6) (id : Nat) : (s.setTok n id).held = s.held := rfl
@[simp] theorem State.setTok_mem (s : State) (n : BitVec 6) (id : Nat) : (s.setTok n id).mem = s.mem := rfl
@[simp] theorem State.setTok_mpsn (s : State) (n : BitVec 6) (id : Nat) : (s.setTok n id).mpsn = s.mpsn := rfl
@[simp] theorem State.setTok_dirs (s : State) (n : BitVec 6) (id : Nat) : (s.setTok n id).dirs = s.dirs := rfl
@[simp] theorem State.setTok_reqs (s : State) (n : BitVec 6) (id : Nat) : (s.setTok n id).reqs = s.reqs := rfl
@[simp] theorem State.setTok_replays (s : State) (n : BitVec 6) (id : Nat) : (s.setTok n id).replays = s.replays := rfl
@[simp] theorem State.setTok_walks (s : State) (n : BitVec 6) (id : Nat) : (s.setTok n id).walks = s.walks := rfl
@[simp] theorem State.setTok_invs (s : State) (n : BitVec 6) (id : Nat) : (s.setTok n id).invs = s.invs := rfl
@[simp] theorem State.setTok_saves (s : State) (n : BitVec 6) (id : Nat) : (s.setTok n id).saves = s.saves := rfl
@[simp] theorem State.setTok_ageing (s : State) (n : BitVec 6) (id : Nat) : (s.setTok n id).ageing = s.ageing := rfl
@[simp] theorem State.setTok_fields (s : State) (n : BitVec 6) (id : Nat) : (s.setTok n id).fields = s.fields := rfl
@[simp] theorem State.setTok_parts (s : State) (n : BitVec 6) (id : Nat) : (s.setTok n id).parts = s.parts := rfl
@[simp] theorem State.setTok_kites (s : State) (n : BitVec 6) (id : Nat) : (s.setTok n id).kites = s.kites := rfl
@[simp] theorem State.setTok_lines (s : State) (n : BitVec 6) (id : Nat) : (s.setTok n id).lines = s.lines := rfl
@[simp] theorem State.setTok_spawns (s : State) (n : BitVec 6) (id : Nat) : (s.setTok n id).spawns = s.spawns := rfl
@[simp] theorem State.setTok_ctxs (s : State) (n : BitVec 6) (id : Nat) : (s.setTok n id).ctxs = s.ctxs := rfl
@[simp] theorem State.setTok_ctxDesc (s : State) (n : BitVec 6) (id : Nat) : (s.setTok n id).ctxDesc = s.ctxDesc := rfl
@[simp] theorem State.setTok_queues (s : State) (n : BitVec 6) (id : Nat) : (s.setTok n id).queues = s.queues := rfl
@[simp] theorem State.setTok_qptr (s : State) (n : BitVec 6) (id : Nat) : (s.setTok n id).qptr = s.qptr := rfl
@[simp] theorem State.setTok_tasks (s : State) (n : BitVec 6) (id : Nat) : (s.setTok n id).tasks = s.tasks := rfl
@[simp] theorem State.setTok_hostPorts (s : State) (n : BitVec 6) (id : Nat) : (s.setTok n id).hostPorts = s.hostPorts := rfl
@[simp] theorem State.setTok_peerPorts (s : State) (n : BitVec 6) (id : Nat) : (s.setTok n id).peerPorts = s.peerPorts := rfl
@[simp] theorem State.setTok_hostWins (s : State) (n : BitVec 6) (id : Nat) : (s.setTok n id).hostWins = s.hostWins := rfl
@[simp] theorem State.setTok_peerWins (s : State) (n : BitVec 6) (id : Nat) : (s.setTok n id).peerWins = s.peerWins := rfl
@[simp] theorem State.setTok_peertmo (s : State) (n : BitVec 6) (id : Nat) : (s.setTok n id).peertmo = s.peertmo := rfl
@[simp] theorem State.setTok_peerOut (s : State) (n : BitVec 6) (id : Nat) : (s.setTok n id).peerOut = s.peerOut := rfl
@[simp] theorem State.setTok_peerSeen (s : State) (n : BitVec 6) (id : Nat) : (s.setTok n id).peerSeen = s.peerSeen := rfl
@[simp] theorem State.setTok_peerId (s : State) (n : BitVec 6) (id : Nat) : (s.setTok n id).peerId = s.peerId := rfl
@[simp] theorem State.setTok_pmt (s : State) (n : BitVec 6) (id : Nat) : (s.setTok n id).pmt = s.pmt := rfl
@[simp] theorem State.setTok_fw (s : State) (n : BitVec 6) (id : Nat) : (s.setTok n id).fw = s.fw := rfl
@[simp] theorem State.setTok_power (s : State) (n : BitVec 6) (id : Nat) : (s.setTok n id).power = s.power := rfl
@[simp] theorem State.setTok_quedon (s : State) (n : BitVec 6) (id : Nat) : (s.setTok n id).quedon = s.quedon := rfl
@[simp] theorem State.setTok_sent (s : State) (n : BitVec 6) (id : Nat) : (s.setTok n id).sent = s.sent := rfl
@[simp] theorem State.setTok_pendSent (s : State) (n : BitVec 6) (id : Nat) : (s.setTok n id).pendSent = s.pendSent := rfl

/-! `State.fresh` changes only nextId. -/

@[simp] theorem State.fresh_tick (s : State) : (s.fresh).2.tick = s.tick := rfl
@[simp] theorem State.fresh_agenda (s : State) : (s.fresh).2.agenda = s.agenda := rfl
@[simp] theorem State.fresh_draws (s : State) : (s.fresh).2.draws = s.draws := rfl
@[simp] theorem State.fresh_turn (s : State) : (s.fresh).2.turn = s.turn := rfl
@[simp] theorem State.fresh_cur (s : State) : (s.fresh).2.cur = s.cur := rfl
@[simp] theorem State.fresh_held (s : State) : (s.fresh).2.held = s.held := rfl
@[simp] theorem State.fresh_mem (s : State) : (s.fresh).2.mem = s.mem := rfl
@[simp] theorem State.fresh_mpsn (s : State) : (s.fresh).2.mpsn = s.mpsn := rfl
@[simp] theorem State.fresh_dirs (s : State) : (s.fresh).2.dirs = s.dirs := rfl
@[simp] theorem State.fresh_reqs (s : State) : (s.fresh).2.reqs = s.reqs := rfl
@[simp] theorem State.fresh_replays (s : State) : (s.fresh).2.replays = s.replays := rfl
@[simp] theorem State.fresh_walks (s : State) : (s.fresh).2.walks = s.walks := rfl
@[simp] theorem State.fresh_invs (s : State) : (s.fresh).2.invs = s.invs := rfl
@[simp] theorem State.fresh_saves (s : State) : (s.fresh).2.saves = s.saves := rfl
@[simp] theorem State.fresh_ageing (s : State) : (s.fresh).2.ageing = s.ageing := rfl
@[simp] theorem State.fresh_reels (s : State) : (s.fresh).2.reels = s.reels := rfl
@[simp] theorem State.fresh_fields (s : State) : (s.fresh).2.fields = s.fields := rfl
@[simp] theorem State.fresh_parts (s : State) : (s.fresh).2.parts = s.parts := rfl
@[simp] theorem State.fresh_kites (s : State) : (s.fresh).2.kites = s.kites := rfl
@[simp] theorem State.fresh_lines (s : State) : (s.fresh).2.lines = s.lines := rfl
@[simp] theorem State.fresh_spawns (s : State) : (s.fresh).2.spawns = s.spawns := rfl
@[simp] theorem State.fresh_ctxs (s : State) : (s.fresh).2.ctxs = s.ctxs := rfl
@[simp] theorem State.fresh_ctxDesc (s : State) : (s.fresh).2.ctxDesc = s.ctxDesc := rfl
@[simp] theorem State.fresh_queues (s : State) : (s.fresh).2.queues = s.queues := rfl
@[simp] theorem State.fresh_qptr (s : State) : (s.fresh).2.qptr = s.qptr := rfl
@[simp] theorem State.fresh_tasks (s : State) : (s.fresh).2.tasks = s.tasks := rfl
@[simp] theorem State.fresh_hostPorts (s : State) : (s.fresh).2.hostPorts = s.hostPorts := rfl
@[simp] theorem State.fresh_peerPorts (s : State) : (s.fresh).2.peerPorts = s.peerPorts := rfl
@[simp] theorem State.fresh_hostWins (s : State) : (s.fresh).2.hostWins = s.hostWins := rfl
@[simp] theorem State.fresh_peerWins (s : State) : (s.fresh).2.peerWins = s.peerWins := rfl
@[simp] theorem State.fresh_peertmo (s : State) : (s.fresh).2.peertmo = s.peertmo := rfl
@[simp] theorem State.fresh_peerOut (s : State) : (s.fresh).2.peerOut = s.peerOut := rfl
@[simp] theorem State.fresh_peerSeen (s : State) : (s.fresh).2.peerSeen = s.peerSeen := rfl
@[simp] theorem State.fresh_peerId (s : State) : (s.fresh).2.peerId = s.peerId := rfl
@[simp] theorem State.fresh_pmt (s : State) : (s.fresh).2.pmt = s.pmt := rfl
@[simp] theorem State.fresh_fw (s : State) : (s.fresh).2.fw = s.fw := rfl
@[simp] theorem State.fresh_power (s : State) : (s.fresh).2.power = s.power := rfl
@[simp] theorem State.fresh_quedon (s : State) : (s.fresh).2.quedon = s.quedon := rfl
@[simp] theorem State.fresh_sent (s : State) : (s.fresh).2.sent = s.sent := rfl
@[simp] theorem State.fresh_pendSent (s : State) : (s.fresh).2.pendSent = s.pendSent := rfl

/-! `State.drawWord` changes only draws. -/

@[simp] theorem State.drawWord_tick (s : State) : (s.drawWord).2.tick = s.tick := rfl
@[simp] theorem State.drawWord_agenda (s : State) : (s.drawWord).2.agenda = s.agenda := rfl
@[simp] theorem State.drawWord_nextId (s : State) : (s.drawWord).2.nextId = s.nextId := rfl
@[simp] theorem State.drawWord_turn (s : State) : (s.drawWord).2.turn = s.turn := rfl
@[simp] theorem State.drawWord_cur (s : State) : (s.drawWord).2.cur = s.cur := rfl
@[simp] theorem State.drawWord_held (s : State) : (s.drawWord).2.held = s.held := rfl
@[simp] theorem State.drawWord_mem (s : State) : (s.drawWord).2.mem = s.mem := rfl
@[simp] theorem State.drawWord_mpsn (s : State) : (s.drawWord).2.mpsn = s.mpsn := rfl
@[simp] theorem State.drawWord_dirs (s : State) : (s.drawWord).2.dirs = s.dirs := rfl
@[simp] theorem State.drawWord_reqs (s : State) : (s.drawWord).2.reqs = s.reqs := rfl
@[simp] theorem State.drawWord_replays (s : State) : (s.drawWord).2.replays = s.replays := rfl
@[simp] theorem State.drawWord_walks (s : State) : (s.drawWord).2.walks = s.walks := rfl
@[simp] theorem State.drawWord_invs (s : State) : (s.drawWord).2.invs = s.invs := rfl
@[simp] theorem State.drawWord_saves (s : State) : (s.drawWord).2.saves = s.saves := rfl
@[simp] theorem State.drawWord_ageing (s : State) : (s.drawWord).2.ageing = s.ageing := rfl
@[simp] theorem State.drawWord_reels (s : State) : (s.drawWord).2.reels = s.reels := rfl
@[simp] theorem State.drawWord_fields (s : State) : (s.drawWord).2.fields = s.fields := rfl
@[simp] theorem State.drawWord_parts (s : State) : (s.drawWord).2.parts = s.parts := rfl
@[simp] theorem State.drawWord_kites (s : State) : (s.drawWord).2.kites = s.kites := rfl
@[simp] theorem State.drawWord_lines (s : State) : (s.drawWord).2.lines = s.lines := rfl
@[simp] theorem State.drawWord_spawns (s : State) : (s.drawWord).2.spawns = s.spawns := rfl
@[simp] theorem State.drawWord_ctxs (s : State) : (s.drawWord).2.ctxs = s.ctxs := rfl
@[simp] theorem State.drawWord_ctxDesc (s : State) : (s.drawWord).2.ctxDesc = s.ctxDesc := rfl
@[simp] theorem State.drawWord_queues (s : State) : (s.drawWord).2.queues = s.queues := rfl
@[simp] theorem State.drawWord_qptr (s : State) : (s.drawWord).2.qptr = s.qptr := rfl
@[simp] theorem State.drawWord_tasks (s : State) : (s.drawWord).2.tasks = s.tasks := rfl
@[simp] theorem State.drawWord_hostPorts (s : State) : (s.drawWord).2.hostPorts = s.hostPorts := rfl
@[simp] theorem State.drawWord_peerPorts (s : State) : (s.drawWord).2.peerPorts = s.peerPorts := rfl
@[simp] theorem State.drawWord_hostWins (s : State) : (s.drawWord).2.hostWins = s.hostWins := rfl
@[simp] theorem State.drawWord_peerWins (s : State) : (s.drawWord).2.peerWins = s.peerWins := rfl
@[simp] theorem State.drawWord_peertmo (s : State) : (s.drawWord).2.peertmo = s.peertmo := rfl
@[simp] theorem State.drawWord_peerOut (s : State) : (s.drawWord).2.peerOut = s.peerOut := rfl
@[simp] theorem State.drawWord_peerSeen (s : State) : (s.drawWord).2.peerSeen = s.peerSeen := rfl
@[simp] theorem State.drawWord_peerId (s : State) : (s.drawWord).2.peerId = s.peerId := rfl
@[simp] theorem State.drawWord_pmt (s : State) : (s.drawWord).2.pmt = s.pmt := rfl
@[simp] theorem State.drawWord_fw (s : State) : (s.drawWord).2.fw = s.fw := rfl
@[simp] theorem State.drawWord_power (s : State) : (s.drawWord).2.power = s.power := rfl
@[simp] theorem State.drawWord_quedon (s : State) : (s.drawWord).2.quedon = s.quedon := rfl
@[simp] theorem State.drawWord_sent (s : State) : (s.drawWord).2.sent = s.sent := rfl
@[simp] theorem State.drawWord_pendSent (s : State) : (s.drawWord).2.pendSent = s.pendSent := rfl

/-! `State.drawVector` changes only draws. -/

@[simp] theorem State.drawVector_tick (s : State) : (s.drawVector).2.tick = s.tick := rfl
@[simp] theorem State.drawVector_agenda (s : State) : (s.drawVector).2.agenda = s.agenda := rfl
@[simp] theorem State.drawVector_nextId (s : State) : (s.drawVector).2.nextId = s.nextId := rfl
@[simp] theorem State.drawVector_turn (s : State) : (s.drawVector).2.turn = s.turn := rfl
@[simp] theorem State.drawVector_cur (s : State) : (s.drawVector).2.cur = s.cur := rfl
@[simp] theorem State.drawVector_held (s : State) : (s.drawVector).2.held = s.held := rfl
@[simp] theorem State.drawVector_mem (s : State) : (s.drawVector).2.mem = s.mem := rfl
@[simp] theorem State.drawVector_mpsn (s : State) : (s.drawVector).2.mpsn = s.mpsn := rfl
@[simp] theorem State.drawVector_dirs (s : State) : (s.drawVector).2.dirs = s.dirs := rfl
@[simp] theorem State.drawVector_reqs (s : State) : (s.drawVector).2.reqs = s.reqs := rfl
@[simp] theorem State.drawVector_replays (s : State) : (s.drawVector).2.replays = s.replays := rfl
@[simp] theorem State.drawVector_walks (s : State) : (s.drawVector).2.walks = s.walks := rfl
@[simp] theorem State.drawVector_invs (s : State) : (s.drawVector).2.invs = s.invs := rfl
@[simp] theorem State.drawVector_saves (s : State) : (s.drawVector).2.saves = s.saves := rfl
@[simp] theorem State.drawVector_ageing (s : State) : (s.drawVector).2.ageing = s.ageing := rfl
@[simp] theorem State.drawVector_reels (s : State) : (s.drawVector).2.reels = s.reels := rfl
@[simp] theorem State.drawVector_fields (s : State) : (s.drawVector).2.fields = s.fields := rfl
@[simp] theorem State.drawVector_parts (s : State) : (s.drawVector).2.parts = s.parts := rfl
@[simp] theorem State.drawVector_kites (s : State) : (s.drawVector).2.kites = s.kites := rfl
@[simp] theorem State.drawVector_lines (s : State) : (s.drawVector).2.lines = s.lines := rfl
@[simp] theorem State.drawVector_spawns (s : State) : (s.drawVector).2.spawns = s.spawns := rfl
@[simp] theorem State.drawVector_ctxs (s : State) : (s.drawVector).2.ctxs = s.ctxs := rfl
@[simp] theorem State.drawVector_ctxDesc (s : State) : (s.drawVector).2.ctxDesc = s.ctxDesc := rfl
@[simp] theorem State.drawVector_queues (s : State) : (s.drawVector).2.queues = s.queues := rfl
@[simp] theorem State.drawVector_qptr (s : State) : (s.drawVector).2.qptr = s.qptr := rfl
@[simp] theorem State.drawVector_tasks (s : State) : (s.drawVector).2.tasks = s.tasks := rfl
@[simp] theorem State.drawVector_hostPorts (s : State) : (s.drawVector).2.hostPorts = s.hostPorts := rfl
@[simp] theorem State.drawVector_peerPorts (s : State) : (s.drawVector).2.peerPorts = s.peerPorts := rfl
@[simp] theorem State.drawVector_hostWins (s : State) : (s.drawVector).2.hostWins = s.hostWins := rfl
@[simp] theorem State.drawVector_peerWins (s : State) : (s.drawVector).2.peerWins = s.peerWins := rfl
@[simp] theorem State.drawVector_peertmo (s : State) : (s.drawVector).2.peertmo = s.peertmo := rfl
@[simp] theorem State.drawVector_peerOut (s : State) : (s.drawVector).2.peerOut = s.peerOut := rfl
@[simp] theorem State.drawVector_peerSeen (s : State) : (s.drawVector).2.peerSeen = s.peerSeen := rfl
@[simp] theorem State.drawVector_peerId (s : State) : (s.drawVector).2.peerId = s.peerId := rfl
@[simp] theorem State.drawVector_pmt (s : State) : (s.drawVector).2.pmt = s.pmt := rfl
@[simp] theorem State.drawVector_fw (s : State) : (s.drawVector).2.fw = s.fw := rfl
@[simp] theorem State.drawVector_power (s : State) : (s.drawVector).2.power = s.power := rfl
@[simp] theorem State.drawVector_quedon (s : State) : (s.drawVector).2.quedon = s.quedon := rfl
@[simp] theorem State.drawVector_sent (s : State) : (s.drawVector).2.sent = s.sent := rfl
@[simp] theorem State.drawVector_pendSent (s : State) : (s.drawVector).2.pendSent = s.pendSent := rfl

end Sys2Proof.Machine
end

