-- ==== Sys2Proof/Laws/Ops.lean ====
section
/-! SUPPORT. Reading back what the named operations write: reels, slots, contexts, fields, and the registers of a strand. -/

namespace Sys2Proof.Machine

/-! ## Places -/

@[simp] theorem State.reel_setReel_same (s : State) (n : Nat) (x : Reel) : (s.setReel n x).reel n = x := by
  simp [State.reel, State.setReel]

theorem State.reel_setReel_other (s : State) (n m : Nat) (x : Reel) (h : m ≠ n) : (s.setReel n x).reel m = s.reel m := by
  simp [State.reel, State.setReel, SMap.get_put_other, h]

@[simp] theorem State.reel_modReel_same (s : State) (n : Nat) (f : Reel → Reel) : (s.modReel n f).reel n = f (s.reel n) := by
  simp [State.modReel]

theorem State.reel_modReel_other (s : State) (n m : Nat) (f : Reel → Reel) (h : m ≠ n) :
    (s.modReel n f).reel m = s.reel m := State.reel_setReel_other s n m _ h

@[simp] theorem Reel.slot_setSlot_same (x : Reel) (k : Nat) (t : Slot) : (x.setSlot k t).slot k = t := by
  simp [Reel.slot, Reel.setSlot]

theorem Reel.slot_setSlot_other (x : Reel) (k j : Nat) (t : Slot) (h : j ≠ k) : (x.setSlot k t).slot j = x.slot j := by
  simp [Reel.slot, Reel.setSlot, SMap.get_put_other, h]

@[simp] theorem State.slot_setSlot_same (s : State) (r : StrandRef) (t : Slot) : (s.setSlot r t).slot r = t := by
  simp [State.slot, State.setSlot]

theorem State.slot_setSlot_other (s : State) (r q : StrandRef) (t : Slot) (h : q ≠ r) :
    (s.setSlot r t).slot q = s.slot q := by
  by_cases hr : q.reel = r.reel
  · have hk : q.slot ≠ r.slot := by intro hk; exact h (by cases q; cases r; simp_all)
    simp [State.slot, State.setSlot, hr, Reel.slot_setSlot_other, hk]
  · simp [State.slot, State.setSlot, State.reel_modReel_other, hr]

@[simp] theorem State.slot_modSlot_same (s : State) (r : StrandRef) (f : Slot → Slot) :
    (s.modSlot r f).slot r = f (s.slot r) := by
  simp [State.modSlot]

theorem State.slot_modSlot_other (s : State) (r q : StrandRef) (f : Slot → Slot) (h : q ≠ r) :
    (s.modSlot r f).slot q = s.slot q := State.slot_setSlot_other s r q _ h

/-- A slot's update leaves everything of every reel but the slots. -/
theorem State.reel_setSlot (s : State) (r : StrandRef) (t : Slot) (n : Nat) :
    ∃ l, (s.setSlot r t).reel n = { s.reel n with slots := l } := by
  by_cases h : n = r.reel
  · subst h; exact ⟨_, by simp [State.setSlot, Reel.setSlot]; rfl⟩
  · exact ⟨(s.reel n).slots, by simp [State.setSlot, State.reel_modReel_other, h]⟩

@[simp] theorem State.me_modMe (s : State) (f : Slot → Slot) : (s.modMe f).me = f s.me := by
  simp [State.me, State.modMe]

theorem State.slot_modMe_other (s : State) (f : Slot → Slot) (q : StrandRef) (h : q ≠ s.cur) :
    (s.modMe f).slot q = s.slot q := State.slot_modSlot_other s _ q f h

@[simp] theorem State.now_modMe (s : State) (f : Slot → Slot) : (s.modMe f).now = s.now := by
  simp [State.now, State.modMe, State.modSlot, State.setSlot, Reel.setSlot]

@[simp] theorem State.ctx_setCtx_same (s : State) (c : Nat) (x : Context) : (s.setCtx c x).ctx c = x := by
  simp [State.ctx, State.setCtx]

theorem State.ctx_setCtx_other (s : State) (c d : Nat) (x : Context) (h : d ≠ c) : (s.setCtx c x).ctx d = s.ctx d := by
  simp [State.ctx, State.setCtx, SMap.get_put_other, h]

@[simp] theorem State.field_setField_same (s : State) (n : Nat) (x : Field) : (s.setField n x).field n = x := by
  simp [State.field, State.setField]

theorem State.field_setField_other (s : State) (n m : Nat) (x : Field) (h : m ≠ n) :
    (s.setField n x).field m = s.field m := by
  simp [State.field, State.setField, SMap.get_put_other, h]

/-- Updates that touch no reel leave every slot. -/
theorem State.slot_congr {s t : State} (h : t.reels = s.reels) (r : StrandRef) : t.slot r = s.slot r := by
  simp [State.slot, State.reel, h]

theorem State.reel_congr {s t : State} (h : t.reels = s.reels) (n : Nat) : t.reel n = s.reel n := by
  simp [State.reel, h]

/-! ## Registers of a strand (R43) -/

/-- s0 reads as zero. -/
@[simp] theorem Slot.getS_zero (t : Slot) : t.getS 0 = SReg.zero := rfl

/-- A write of s0 is discarded. -/
@[simp] theorem Slot.setS_zero (t : Slot) (x : SReg) : t.setS 0 x = t := rfl

theorem Slot.getS_setS_same (t : Slot) (n : Nat) (x : SReg) (h : n ≠ 0) : (t.setS n x).getS n = x := by
  simp [Slot.getS, Slot.setS, h]

theorem Slot.getS_setS_other (t : Slot) (n m : Nat) (x : SReg) (h : m ≠ n) : (t.setS n x).getS m = t.getS m := by
  simp only [Slot.getS, Slot.setS]
  repeat' split
  all_goals simp_all [SMap.get_put_other]

@[simp] theorem Slot.setP_zero (t : Slot) (x : PReg) : t.setP 0 x = t := rfl

theorem Slot.getP_setP_same (t : Slot) (n : Nat) (x : PReg) (h : n ≠ 0) : (t.setP n x).getP n = x := by
  simp [Slot.getP, Slot.setP, h]

theorem Slot.getP_setP_other (t : Slot) (n m : Nat) (x : PReg) (h : m ≠ n) : (t.setP n x).getP m = t.getP m := by
  simp only [Slot.getP, Slot.setP]
  repeat' split
  all_goals simp_all [SMap.get_put_other]

@[simp] theorem Slot.setM_zero (t : Slot) (x : SReg) : t.setM 0 x = t := rfl

theorem Slot.getM_setM_same (t : Slot) (n : Nat) (x : SReg) (h : n ≠ 0) : (t.setM n x).getM n = x := by
  simp [Slot.getM, Slot.setM, h]

theorem Slot.getM_setM_other (t : Slot) (n m : Nat) (x : SReg) (h : m ≠ n) : (t.setM n x).getM m = t.getM m := by
  simp only [Slot.getM, Slot.setM]
  repeat' split
  all_goals simp_all [SMap.get_put_other]

/-- What a slot's update of scalars, predicates, masks and pc can change: said by its update as a record. -/
theorem Slot.setS_eq (t : Slot) (n : Nat) (x : SReg) : ∃ l, t.setS n x = { t with s := l } := by
  unfold Slot.setS; split <;> exact ⟨_, rfl⟩

theorem Slot.setP_eq (t : Slot) (n : Nat) (x : PReg) : ∃ l, t.setP n x = { t with p := l } := by
  unfold Slot.setP; split <;> exact ⟨_, rfl⟩

theorem Slot.setM_eq (t : Slot) (n : Nat) (x : SReg) : ∃ l, t.setM n x = { t with m := l } := by
  unfold Slot.setM; split <;> exact ⟨_, rfl⟩

theorem Slot.setBank_eq (t : Slot) (b : Nat) (x : Bank) : ∃ l, t.setBank b x = { t with banks := l } := ⟨_, rfl⟩

theorem Slot.touch_eq (c : Nat) (t : Slot) (n : Nat) : ∃ l, t.touch c n = { t with banks := l } := ⟨_, rfl⟩

/-- A kill changes banks, liveness, vector contents and the reuse buffer. -/
theorem Slot.kill_eq (c : Nat) (t : Slot) (n : Nat) :
    ∃ l v b u, t.kill c n = { t with live := l, v := v, banks := b, reuse := u } := by
  unfold Slot.kill
  split
  · dsimp only
    generalize (if (t.reuse == some n) = true then none else t.reuse) = u
    split
    · exact ⟨_, _, _, _, rfl⟩
    · exact ⟨_, _, _, _, rfl⟩
  · exact ⟨_, _, _, _, rfl⟩

theorem Slot.foldl_touch_eq (c : Nat) (l : List Nat) (t : Slot) : ∃ b, l.foldl (Slot.touch c) t = { t with banks := b } := by
  induction l generalizing t with
  | nil => exact ⟨_, rfl⟩
  | cons n l ih => obtain ⟨b, hb⟩ := ih (t.touch c n); exact ⟨b, by rw [List.foldl_cons, hb]; rfl⟩

theorem Slot.foldl_kill_eq (c : Nat) (l : List Nat) (t : Slot) :
    ∃ e v b u, l.foldl (Slot.kill c) t = { t with live := e, v := v, banks := b, reuse := u } := by
  induction l generalizing t with
  | nil => exact ⟨_, _, _, _, rfl⟩
  | cons n l ih =>
    obtain ⟨e, v, b, u, h⟩ := ih (t.kill c n)
    obtain ⟨e', v', b', u', h'⟩ := Slot.kill_eq c t n
    exact ⟨e, v, b, u, by rw [List.foldl_cons, h, h']⟩

theorem Slot.roundReuse_eq (i : Instr) (t : Slot) : ∃ u g, Slot.roundReuse i t = { t with reuse := u, seed := g } := by
  unfold Slot.roundReuse
  split
  · exact ⟨_, _, rfl⟩
  · exact ⟨_, _, rfl⟩

/-- What the shared part of an issue changes of the strand: pc, READY tick, result times, and of the vector registers
liveness, contents, banks, reuse buffer, and the generators' seed. -/
theorem Slot.retire_eq (i : Instr) (c tick : Nat) (t : Slot) :
    ∃ e v b u g a, Slot.retire i c tick t =
      { t with pc := t.pc + 8, readyTick := tick, live := e, v := v, banks := b, reuse := u, seed := g, readyAt := a } := by
  unfold Slot.retire
  dsimp only
  obtain ⟨b0, h0⟩ := Slot.foldl_touch_eq c (vecNums (usesOf i).reads) t
  obtain ⟨u0, g0, h1⟩ := Slot.roundReuse_eq i { t with banks := b0 }
  obtain ⟨e, v, b, u, h⟩ := Slot.foldl_kill_eq c (usesOf i).kills { t with banks := b0, reuse := u0, seed := g0 }
  rw [h0, h1, h]
  exact ⟨e, v, b, u, g0, _, rfl⟩

@[simp] theorem Slot.retire_getS (i : Instr) (c tick : Nat) (t : Slot) (n : Nat) :
    (Slot.retire i c tick t).getS n = t.getS n := by
  obtain ⟨e, v, b, u, g, a, h⟩ := Slot.retire_eq i c tick t
  rw [h]; rfl

@[simp] theorem Slot.retire_getP (i : Instr) (c tick : Nat) (t : Slot) (n : Nat) :
    (Slot.retire i c tick t).getP n = t.getP n := by
  obtain ⟨e, v, b, u, g, a, h⟩ := Slot.retire_eq i c tick t
  rw [h]; rfl

@[simp] theorem Slot.retire_getM (i : Instr) (c tick : Nat) (t : Slot) (n : Nat) :
    (Slot.retire i c tick t).getM n = t.getM n := by
  obtain ⟨e, v, b, u, g, a, h⟩ := Slot.retire_eq i c tick t
  rw [h]; rfl

@[simp] theorem Slot.retire_pc (i : Instr) (c tick : Nat) (t : Slot) : (Slot.retire i c tick t).pc = t.pc + 8 := by
  obtain ⟨e, v, b, u, g, a, h⟩ := Slot.retire_eq i c tick t
  rw [h]

@[simp] theorem State.me_retire (s : State) (i : Instr) : (s.retire i).me = Slot.retire i s.now s.tick s.me := by
  simp [State.retire]

@[simp] theorem State.me_setRs (s : State) (n : BitVec 6) (x : SReg) : (s.setRs n x).me = s.me.setS n.toNat x := by
  simp [State.setRs]

@[simp] theorem State.me_setPc (s : State) (pc : Word) : (s.setPc pc).me = { s.me with pc := pc } := by
  simp [State.setPc]

@[simp] theorem State.me_skip (s : State) : s.skip.me = { s.me with pc := s.me.pc + 8, readyTick := s.tick } := by
  simp [State.skip]

/-! ## Issue -/

/-- The outcomes of an issue: a fault, no effect, a hold by R46 or R148, the effect, a hold by the entry. -/
theorem issue_cases (i : Instr) (s : State) (eff : State → State → Eff) :
    (∃ t, issue i s eff = .next (s.trapAt i t)) ∨ issue i s eff = .next s.skip ∨ issue i s eff = .next { s with held := true } ∨
    (∃ t, eff s (s.retire i) = .done t ∧ issue i s eff = .next t) ∨
    (∃ t, eff s (s.retire i) = .hold t ∧ issue i s eff = .next { t with held := true }) := by
  unfold issue
  split
  · exact .inl ⟨_, rfl⟩
  split
  · exact .inl ⟨_, rfl⟩
  split
  · exact .inl ⟨_, rfl⟩
  split
  · exact .inr (.inl rfl)
  split
  · exact .inl ⟨_, rfl⟩
  split
  · exact .inr (.inr (.inl rfl))
  split
  · exact .inl ⟨_, rfl⟩
  · exact .inr (.inr (.inr (.inl ⟨_, by assumption, rfl⟩)))
  · exact .inr (.inr (.inr (.inr ⟨_, by assumption, rfl⟩)))

/-- Every issue answers a next state. -/
theorem issue_next (i : Instr) (s : State) (eff : State → State → Eff) : ∃ t, issue i s eff = .next t := ⟨_, rfl⟩

end Sys2Proof.Machine
end

