-- ==== Sys2Proof/Laws/Frames.lean ====
section
/-! SUPPORT. What the shared operations of an issue leave alone, in the terms of Safety: cited instead of unfolding them. -/

namespace Sys2Proof.Machine

theorem Slot.ext_of (t : Slot) : SameS t t [] ∧ SameP t t [] ∧ SameM t t [] ∧ SameV t t [] ∧ SameIdentity t t :=
  ⟨fun _ _ => rfl, fun _ _ => rfl, fun _ _ => rfl, fun _ _ => ⟨rfl, rfl⟩, by simp [SameIdentity]⟩

theorem OnlyStrand.refl (s : State) : OnlyStrand s s := by
  refine ⟨rfl, fun _ _ => rfl, fun _ => rfl, fun _ => rfl, fun _ => rfl⟩

/-- A chain of steps of one strand. -/
theorem OnlyStrand.trans {s t u : State} (h1 : OnlyStrand s t) (h2 : OnlyStrand t u) : OnlyStrand s u := by
  obtain ⟨a1, b1, c1, d1, e1⟩ := h1
  obtain ⟨a2, b2, c2, d2, e2⟩ := h2
  have hcur : t.cur = s.cur := by rw [a1]
  refine ⟨by rw [a2, a1], fun r hr => ?_, fun n => ?_, fun n => ?_, fun n => ?_⟩
  · rw [b2 r (by rw [hcur]; exact hr), b1 r hr]
  · rw [c2 n, c1 n]
  · rw [d2 n, d1 n]
  · rw [e2 n, e1 n]

/-- An update of the slot that issues changes nothing else. -/
theorem OnlyStrand.modMe (s : State) (f : Slot → Slot) : OnlyStrand s (s.modMe f) := by
  refine ⟨rfl, fun r hr => State.slot_modMe_other s f r hr, fun n => ?_, fun n => rfl, fun n => rfl⟩
  obtain ⟨l, h⟩ := State.reel_setSlot s s.cur (f (s.slot s.cur)) n
  show ((s.setSlot s.cur (f (s.slot s.cur))).reel n) = _
  rw [State.modMe, State.modSlot, h]

theorem OnlyStrand.retire (s : State) (i : Instr) : OnlyStrand s (s.retire i) := OnlyStrand.modMe s _
theorem OnlyStrand.setRs (s : State) (n : BitVec 6) (x : SReg) : OnlyStrand s (s.setRs n x) := OnlyStrand.modMe s _
theorem OnlyStrand.setPc (s : State) (pc : Word) : OnlyStrand s (s.setPc pc) := OnlyStrand.modMe s _
theorem OnlyStrand.skip (s : State) : OnlyStrand s s.skip := OnlyStrand.modMe s _

theorem OnlyStrand.drawWord (s : State) : OnlyStrand s s.drawWord.2 := by
  refine ⟨rfl, fun _ _ => rfl, fun _ => rfl, fun _ => rfl, fun _ => rfl⟩

theorem OnlyStrand.setRp (s : State) (n : BitVec 6) (codes : List (Option Code)) (v : Bool) :
    OnlyStrand s (s.setRp n codes v) := by
  unfold State.setRp
  split
  · exact OnlyStrand.modMe s _
  · exact (OnlyStrand.drawWord s).trans (OnlyStrand.modMe _ _)

/-- The state of a strand that has faulted. -/
theorem State.me_trapAt (s : State) (i : Instr) (x : Trap) :
    (s.trapAt i x).me = { s.me with phase := .faulted, wait := .none, walk := none, fetchFail := none } := by
  simp only [State.trapAt, State.takeFault, State.me, State.record, State.modCtx]
  rw [State.slot_congr (s := State.setSlot _ _ _) (t := State.setCtx _ _ _) rfl]
  simp

theorem OnlyStrand.setSlot {s : State} {r : StrandRef} (h : r = s.cur) (x : Slot) : OnlyStrand s (s.setSlot r x) := by
  subst h; exact OnlyStrand.modMe s fun _ => x

/-- Counting faults of a field. -/
theorem OnlyStrand.count (s : State) (n : Nat) (a b : BitVec 32) :
    OnlyStrand s (s.modField n fun f => { f with deadregs := f.deadregs + a, deadlss := f.deadlss + b }) := by
  refine ⟨rfl, fun _ _ => rfl, fun _ => rfl, fun _ => rfl, fun m => ?_⟩
  by_cases h : m = n
  · subst h; rw [State.modField, State.field_setField_same]
  · rw [State.modField, State.field_setField_other _ _ _ _ h]

/-- A record that waits for its fault queue. -/
theorem OnlyStrand.record (s : State) (c : Nat) (r : Record) : OnlyStrand s (s.record c r) := by
  refine ⟨rfl, fun _ _ => rfl, fun _ => rfl, fun d => ?_, fun _ => rfl⟩
  unfold State.record State.modCtx
  by_cases h : d = c
  · subst h; rw [State.ctx_setCtx_same]; dsimp only; split <;> rfl
  · rw [State.ctx_setCtx_other _ _ _ _ h]

/-- Nothing but the strand that faults changes. -/
theorem OnlyStrand.trapAt (s : State) (i : Instr) (x : Trap) : OnlyStrand s (s.trapAt i x) := by
  unfold State.trapAt State.takeFault
  dsimp only
  refine OnlyStrand.trans ?_ (OnlyStrand.record _ _ _)
  refine OnlyStrand.trans ?_ (OnlyStrand.setSlot rfl _)
  exact OnlyStrand.count s _ _ _

/-- A fault appends its record, and no other, to the context's store. -/
theorem State.records_trapAt (s : State) (i : Instr) (x : Trap) :
    ((s.trapAt i x).ctx (s.me).ctx).records = (s.ctx (s.me).ctx).records ++
      [{ w0 := recordHead x.cls x.sub 7 x.wrote x.fetch ((s.me).mode == .user) (s.blockOf s.cur.reel).1 (s.blockOf s.cur.reel).2
         handle := Sys2Proof.word (s.me).handle, pc := (s.me).pc, addr := x.addr, word := wordOf i, info := x.info
         tick := Sys2Proof.word s.tick, recordOnly := false }] := by
  simp only [State.trapAt, State.takeFault, State.record, State.modCtx, State.me]
  rw [State.ctx_setCtx_same]
  simp only [Bool.false_and, Bool.false_eq_true, if_false]
  rfl

/-- An instruction that issues runs its entry. -/
theorem issue_of_issues {i : Instr} {s : State} (h : issues i s = true) (eff : State → State → Eff) :
    issue i s eff = .next (match eff s (s.retire i) with
      | .trap x => s.trapAt i x
      | .done t => t
      | .hold t => { t with held := true }) := by
  simp only [issues, accepted, Bool.and_eq_true, decide_eq_true_eq, Bool.not_eq_true', Option.isNone_iff_eq_none] at h
  obtain ⟨⟨⟨⟨⟨h1, h2⟩, h3⟩, h4⟩, h5⟩, h6⟩ := h
  simp only [issue, Slot.proceeds, h1, h3, h4, h5, h6, Nat.not_lt.2 h2, Bool.not_true, Bool.true_or, Bool.false_eq_true, if_false]
    <;> cases eff s (s.retire i) <;> rfl

/-- A held instruction changes nothing. -/
theorem OnlyStrand.held (s : State) : OnlyStrand s { s with held := true } :=
  ⟨rfl, fun _ _ => rfl, fun _ => rfl, fun _ => rfl, fun _ => rfl⟩

/-- An issue of which no fault, hold or effect changes more than the strand changes no more. -/
theorem OnlyStrand.issue {i : Instr} {s t : State} {eff : State → State → Eff} (h : issue i s eff = .next t)
    (hd : ∀ u, eff s (s.retire i) = .done u → OnlyStrand s u) (hh : ∀ u, eff s (s.retire i) ≠ .hold u) :
    OnlyStrand s t := by
  rcases issue_cases i s eff with ⟨x, h'⟩ | h' | h' | ⟨u, hu, h'⟩ | ⟨u, hu, h'⟩ <;> rw [h] at h' <;> injection h' with h'
  · rw [h']; exact OnlyStrand.trapAt s i x
  · rw [h']; exact OnlyStrand.skip s
  · rw [h']; exact OnlyStrand.held s
  · rw [h']; exact hd u hu
  · exact absurd hu (hh u)

/-- An entry that ends in one write of a scalar register changes nothing else of the strand and nothing beside it. -/
theorem issue_setRs_frame {i : Instr} {s t : State} {eff : State → State → Eff} {d : BitVec 6}
    (hk : (usesOf i).kills = [])
    (he : ∃ u x, OnlyStrand s u ∧ u.me = (s.retire i).me ∧ eff s (s.retire i) = .done (u.setRs d x)) (h : issue i s eff = .next t) :
    OnlyStrand s t ∧ SameMemory s t ∧ SameS s.me t.me [d.toNat] ∧ SameP s.me t.me [] ∧ SameM s.me t.me [] ∧
      SameV s.me t.me [] ∧ SameIdentity s.me t.me := by
  have hO : OnlyStrand s t := by
    refine OnlyStrand.issue h ?_ ?_
    · intro u hu; obtain ⟨v, x, hv, _, hx⟩ := he; rw [hx] at hu; injection hu with hu; subst hu; exact hv.trans (OnlyStrand.setRs _ _ _)
    · intro u hu; obtain ⟨v, x, hv, _, hx⟩ := he; rw [hx] at hu; cases hu
  have hM : SameMemory s t := by
    intro a; rw [hO.1]; rfl
  refine ⟨hO, hM, ?_⟩
  obtain ⟨v, x, hv, hme, hx⟩ := he
  rcases issue_cases i s eff with ⟨y, h'⟩ | h' | h' | ⟨u, hu, h'⟩ | ⟨u, hu, h'⟩ <;> rw [h] at h' <;> injection h' with h'
  · subst h'; rw [State.me_trapAt]
    obtain ⟨a,b,c,d,e⟩ := Slot.ext_of s.me
    exact ⟨fun n _ => rfl, b, c, d, e⟩
  · subst h'; rw [State.me_skip]
    obtain ⟨a,b,c,d,e⟩ := Slot.ext_of s.me
    exact ⟨fun n _ => rfl, b, c, d, e⟩
  · subst h'
    exact ⟨fun n _ => rfl, fun _ _ => rfl, fun _ _ => rfl, fun _ _ => ⟨rfl, rfl⟩, (Slot.ext_of s.me).2.2.2.2⟩
  · rw [hx] at hu; injection hu with hu; subst hu; subst h'
    rw [State.me_setRs, hme, State.me_retire]
    obtain ⟨l, hl⟩ := Slot.setS_eq (Slot.retire i s.now s.tick s.me) d.toNat x
    have hg : ∀ n, n ≠ d.toNat → ((Slot.retire i s.now s.tick s.me).setS d.toNat x).getS n = s.me.getS n := fun n hn => by
      rw [Slot.getS_setS_other _ _ _ _ hn, Slot.retire_getS]
    have hret : ∀ n, (Slot.retire i s.now s.tick s.me).isLive n = s.me.isLive n ∧ (Slot.retire i s.now s.tick s.me).getV n = s.me.getV n := by
      intro n
      unfold Slot.retire
      rw [hk]
      obtain ⟨b0, h0⟩ := Slot.foldl_touch_eq s.now (vecNums (usesOf i).reads) s.me
      obtain ⟨u0, g0, h1⟩ := Slot.roundReuse_eq i { s.me with banks := b0 }
      rw [h0, h1]; exact ⟨rfl, rfl⟩
    obtain ⟨e, v, b, u, g, a, hr⟩ := Slot.retire_eq i s.now s.tick s.me
    refine ⟨fun n hn => hg n (by simpa using hn), ?_, ?_, ?_, ?_⟩
    · intro n _; rw [hl]; exact Slot.retire_getP i s.now s.tick s.me n
    · intro n _; rw [hl]; exact Slot.retire_getM i s.now s.tick s.me n
    · intro n _; rw [hl]; exact hret n
    · rw [hl, hr]; simp [SameIdentity]
  · rw [hx] at hu; cases hu

end Sys2Proof.Machine
end

