-- ==== Sys2Proof/Laws/Memory.lean ====
section
/-! SUPPORT. Bytes of memory and of a local store: the canonical form that every operation keeps, and what reads as what
after a write. -/

namespace Sys2Proof.Machine

/-! ## The canonical form -/

/-- Writing through granules keeps the canonical form. -/
theorem putBytes_wf (code : Nat → Option Code) (fuel : Nat) (m : SMap Byte) (p : SMap Bool) (off : Nat) (bs : List Byte)
    (h : SMap.wf 0 m = true) : SMap.wf 0 (putBytes code fuel m p off bs).1 = true := by
  induction fuel generalizing m p off bs with
  | zero => exact h
  | succ n ih =>
    simp only [putBytes]
    split
    · exact h
    · exact ih _ _ _ _ (SMap.wf_foldl_put _ _ _ h)

theorem Canonical.putMem {s : State} (h : Canonical s) (pa : Nat) (l : List PByte) : Canonical (s.putMem pa l) := by
  simp only [Canonical, State.putMem, Memory.wf]
  exact putBytes_wf _ _ _ _ _ _ h

theorem Canonical.dropMemory {s : State} (h : Canonical s) (lo n : Nat) : Canonical (s.dropMemory lo n) :=
  SMap.wf_clear lo n h

theorem Canonical.placeWord {s : State} (h : Canonical s) (w : Word) : Canonical (s.placeWord w) :=
  SMap.wf_foldl_put _ (fun k => k) _ h

/-! ## Reading after writing -/

/-- Four bytes written one by one: those of their granule are the new ones, every other stays. -/
theorem get_granule (m : SMap Byte) (g a : Nat) (new : List Byte) :
    SMap.get 0 ((upto 4).foldl (fun m k => SMap.put 0 m (4 * g + k) (new.getD k 0)) m) a =
      if a / 4 = g then new.getD (a % 4) 0 else SMap.get 0 m a := by
  simp only [upto, show List.range 4 = [0, 1, 2, 3] from rfl, List.foldl_cons, List.foldl_nil, SMap.get_put]
  have := Nat.div_add_mod a 4
  have := Nat.mod_lt a (by decide : 0 < 4)
  split <;> rename_i h <;> (try subst h)
  · rw [if_pos (by omega)]; congr 1; omega
  · split <;> rename_i h <;> (try subst h)
    · rw [if_pos (by omega)]; congr 1; omega
    · split <;> rename_i h <;> (try subst h)
      · rw [if_pos (by omega)]; congr 1; omega
      · split <;> rename_i h <;> (try subst h)
        · rw [if_pos (by omega)]; congr 1; omega
        · rw [if_neg (by omega)]

/-- A write leaves every granule that it does not touch alone, contents and poison. -/
theorem putBytes_other (code : Nat → Option Code) (fuel : Nat) (m : SMap Byte) (p : SMap Bool) (off : Nat) (bs : List Byte)
    (a : Nat) (h : a / 4 < off / 4 ∨ off + bs.length ≤ 4 * (a / 4)) :
    SMap.get 0 (putBytes code fuel m p off bs).1 a = SMap.get 0 m a ∧
    SMap.get false (putBytes code fuel m p off bs).2 (a / 4) = SMap.get false p (a / 4) := by
  induction fuel generalizing m p off bs with
  | zero => exact ⟨rfl, rfl⟩
  | succ n ih =>
    simp only [putBytes]
    split
    · exact ⟨rfl, rfl⟩
    · rename_i he
      have hl : bs.length ≠ 0 := fun h0 => he (by simp [List.length_eq_zero_iff.1 h0])
      have hg : a / 4 ≠ off / 4 := by omega
      refine ⟨(ih _ _ _ _ ?_).1.trans ?_, (ih _ _ _ _ ?_).2.trans ?_⟩
      · rw [List.length_drop]; omega
      · rw [get_granule, if_neg hg]
      · rw [List.length_drop]; omega
      · exact SMap.get_put_other _ _ _ _ _ hg

/-- A clean write of bytes to granules that are not poisoned: the bytes written read back, every other byte stays, and no
granule becomes poisoned. -/
theorem putBytes_clean (fuel : Nat) (m : SMap Byte) (p : SMap Bool) (off : Nat) (bs : List Byte) (hf : bs.length < fuel)
    (hp : ∀ g, off / 4 ≤ g → 4 * g < off + bs.length → SMap.get false p g = false) (a : Nat) :
    SMap.get 0 (putBytes (fun _ => none) fuel m p off bs).1 a =
        (if off ≤ a ∧ a < off + bs.length then bs.getD (a - off) 0 else SMap.get 0 m a) ∧
    SMap.get false (putBytes (fun _ => none) fuel m p off bs).2 (a / 4) = SMap.get false p (a / 4) := by
  induction fuel generalizing m p off bs with
  | zero => omega
  | succ n ih =>
    simp only [putBytes]
    split
    · rename_i he
      have : bs = [] := by simpa using he
      subst this
      exact ⟨by rw [if_neg (by simp only [List.length_nil]; omega)], rfl⟩
    · rename_i he
      have hl : bs.length ≠ 0 := fun h0 => he (by simp [List.length_eq_zero_iff.1 h0])
      have hg : SMap.get false p (off / 4) = false := hp _ (Nat.le_refl _) (by omega)
      have hk : ∀ x : List Byte, (mergeGranule x (SMap.get false p (off / 4)) (off % 4) (bs.take (min bs.length (4 - off % 4))) none).2 = false := by
        intro x; simp [mergeGranule, hg]
      have hput : ∀ x : List Byte, ∀ g', SMap.get false (SMap.put false p (off / 4) (mergeGranule x (SMap.get false p (off / 4)) (off % 4) (bs.take (min bs.length (4 - off % 4))) none).2) g' = SMap.get false p g' := by
        intro x g'
        rw [hk, SMap.get_put]; split
        · subst_vars; exact hg.symm
        · rfl
      have hlen : (bs.drop (min bs.length (4 - off % 4))).length = bs.length - min bs.length (4 - off % 4) := List.length_drop
      have hb : bs.length - min bs.length (4 - off % 4) < n := by omega
      have hr (x : List Byte) : ∀ g, (off + min bs.length (4 - off % 4)) / 4 ≤ g →
          4 * g < off + min bs.length (4 - off % 4) + (bs.drop (min bs.length (4 - off % 4))).length →
          SMap.get false (SMap.put false p (off / 4) (mergeGranule x (SMap.get false p (off / 4)) (off % 4)
            (bs.take (min bs.length (4 - off % 4))) none).2) g = false := by
        intro g h1 h2; rw [hput]; rw [hlen] at h2; exact hp g (by omega) (by omega)
      refine ⟨(ih _ _ _ _ (by rw [hlen]; exact hb) (hr _)).1.trans ?_,
        (ih _ _ _ _ (by rw [hlen]; exact hb) (hr _)).2.trans (hput _ _)⟩
      rw [get_granule, hlen]
      have hdm := Nat.div_add_mod a 4
      have hdo := Nat.div_add_mod off 4
      have hma := Nat.mod_lt a (by decide : 0 < 4)
      have hmo := Nat.mod_lt off (by decide : 0 < 4)
      simp only [mergeGranule, hg, Bool.false_and, Bool.false_eq_true, if_false, upto, show List.range 4 = [0, 1, 2, 3] from rfl, List.map_cons, List.map_nil, List.length_take]
      by_cases h1 : off + min bs.length (4 - off % 4) ≤ a ∧ a < off + bs.length
      · rw [if_pos (by omega), if_pos (by omega), List.getD_eq_getElem?_getD, List.getElem?_drop, List.getD_eq_getElem?_getD]
        congr 2; omega
      · rw [if_neg (by omega)]
        by_cases h2 : a / 4 = off / 4
        · rw [if_pos h2]
          have hm4 : a % 4 = 0 ∨ a % 4 = 1 ∨ a % 4 = 2 ∨ a % 4 = 3 := by omega
          have key : ∀ j, a % 4 = j → (if off % 4 ≤ j ∧ j < off % 4 + min (min bs.length (4 - off % 4)) bs.length then (bs.take (min bs.length (4 - off % 4))).getD (j - off % 4) 0 else SMap.get 0 m (4 * (off / 4) + j)) = (if off ≤ a ∧ a < off + bs.length then bs.getD (a - off) 0 else SMap.get 0 m a) := by
            intro j hj
            by_cases h3 : off ≤ a ∧ a < off + bs.length
            · rw [if_pos h3, if_pos (by omega), List.getD_eq_getElem?_getD, List.getElem?_take, if_pos (by omega), List.getD_eq_getElem?_getD]
              congr 2; omega
            · rw [if_neg h3, if_neg (by omega)]; congr 1; omega
          rcases hm4 with h | h | h | h <;> rw [← key _ h, h] <;> simp
        · rw [if_neg h2, if_neg (by omega)]

/-- A clean write at a home: what it wrote reads back clean, and every other byte of memory reads as before. -/
theorem State.memByte_putMem (s : State) (pa : Nat) (bs : List Byte)
    (hp : ∀ g, pa / 4 ≤ g → 4 * g < pa + bs.length → SMap.get false s.mpsn g = false) (a : Nat) :
    SMap.get 0 (s.putMem pa (bs.map fun b => (b, none))).mem a =
      if pa ≤ a ∧ a < pa + bs.length then bs.getD (a - pa) 0 else SMap.get 0 s.mem a := by
  have hc : codeAt pa (bs.map fun b => ((b, none) : PByte)) = fun _ => none := by
    funext g
    simp only [codeAt, firstCode]
    rw [List.findSome?_eq_none_iff]
    intro x hx
    obtain ⟨b, -, rfl⟩ := List.mem_map.1 (List.mem_of_mem_drop (List.mem_of_mem_take hx))
    rfl
  have hb : plainBytes (bs.map fun b => ((b, none) : PByte)) = bs := by
    simp [plainBytes, Function.comp_def]
  have h := (putBytes_clean (bs.length + 1) s.mem s.mpsn pa bs (by omega) hp a).1
  simpa only [State.putMem, hc, hb, List.length_map] using h

end Sys2Proof.Machine
end

