-- ==== Sys2Proof/Laws/PerInstr.lean ====
section
/-! SUPPORT. One lemma for every constructor of Instr: the word of a well-formed instruction carries an opcode that the
map of R108 assigns, but for the constructor that stands for the other words; a step of another agent has no word. -/

namespace Sys2Proof

theorem wordOpc_packR (o : BitVec 8) (f : RF) : wordOpc (packR o f) = o := by
  unfold wordOpc packR
  simp (disch := decide) only [BitVec.extractLsb'_append_eq_of_le]
  simp

theorem wordOpc_packI (o : BitVec 8) (f : IF) : wordOpc (packI o f) = o := by
  unfold wordOpc packI
  simp (disch := decide) only [BitVec.extractLsb'_append_eq_of_le]
  simp

theorem wordOpc_packM (o : BitVec 8) (f : MF) : wordOpc (packM o f) = o := by
  unfold wordOpc packM
  simp (disch := decide) only [BitVec.extractLsb'_append_eq_of_le]
  simp

theorem wordOpc_packA (o : BitVec 8) (f : AF) : wordOpc (packA o f) = o := by
  unfold wordOpc packA
  simp (disch := decide) only [BitVec.extractLsb'_append_eq_of_le]
  simp

theorem wordOpc_packB (o : BitVec 8) (f : BF) : wordOpc (packB o f) = o := by
  unfold wordOpc packB
  simp (disch := decide) only [BitVec.extractLsb'_append_eq_of_le]
  simp

theorem wordOpc_packE (o : BitVec 8) (f : EF) : wordOpc (packE o f) = o := by
  unfold wordOpc packE
  simp (disch := decide) only [BitVec.extractLsb'_append_eq_of_le]
  simp

theorem wordOpc_packS (o : BitVec 8) (f : SF) : wordOpc (packS o f) = o := by
  unfold wordOpc packS
  simp (disch := decide) only [BitVec.extractLsb'_append_eq_of_le]
  simp

theorem wordOpc_packNop (g : Guard) : wordOpc (0#8 ++ packGrd g ++ 0#52) = 0 := by
  unfold wordOpc
  simp (disch := decide) only [BitVec.extractLsb'_append_eq_of_le]
  simp

/-- What the family says of one instruction. -/
def Laws.OpcodeByte.Statement (i : Instr) : Prop :=
  i.wf = true → ∀ w, encode i = some w → opcAssigned (wordOpc w).toNat = true ∨ i = .unassignedOpcode w

/-- The opcode of a shape is one the map assigns. -/
def Shape.opcAssigned : Shape → Bool
  | .nop _ => true
  | .r o _ _ | .i o _ _ | .m o _ _ | .a o _ _ | .b o _ | .e o _ _ | .s o _ _ => Sys2Proof.opcAssigned o.toNat
  | .word _ => false
  | .event => true

theorem Laws.OpcodeByte.of_shape (i : Instr) (h : i.shape.opcAssigned = true) : Laws.OpcodeByte.Statement i := by
  intro _ w hw
  left
  unfold encode at hw
  revert h hw
  cases i.shape <;> intro h hw <;> simp only [Shape.opcAssigned, Option.some.injEq, reduceCtorEq] at h hw
  all_goals subst hw
  case nop g => rw [wordOpc_packNop]; decide
  all_goals simpa only [wordOpc_packR, wordOpc_packI, wordOpc_packM, wordOpc_packA, wordOpc_packB, wordOpc_packE, wordOpc_packS] using h

namespace Laws.OpcodeByte

theorem nop (g : Guard) : Statement (.nop g) := of_shape _ rfl
theorem add (f : RF) : Statement (.add f) := of_shape _ rfl
theorem sub (f : RF) : Statement (.sub f) := of_shape _ rfl
theorem mul (f : RF) : Statement (.mul f) := of_shape _ rfl
theorem mulh (f : RF) : Statement (.mulh f) := of_shape _ rfl
theorem madd (f : RF) : Statement (.madd f) := of_shape _ rfl
theorem div (f : RF) : Statement (.div f) := of_shape _ rfl
theorem rem (f : RF) : Statement (.rem f) := of_shape _ rfl
theorem absd (f : RF) : Statement (.absd f) := of_shape _ rfl
theorem min (f : RF) : Statement (.min f) := of_shape _ rfl
theorem max (f : RF) : Statement (.max f) := of_shape _ rfl
theorem and_ (f : RF) : Statement (.and_ f) := of_shape _ rfl
theorem or_ (f : RF) : Statement (.or_ f) := of_shape _ rfl
theorem xor_ (f : RF) : Statement (.xor_ f) := of_shape _ rfl
theorem andn (f : RF) : Statement (.andn f) := of_shape _ rfl
theorem shl (f : RF) : Statement (.shl f) := of_shape _ rfl
theorem shr (f : RF) : Statement (.shr f) := of_shape _ rfl
theorem sar (f : RF) : Statement (.sar f) := of_shape _ rfl
theorem rol (f : RF) : Statement (.rol f) := of_shape _ rfl
theorem clz (f : RF) : Statement (.clz f) := of_shape _ rfl
theorem popc (f : RF) : Statement (.popc f) := of_shape _ rfl
theorem brev (f : RF) : Statement (.brev f) := of_shape _ rfl
theorem bfx (f : RF) : Statement (.bfx f) := of_shape _ rfl
theorem bfi (f : RF) : Statement (.bfi f) := of_shape _ rfl
theorem ext (f : RF) : Statement (.ext f) := of_shape _ rfl
theorem mov (f : RF) : Statement (.mov f) := of_shape _ rfl
theorem sel (f : RF) : Statement (.sel f) := of_shape _ rfl
theorem lea (f : RF) : Statement (.lea f) := of_shape _ rfl
theorem cmp (f : RF) : Statement (.cmp f) := of_shape _ rfl
theorem plog (f : RF) : Statement (.plog f) := of_shape _ rfl
theorem pmov (f : RF) : Statement (.pmov f) := of_shape _ rfl
theorem addi (f : IF) : Statement (.addi f) := of_shape _ rfl
theorem muli (f : IF) : Statement (.muli f) := of_shape _ rfl
theorem logi (f : IF) : Statement (.logi f) := of_shape _ rfl
theorem shi (f : IF) : Statement (.shi f) := of_shape _ rfl
theorem cmpi (f : IF) : Statement (.cmpi f) := of_shape _ rfl
theorem movi (f : IF) : Statement (.movi f) := of_shape _ rfl
theorem movhi (f : IF) : Statement (.movhi f) := of_shape _ rfl
theorem br (f : BF) : Statement (.br f) := of_shape _ rfl
theorem brr (f : RF) : Statement (.brr f) := of_shape _ rfl
theorem call (f : BF) : Statement (.call f) := of_shape _ rfl
theorem callr (f : RF) : Statement (.callr f) := of_shape _ rfl
theorem ret (f : RF) : Statement (.ret f) := of_shape _ rfl
theorem loop (f : IF) : Statement (.loop f) := of_shape _ rfl
theorem dbnz (f : IF) : Statement (.dbnz f) := of_shape _ rfl
theorem exit (f : RF) : Statement (.exit f) := of_shape _ rfl
theorem yield (f : RF) : Statement (.yield f) := of_shape _ rfl
theorem waitt (f : RF) : Statement (.waitt f) := of_shape _ rfl
theorem waitq (f : RF) : Statement (.waitq f) := of_shape _ rfl
theorem spawn (f : RF) : Statement (.spawn f) := of_shape _ rfl
theorem prio (f : IF) : Statement (.prio f) := of_shape _ rfl
theorem time (f : RF) : Statement (.time f) := of_shape _ rfl
theorem strid (f : RF) : Statement (.strid f) := of_shape _ rfl
theorem bkpt (f : IF) : Statement (.bkpt f) := of_shape _ rfl
theorem ld (f : MF) : Statement (.ld f) := of_shape _ rfl
theorem st (f : MF) : Statement (.st f) := of_shape _ rfl
theorem ldl (f : MF) : Statement (.ldl f) := of_shape _ rfl
theorem stl (f : MF) : Statement (.stl f) := of_shape _ rfl
theorem ldacq (f : MF) : Statement (.ldacq f) := of_shape _ rfl
theorem strel (f : MF) : Statement (.strel f) := of_shape _ rfl
theorem pref (f : MF) : Statement (.pref f) := of_shape _ rfl
theorem cline (f : MF) : Statement (.cline f) := of_shape _ rfl
theorem fence (f : MF) : Statement (.fence f) := of_shape _ rfl
theorem spkill (f : MF) : Statement (.spkill f) := of_shape _ rfl
theorem aadd (f : AF) : Statement (.aadd f) := of_shape _ rfl
theorem afadd (f : AF) : Statement (.afadd f) := of_shape _ rfl
theorem amin (f : AF) : Statement (.amin f) := of_shape _ rfl
theorem amax (f : AF) : Statement (.amax f) := of_shape _ rfl
theorem aand (f : AF) : Statement (.aand f) := of_shape _ rfl
theorem aor (f : AF) : Statement (.aor f) := of_shape _ rfl
theorem axor (f : AF) : Statement (.axor f) := of_shape _ rfl
theorem axchg (f : AF) : Statement (.axchg f) := of_shape _ rfl
theorem acas (f : AF) : Statement (.acas f) := of_shape _ rfl
theorem adcas (f : AF) : Statement (.adcas f) := of_shape _ rfl
theorem amove (f : AF) : Statement (.amove f) := of_shape _ rfl
theorem aadd2 (f : AF) : Statement (.aadd2 f) := of_shape _ rfl
theorem waita (f : AF) : Statement (.waita f) := of_shape _ rfl
theorem bara (f : AF) : Statement (.bara f) := of_shape _ rfl
theorem barw (f : AF) : Statement (.barw f) := of_shape _ rfl
theorem coll (f : AF) : Statement (.coll f) := of_shape _ rfl
theorem vadd (f : RF) : Statement (.vadd f) := of_shape _ rfl
theorem vsub (f : RF) : Statement (.vsub f) := of_shape _ rfl
theorem vmul (f : RF) : Statement (.vmul f) := of_shape _ rfl
theorem vfma (f : RF) : Statement (.vfma f) := of_shape _ rfl
theorem vmin (f : RF) : Statement (.vmin f) := of_shape _ rfl
theorem vmax (f : RF) : Statement (.vmax f) := of_shape _ rfl
theorem vabs (f : RF) : Statement (.vabs f) := of_shape _ rfl
theorem vneg (f : RF) : Statement (.vneg f) := of_shape _ rfl
theorem vdiv (f : RF) : Statement (.vdiv f) := of_shape _ rfl
theorem vsqrt (f : RF) : Statement (.vsqrt f) := of_shape _ rfl
theorem vrcp (f : RF) : Statement (.vrcp f) := of_shape _ rfl
theorem vrsq (f : RF) : Statement (.vrsq f) := of_shape _ rfl
theorem vexp2 (f : RF) : Statement (.vexp2 f) := of_shape _ rfl
theorem vlog2 (f : RF) : Statement (.vlog2 f) := of_shape _ rfl
theorem vround (f : RF) : Statement (.vround f) := of_shape _ rfl
theorem vclamp (f : RF) : Statement (.vclamp f) := of_shape _ rfl
theorem vand (f : RF) : Statement (.vand f) := of_shape _ rfl
theorem vor (f : RF) : Statement (.vor f) := of_shape _ rfl
theorem vxor (f : RF) : Statement (.vxor f) := of_shape _ rfl
theorem vnot (f : RF) : Statement (.vnot f) := of_shape _ rfl
theorem vshl (f : RF) : Statement (.vshl f) := of_shape _ rfl
theorem vshr (f : RF) : Statement (.vshr f) := of_shape _ rfl
theorem vsar (f : RF) : Statement (.vsar f) := of_shape _ rfl
theorem vmulh (f : RF) : Statement (.vmulh f) := of_shape _ rfl
theorem vclz (f : RF) : Statement (.vclz f) := of_shape _ rfl
theorem vpopc (f : RF) : Statement (.vpopc f) := of_shape _ rfl
theorem vacs (f : RF) : Statement (.vacs f) := of_shape _ rfl
theorem vcmp (f : RF) : Statement (.vcmp f) := of_shape _ rfl
theorem vsel (f : RF) : Statement (.vsel f) := of_shape _ rfl
theorem vmov (f : RF) : Statement (.vmov f) := of_shape _ rfl
theorem vbcast (f : RF) : Statement (.vbcast f) := of_shape _ rfl
theorem viota (f : RF) : Statement (.viota f) := of_shape _ rfl
theorem vins (f : RF) : Statement (.vins f) := of_shape _ rfl
theorem vext (f : RF) : Statement (.vext f) := of_shape _ rfl
theorem vperm (f : RF) : Statement (.vperm f) := of_shape _ rfl
theorem vshuf (f : RF) : Statement (.vshuf f) := of_shape _ rfl
theorem vred (f : RF) : Statement (.vred f) := of_shape _ rfl
theorem vscan (f : RF) : Statement (.vscan f) := of_shape _ rfl
theorem vcomp (f : RF) : Statement (.vcomp f) := of_shape _ rfl
theorem vexpd (f : RF) : Statement (.vexpd f) := of_shape _ rfl
theorem vcvt (f : RF) : Statement (.vcvt f) := of_shape _ rfl
theorem vqnt (f : RF) : Statement (.vqnt f) := of_shape _ rfl
theorem vdqnt (f : RF) : Statement (.vdqnt f) := of_shape _ rfl
theorem mlog (f : RF) : Statement (.mlog f) := of_shape _ rfl
theorem mpopc (f : RF) : Statement (.mpopc f) := of_shape _ rfl
theorem mfirst (f : RF) : Statement (.mfirst f) := of_shape _ rfl
theorem mmov (f : RF) : Statement (.mmov f) := of_shape _ rfl
theorem vld (f : MF) : Statement (.vld f) := of_shape _ rfl
theorem vst (f : MF) : Statement (.vst f) := of_shape _ rfl
theorem vlds (f : MF) : Statement (.vlds f) := of_shape _ rfl
theorem vsts (f : MF) : Statement (.vsts f) := of_shape _ rfl
theorem vgath (f : MF) : Statement (.vgath f) := of_shape _ rfl
theorem vscat (f : MF) : Statement (.vscat f) := of_shape _ rfl
theorem sfeed (f : EF) : Statement (.sfeed f) := of_shape _ rfl
theorem sdrain (f : EF) : Statement (.sdrain f) := of_shape _ rfl
theorem sbnd (f : EF) : Statement (.sbnd f) := of_shape _ rfl
theorem pmark (f : EF) : Statement (.pmark f) := of_shape _ rfl
theorem copy (f : EF) : Statement (.copy f) := of_shape _ rfl
theorem copy2d (f : EF) : Statement (.copy2d f) := of_shape _ rfl
theorem fill (f : EF) : Statement (.fill f) := of_shape _ rfl
theorem gathr (f : EF) : Statement (.gathr f) := of_shape _ rfl
theorem scatr (f : EF) : Statement (.scatr f) := of_shape _ rfl
theorem kvld (f : EF) : Statement (.kvld f) := of_shape _ rfl
theorem kvappRows (f : EF) : Statement (.kvappRows f) := of_shape _ rfl
theorem kvappInit (f : EF) : Statement (.kvappInit f) := of_shape _ rfl
theorem kvseal (f : EF) : Statement (.kvseal f) := of_shape _ rfl
theorem retry (f : EF) : Statement (.retry f) := of_shape _ rfl
theorem ecancel (f : EF) : Statement (.ecancel f) := of_shape _ rfl
theorem estat (f : EF) : Statement (.estat f) := of_shape _ rfl
theorem kfuse (f : EF) : Statement (.kfuse f) := of_shape _ rfl
theorem kfree (f : EF) : Statement (.kfree f) := of_shape _ rfl
theorem kctx (f : EF) : Statement (.kctx f) := of_shape _ rfl
theorem kldw (f : EF) : Statement (.kldw f) := of_shape _ rfl
theorem kswap (f : EF) : Statement (.kswap f) := of_shape _ rfl
theorem kmma (f : EF) : Statement (.kmma f) := of_shape _ rfl
theorem kroute (f : EF) : Statement (.kroute f) := of_shape _ rfl
theorem kunroute (f : EF) : Statement (.kunroute f) := of_shape _ rfl
theorem kqry (f : EF) : Statement (.kqry f) := of_shape _ rfl
theorem kclk (f : EF) : Statement (.kclk f) := of_shape _ rfl
theorem atld (f : RF) : Statement (.atld f) := of_shape _ rfl
theorem atst (f : RF) : Statement (.atst f) := of_shape _ rfl
theorem atadd (f : RF) : Statement (.atadd f) := of_shape _ rfl
theorem atmax (f : RF) : Statement (.atmax f) := of_shape _ rfl
theorem atclr (f : RF) : Statement (.atclr f) := of_shape _ rfl
theorem vdrop (f : RF) : Statement (.vdrop f) := of_shape _ rfl
theorem bkq (f : RF) : Statement (.bkq f) := of_shape _ rfl
theorem boostReq (f : IF) : Statement (.boostReq f) := of_shape _ rfl
theorem boostRel (f : IF) : Statement (.boostRel f) := of_shape _ rfl
theorem boostQry (f : IF) : Statement (.boostQry f) := of_shape _ rfl
theorem pwrhintIdle (f : IF) : Statement (.pwrhintIdle f) := of_shape _ rfl
theorem pwrhintRamp (f : IF) : Statement (.pwrhintRamp f) := of_shape _ rfl
theorem trap (f : SF) : Statement (.trap f) := of_shape _ rfl
theorem eret (f : SF) : Statement (.eret f) := of_shape _ rfl
theorem csrr (f : SF) : Statement (.csrr f) := of_shape _ rfl
theorem csrw (f : SF) : Statement (.csrw f) := of_shape _ rfl
theorem csrx (f : SF) : Statement (.csrx f) := of_shape _ rfl
theorem tlbinv (f : SF) : Statement (.tlbinv f) := of_shape _ rfl
theorem ctxsv (f : SF) : Statement (.ctxsv f) := of_shape _ rfl
theorem ctxld (f : SF) : Statement (.ctxld f) := of_shape _ rfl
theorem idle (f : SF) : Statement (.idle f) := of_shape _ rfl
theorem evpost (f : SF) : Statement (.evpost f) := of_shape _ rfl
theorem allocqGrant (f : SF) : Statement (.allocqGrant f) := of_shape _ rfl
theorem allocqFree (f : SF) : Statement (.allocqFree f) := of_shape _ rfl
theorem spawnAnswer (id : Nat) : Statement (.spawnAnswer id) := of_shape _ rfl
theorem loadDataArrival (id : Nat) : Statement (.loadDataArrival id) := of_shape _ rfl
theorem bankWakeDone (b : BankRef) : Statement (.bankWakeDone b) := of_shape _ rfl
theorem bankRetain (b : BankRef) : Statement (.bankRetain b) := of_shape _ rfl
theorem bankOff (b : BankRef) : Statement (.bankOff b) := of_shape _ rfl
theorem waitaWake (r : StrandRef) : Statement (.waitaWake r) := of_shape _ rfl
theorem watchReread (r : StrandRef) : Statement (.watchReread r) := of_shape _ rfl
theorem waitqWake (r : StrandRef) : Statement (.waitqWake r) := of_shape _ rfl
theorem waitDeadline (r : StrandRef) : Statement (.waitDeadline r) := of_shape _ rfl
theorem barrierRelease (part b : Nat) : Statement (.barrierRelease part b) := of_shape _ rfl
theorem collResult (part id : Nat) : Statement (.collResult part id) := of_shape _ rfl
theorem watchdog (r : StrandRef) : Statement (.watchdog r) := of_shape _ rfl
theorem engineCommandStart (reel : Nat) (e : Eng) : Statement (.engineCommandStart reel e) := of_shape _ rfl
theorem engineUnitDone (id n : Nat) : Statement (.engineUnitDone id n) := of_shape _ rfl
theorem configUnitPerform (part : Nat) : Statement (.configUnitPerform part) := of_shape _ rfl
theorem lineFlitDelivery (line : Nat) : Statement (.lineFlitDelivery line) := of_shape _ rfl
theorem kiteTokenPass (kite : Nat) : Statement (.kiteTokenPass kite) := of_shape _ rfl
theorem homeRequest (id : Nat) : Statement (.homeRequest id) := of_shape _ rfl
theorem l1Writeback (reel sector : Nat) : Statement (.l1Writeback reel sector) := of_shape _ rfl
theorem farCacheDrop (field line : Nat) : Statement (.farCacheDrop field line) := of_shape _ rfl
theorem invalidationAck (line field : Nat) : Statement (.invalidationAck line field) := of_shape _ rfl
theorem directoryEvict (line : Nat) : Statement (.directoryEvict line) := of_shape _ rfl
theorem pageWalk (id : Nat) : Statement (.pageWalk id) := of_shape _ rfl
theorem tlbinvAck (id field : Nat) : Statement (.tlbinvAck id field) := of_shape _ rfl
theorem requestResend (id : Nat) : Statement (.requestResend id) := of_shape _ rfl
theorem replyAck (id : Nat) : Statement (.replyAck id) := of_shape _ rfl
theorem kvConversionStart (stack page : Nat) : Statement (.kvConversionStart stack page) := of_shape _ rfl
theorem kvClosing (stack : Nat) : Statement (.kvClosing stack) := of_shape _ rfl
theorem kvConverting (stack : Nat) : Statement (.kvConverting stack) := of_shape _ rfl
theorem kvFlip (stack : Nat) : Statement (.kvFlip stack) := of_shape _ rfl
theorem packetFetch (q : PacketRead) : Statement (.packetFetch q) := of_shape _ rfl
theorem seqRecheck (q : PacketRead) : Statement (.seqRecheck q) := of_shape _ rfl
theorem launchPacket (q : Nat) : Statement (.launchPacket q) := of_shape _ rfl
theorem barrierAndPacket (q : Nat) : Statement (.barrierAndPacket q) := of_shape _ rfl
theorem signalPacket (q : Nat) : Statement (.signalPacket q) := of_shape _ rfl
theorem nopPacket (q : Nat) : Statement (.nopPacket q) := of_shape _ rfl
theorem depWatchWake (q entry : Nat) : Statement (.depWatchWake q entry) := of_shape _ rfl
theorem taskComplete (task : Nat) : Statement (.taskComplete task) := of_shape _ rfl
theorem faultRecordAppend (ctx : Nat) : Statement (.faultRecordAppend ctx) := of_shape _ rfl
theorem scanOutDone (u : UnitRef) : Statement (.scanOutDone u) := of_shape _ rfl
theorem pmtCommandDone : Statement .pmtCommandDone := of_shape _ rfl
theorem hostSnoopResponse (line : Nat) : Statement (.hostSnoopResponse line) := of_shape _ rfl
theorem unassignedOpcode (w : Word) : Statement (.unassignedOpcode w) := by
  intro _ w h
  simp only [encode, Instr.shape, Option.some.injEq] at h
  exact .inr (by rw [h])
theorem fetchFault (r : StrandRef) : Statement (.fetchFault r) := of_shape _ rfl
theorem linkReplay (l : LinkRef) : Statement (.linkReplay l) := of_shape _ rfl
theorem linkDown (l : LinkRef) : Statement (.linkDown l) := of_shape _ rfl
theorem linkRetrained (l : LinkRef) : Statement (.linkRetrained l) := of_shape _ rfl
theorem doorbell (q : Nat) (v : Word) : Statement (.doorbell q v) := of_shape _ rfl
theorem contextCreate (port ctx : Nat) : Statement (.contextCreate port ctx) := of_shape _ rfl
theorem contextDestroy (port ctx : Nat) : Statement (.contextDestroy port ctx) := of_shape _ rfl
theorem grantPartition (port ctx : Nat) : Statement (.grantPartition port ctx) := of_shape _ rfl
theorem freePartition (port : Nat) : Statement (.freePartition port) := of_shape _ rfl
theorem queueCreate (port q : Nat) : Statement (.queueCreate port q) := of_shape _ rfl
theorem queueDestroy (port q : Nat) : Statement (.queueDestroy port q) := of_shape _ rfl
theorem destroyWithKill (port q : Nat) : Statement (.destroyWithKill port q) := of_shape _ rfl
theorem pauseQueue (port q : Nat) : Statement (.pauseQueue port q) := of_shape _ rfl
theorem resumeQueue (port q : Nat) : Statement (.resumeQueue port q) := of_shape _ rfl
theorem suspendCtx : Statement .suspendCtx := of_shape _ rfl
theorem evictCtx : Statement .evictCtx := of_shape _ rfl
theorem restoreCtx : Statement .restoreCtx := of_shape _ rfl
theorem withholdSuspect : Statement .withholdSuspect := of_shape _ rfl
theorem offerSuspect : Statement .offerSuspect := of_shape _ rfl
theorem resetStrand (target : Word) : Statement (.resetStrand target) := of_shape _ rfl
theorem resetEngine (target : Word) : Statement (.resetEngine target) := of_shape _ rfl
theorem resetReel (target : Word) : Statement (.resetReel target) := of_shape _ rfl
theorem resetKiteRelease (target : Word) : Statement (.resetKiteRelease target) := of_shape _ rfl
theorem resetField (target : Word) : Statement (.resetField target) := of_shape _ rfl
theorem resetPartition (target : Word) : Statement (.resetPartition target) := of_shape _ rfl
theorem pcieFunctionReset (port : Nat) : Statement (.pcieFunctionReset port) := of_shape _ rfl
theorem warmDeviceReset (r : StartReport) : Statement (.warmDeviceReset r) := of_shape _ rfl
theorem coldDeviceReset (r : StartReport) : Statement (.coldDeviceReset r) := of_shape _ rfl
theorem managementReset : Statement .managementReset := of_shape _ rfl
theorem fieldSelfTestDone (field : Nat) (pass : Bool) : Statement (.fieldSelfTestDone field pass) := of_shape _ rfl
theorem errorDetection (d : Detection) : Statement (.errorDetection d) := of_shape _ rfl
theorem hardFault (loc : Word) : Statement (.hardFault loc) := of_shape _ rfl
theorem hostMemWrite (port pa : Nat) (bytes : HostBytes) (relaxed : Bool) : Statement (.hostMemWrite port pa bytes relaxed) := of_shape _ rfl
theorem hostMemRead (port pa n : Nat) : Statement (.hostMemRead port pa n) := of_shape _ rfl
theorem hostSnoop (pa : Nat) (bytes : HostBytes) : Statement (.hostSnoop pa bytes) := of_shape _ rfl
theorem peerTransferArrival (t : PeerTransfer) : Statement (.peerTransferArrival t) := of_shape _ rfl
theorem peerAcknowledge (port tag : Nat) (refused : Bool) : Statement (.peerAcknowledge port tag refused) := of_shape _ rfl
theorem reductionAnswer (id : ReductionOf) (performed : Bool) : Statement (.reductionAnswer id performed) := of_shape _ rfl
theorem peerTimeout (id : Nat) : Statement (.peerTimeout id) := of_shape _ rfl
theorem currentFloor (field demand : Nat) : Statement (.currentFloor field demand) := of_shape _ rfl
theorem controlInterval (m : Measurement) : Statement (.controlInterval m) := of_shape _ rfl
theorem energyWindow (mJ : Nat) : Statement (.energyWindow mJ) := of_shape _ rfl
theorem hotClear (field : Nat) : Statement (.hotClear field) := of_shape _ rfl
theorem stretchWarning (rd : Nat) : Statement (.stretchWarning rd) := of_shape _ rfl
theorem stretchRelax (rd : Nat) : Statement (.stretchRelax rd) := of_shape _ rfl
theorem dividerHoldEnd (rd : Nat) : Statement (.dividerHoldEnd rd) := of_shape _ rfl
theorem fieldGate (field : Nat) : Statement (.fieldGate field) := of_shape _ rfl
theorem fieldUngate (field : Nat) : Statement (.fieldUngate field) := of_shape _ rfl
theorem leaseExpiry (ctx : Nat) : Statement (.leaseExpiry ctx) := of_shape _ rfl
theorem telemetrySnapshot : Statement .telemetrySnapshot := of_shape _ rfl
theorem getRecord (tag schema : Byte) (inst : BitVec 16) : Statement (.getRecord tag schema inst) := of_shape _ rfl
theorem readReg (tag index : Byte) : Statement (.readReg tag index) := of_shape _ rfl
theorem writeReg (tag index : Byte) (v : Word) : Statement (.writeReg tag index v) := of_shape _ rfl
theorem rasRead (tag : Byte) (serial : BitVec 32) : Statement (.rasRead tag serial) := of_shape _ rfl
theorem requestUpdate (c : Component) : Statement (.requestUpdate c) := of_shape _ rfl
theorem firmwareTransfer (c : Component) (img : Image) : Statement (.firmwareTransfer c img) := of_shape _ rfl
theorem verifyComplete (c : Component) : Statement (.verifyComplete c) := of_shape _ rfl
theorem activateFirmware (c : Component) : Statement (.activateFirmware c) := of_shape _ rfl
theorem quiescentPoint : Statement .quiescentPoint := of_shape _ rfl
theorem healthCheckPass : Statement .healthCheckPass := of_shape _ rfl
theorem healthCheckFail : Statement .healthCheckFail := of_shape _ rfl
theorem svnRaise (v : BitVec 32) : Statement (.svnRaise v) := of_shape _ rfl
theorem mapProvision (factory delta : Option MapImage) : Statement (.mapProvision factory delta) := of_shape _ rfl
theorem registerWrite (port off : Nat) (v : Word) : Statement (.registerWrite port off v) := of_shape _ rfl
theorem fieldSelfTestStart (field : Nat) : Statement (.fieldSelfTestStart field) := of_shape _ rfl
theorem spdmSession (est : Bool) : Statement (.spdmSession est) := of_shape _ rfl
theorem pcieConfigWrite (port : Nat) (msixOn : Bool) : Statement (.pcieConfigWrite port msixOn) := of_shape _ rfl
theorem unassignedCommand (tag command : Byte) : Statement (.unassignedCommand tag command) := of_shape _ rfl

end Laws.OpcodeByte

end Sys2Proof
end

