-- ==== Sys2Proof/Laws/Scalar.lean ====
section
/-! SUPPORT. The shared forms of the scalar instructions, where they issue. -/

namespace Sys2Proof.Machine

theorem scalar1_of_issues {i : Instr} {s : State} (h : issues i s = true) (f : RF) (v : Word → Word) :
    scalar1 i f s v = scalarDone i s f.dst [s.gcode f.grd, (s.rs f.sa).code] (v (s.rs f.sa).val) := by
  rw [scalar1, issue_of_issues h]; rfl

theorem scalar2_of_issues {i : Instr} {s : State} (h : issues i s = true) (f : RF) (v : Word → Word → Word) :
    scalar2 i f s v = scalarDone i s f.dst [s.gcode f.grd, (s.rs f.sa).code, (s.rs f.sb).code]
      (v (s.rs f.sa).val (s.rs f.sb).val) := by
  rw [scalar2, issue_of_issues h]; rfl

theorem scalar3_of_issues {i : Instr} {s : State} (h : issues i s = true) (f : RF) (v : Word → Word → Word → Word) :
    scalar3 i f s v = scalarDone i s f.dst [s.gcode f.grd, (s.rs f.sa).code, (s.rs f.sb).code, (s.rs f.sc).code]
      (v (s.rs f.sa).val (s.rs f.sb).val (s.rs f.sc).val) := by
  rw [scalar3, issue_of_issues h]; rfl

theorem scalarImm_of_issues {i : Instr} {s : State} (h : issues i s = true) (f : IF) (v : Word → Word) :
    scalarImm i f s v = scalarDone i s f.dst [s.gcode f.grd, (s.rs f.sa).code] (v (s.rs f.sa).val) := by
  rw [scalarImm, issue_of_issues h]; rfl

end Sys2Proof.Machine
end

