-- ==== Sys2Proof/Tests/Slice0.lean ====
section
/-! SUPPORT. Tests of the model, and a state and operands that meet the hypotheses of each statement. Words and expected
values come from the manual: its worked examples and listings, or its encoding tables read by hand. -/

namespace Sys2Proof.Machine.Tests

open Sys2Proof Sys2Proof.Machine

set_option Elab.async false

/-! ## Operands and states -/

def g0 : Guard := { inv := false, p := 0 }
/-- Guarded by p1 and by not p1. -/
def g1 : Guard := { inv := false, p := 1 }
def n1 : Guard := { inv := true, p := 1 }

def tr (d a b c : BitVec 6) (sub : BitVec 8) (ty : Ty) : RF :=
  { grd := g0, luA := false, luB := false, luC := false, dst := d, sa := a, sb := b, sc := c, sub := sub, ty := ty
    rnd := .rne, sat := false, ru := false }
def ti (d a : BitVec 6) (sub : BitVec 5) (imm : BitVec 32) : IF := { grd := g0, dst := d, sa := a, sub := sub, imm := imm }
def tm (d base idx : BitVec 6) (off : BitVec 16) (ty : Ty) : MF :=
  { grd := g0, luA := false, luB := false, dst := d, base := base, idx := idx, scl := 0, off := off, ty := ty, scope := 0
    ord := 0, cache := 0 }
def ta (d a b c a2 : BitVec 6) (ty : Ty) (scope : BitVec 3) (ord : BitVec 2) : AF :=
  { grd := g0, dst := d, addr := a, sb := b, sc := c, addr2 := a2, ty := ty, scope := scope, ord := ord }
def te (tok a b c d : BitVec 6) (cmd : BitVec 11) (ty : Ty) : EF :=
  { grd := g0, tok := tok, sa := a, sb := b, sc := c, sd := d, cmd := cmd, ty := ty }
def ts (d a : BitVec 6) (csr : BitVec 12) (sub : BitVec 5) : SF := { grd := g0, dst := d, sa := a, csr := csr, sub := sub }
def tb (off : BitVec 32) : BF := { grd := g0, off := off, sub := 0 }

/-- A partition of one field, as a grant to context 0 would leave it. -/
def onePart : Partition :=
  { handle := 9, ctx := 0, fx := 0, fy := 0, w := 1, h := 1, suspended := false, evicted := false, claimant := none, claimed := []
    saveArea := 0, saved := [], barriers := [], colls := [], cfgQ := [] }

/-- The device in full service: phases 1 to 7 and the full self-test lie behind it, and every host port is up. -/
def inService (s : State) : State :=
  { s with fw := { s.fw with devMode := .full, mx4Off := false, clkMHz := 1500 }
           hostPorts := (upto 4).map fun p => (p, { HostPort.reset with up := true }) }

/-- A device-mode strand in slot 0 of reel 0, with the registers given, every vector register live and zero, and the first
page of its context mapped to the first page of DRAM. -/
def base (regs : SMap SReg) : State :=
  { (inService (State.reset.placeWord 0)).modMe fun t => { t with s := regs, live := BitVec.allOnes 64, part := 9 } with
      agenda := [], parts := [onePart] }

/-- One scalar register. -/
def reg (n : Nat) (v : Word) : Nat × SReg := (n, SReg.clean v)
/-- A poisoned one. -/
def bad (n : Nat) : Nat × SReg := (n, SReg.poison 0x5A)

/-- s4 = 64, s5 = 7, s6 = 0x1000, s7 = 2, s8 = 3. -/
def w0 : State := base [reg 4 64, reg 5 7, reg 6 0x1000, reg 7 2, reg 8 3]

/-! ## Decoding: words of the manual's examples and listings, at least one of each family (R86 to R111) -/

theorem test_decode_add : decode 0x0100_30C2_0000_0000 = .ok (.add (tr 6 6 4 0 0 .none)) := rfl
theorem test_decode_movi : decode 0x2500_2000_0000_0000 = .ok (.movi (ti 4 0 0 0)) := rfl
theorem test_decode_loop : decode 0x2D00_69C0_FFFF_FFF4 = .ok (.loop (ti 13 14 0 0xFFFF_FFF4)) := rfl
theorem test_decode_exit : decode 0x2F00_0000_0000_0000 = .ok (.exit (tr 0 0 0 0 0 .none)) := rfl
theorem test_decode_spawn : decode 0x3300_5166_1A00_0000 = .ok (.spawn (tr 10 11 12 13 0 .none)) := rfl
theorem test_decode_brev : decode 0x1500_BA20_0000_0000 = .ok (.brev (tr 23 17 0 0 0 .none)) := rfl
theorem test_decode_ld : decode 0x4000_5120_0040_0600 = .ok (.ld (tm 10 9 0 512 .n16)) := rfl
theorem test_decode_st_rel : decode 0x4100_3880_0001_0770 = .ok (.st { tm 7 4 0 8 .n32 with scope := 3, ord := 2 }) := rfl
theorem test_decode_stl : decode 0x4300_6246_E000_0000 = .ok (.stl { tm 12 18 13 0 .none with scl := 3 }) := rfl
theorem test_decode_cline : decode 0x4700_1100_0000_0000 = .ok (.cline (tm 2 8 0 0 .none)) := rfl
theorem test_decode_fence : decode 0x4800_0000_0000_0078 = .ok (.fence { tm 0 0 0 0 .none with scope := 3, ord := 3 }) := rfl
theorem test_decode_spkill : decode 0x4900_2880_0100_0000 = .ok (.spkill (tm 5 4 0 0x800 .none)) := rfl
theorem test_decode_aadd : decode 0x5000_03AE_0001_1800 = .ok (.aadd (ta 0 29 28 0 0 .i64 3 0)) := rfl
theorem test_decode_waita : decode 0x5C00_4043_8C00_2200 = .ok (.waita (ta 8 2 7 6 0 .none 4 1)) := rfl
theorem test_decode_bara : decode 0x5D00_D80D_0000_1C00 = .ok (.bara (ta 27 0 26 0 0 .none 3 2)) := rfl
theorem test_decode_vfma : decode 0x630E_28A5_1600_B000 = .ok (.vfma { tr 5 5 10 11 0 .f32 with luA := true, luB := true, luC := true }) := rfl
theorem test_decode_vacs : decode 0x7A00_4041_886A_2100 = .ok (.vacs { tr 8 2 3 4 0x35 .i16 with sat := true }) := rfl
theorem test_decode_vcmp : decode 0x7B00_08C4_0000_B000 = .ok (.vcmp (tr 1 6 8 0 0 .f32)) := rfl
theorem test_decode_vsel : decode 0x7C00_3923_0002_B000 = .ok (.vsel (tr 7 9 6 0 1 .f32)) := rfl
theorem test_decode_vperm : decode 0x8208_C103_8000_2000 = .ok (.vperm { tr 24 8 7 0 0 .i16 with luA := true }) := rfl
theorem test_decode_vred : decode 0x8400_3880_0004_B000 = .ok (.vred (tr 7 4 0 0 2 .f32)) := rfl
theorem test_decode_vcvt : decode 0x8808_8060_0018_B000 = .ok (.vcvt { tr 16 3 0 0 0x0C .f32 with luA := true }) := rfl
theorem test_decode_vgath : decode 0x9304_A084_C002_0B64 = .ok (.vgath { tm 20 4 9 16 .f32 with luB := true, scl := 2, scope := 3, cache := 2 }) := rfl
theorem test_decode_sfeed : decode 0xA000_C068_222C_0238 = .ok (.sfeed (te 24 3 16 17 5 0x402 .n32)) := rfl
theorem test_decode_sdrain : decode 0xA100_B240_2800_0900 = .ok (.sdrain (te 22 18 0 20 0 9 .none)) := rfl
theorem test_decode_copy : decode 0xA400_C801_3000_0100 = .ok (.copy (te 25 0 2 24 0 1 .none)) := rfl
theorem test_decode_retry : decode 0xAC00_5180_0000_0000 = .ok (.retry (te 10 12 0 0 0 0 .none)) := rfl
theorem test_decode_atadd : decode 0xC200_0041_8042_3100 = .ok (.atadd { tr 0 2 3 0 0x21 .i32 with sat := true }) := rfl
theorem test_decode_csrr : decode 0xF200_4802_4400_0000 = .ok (.csrr (ts 9 0 0x122 0)) := rfl
theorem test_decode_csrw : decode 0xF300_0280_0200_0000 = .ok (.csrw (ts 0 20 1 0)) := rfl
theorem test_decode_tlbinv : decode 0xF500_7100_0000_0000 = .ok (.tlbinv (ts 14 8 0 0)) := rfl

/-! Words put together from the formats of R91, R94 and R95 where no listing has one. -/

theorem test_decode_br : decode (0x28 <<< 56 ||| 5 <<< 17) = .ok (.br (tb 5)) := rfl
theorem test_decode_kfuse : decode (0xB0 <<< 56 ||| 9 <<< 43 ||| 4 <<< 37 ||| 5 <<< 31 ||| 7 <<< 19 ||| 1 <<< 8 ||| 0x0C <<< 3) = .ok (.kfuse (te 9 4 5 0 7 1 .e4m3)) := rfl
theorem test_decode_vdrop : decode (0xC8 <<< 56 ||| 4 <<< 37 ||| 9 <<< 31) = .ok (.vdrop (tr 0 4 9 0 0 .none)) := rfl
theorem test_decode_boost : decode (0xCA <<< 56 ||| 3 <<< 43 ||| 4 <<< 37 ||| 1550) = .ok (.boostReq (ti 3 4 0 1550)) := rfl

/-- An event has no word; unassigned opcodes are instructions of their own (R108, R111). -/
theorem test_encode_event : encode (.kvFlip 0) = none := rfl
theorem test_decode_unassigned : decode 0x1F00_0000_0000_0000 = .ok (.unassignedOpcode 0x1F00_0000_0000_0000) := rfl
theorem test_decode_reserved : decode 0x0100_30C2_0000_0001 = .error .reserved := rfl
theorem test_decode_type : decode (0x01 <<< 56 ||| 0x10 <<< 12) = .error .badType := rfl
theorem test_decode_rounding : decode (0x60 <<< 56 ||| 0x0B <<< 12 ||| 6 <<< 9) = .error .badRounding := rfl
theorem test_decode_entry : decode (0x28 <<< 56 ||| 1 <<< 12) = .error .badEntry := rfl
theorem test_decodeTableWord : decodeTableWord 64 0x0100_30C2_0000_0000 = some (.add (tr 6 6 4 0 0 .none)) := rfl

/-! ## Well-formedness: one ill-formed term for each check -/

theorem test_wf_guard : Instr.wf (.nop { inv := true, p := 0 }) = false := by decide
theorem test_wf_guard_r : Instr.wf (.add { tr 1 2 3 0 0 .none with grd := { inv := true, p := 0 } }) = false := by decide
theorem test_wf_dst : Instr.wf (.cmp (tr 8 2 3 0 0 .none)) = false := by decide
theorem test_wf_sa : Instr.wf (.time (tr 1 2 0 0 0 .none)) = false := by decide
theorem test_wf_sb : Instr.wf (.clz (tr 1 2 3 0 0 .none)) = false := by decide
theorem test_wf_sc : Instr.wf (.sel (tr 1 2 3 8 0 .none)) = false := by decide
theorem test_wf_luA : Instr.wf (.add { tr 1 2 3 0 0 .none with luA := true }) = false := by decide
theorem test_wf_luB : Instr.wf (.add { tr 1 2 3 0 0 .none with luB := true }) = false := by decide
theorem test_wf_luC : Instr.wf (.vadd { tr 1 2 3 0 0 .f32 with luC := true }) = false := by decide
theorem test_wf_sub : Instr.wf (.add (tr 1 2 3 0 1 .none)) = false := by decide
theorem test_wf_type : Instr.wf (.add (tr 1 2 3 0 0 .f32)) = false := by decide
theorem test_wf_sat : Instr.wf (.and_ { tr 1 2 3 0 0 .none with sat := true }) = false := by decide
theorem test_wf_rnd : Instr.wf (.atld { tr 1 2 0 0 0 .none with rnd := .rz }) = false := by decide
theorem test_wf_ru : Instr.wf (.vdrop { tr 0 2 3 0 0 .none with ru := true }) = false := by decide
theorem test_wf_group : Instr.wf (.vcvt (tr 63 2 0 0 0x09 .f32)) = false := by decide
theorem test_wf_range : Instr.wf (.vdrop (tr 0 5 4 0 0 .none)) = false := by decide
theorem test_wf_i_dst : Instr.wf (.cmpi (ti 8 2 0 0)) = false := by decide
theorem test_wf_i_sa : Instr.wf (.movi (ti 1 2 0 0)) = false := by decide
theorem test_wf_i_sub : Instr.wf (.logi (ti 1 2 4 0)) = false := by decide
theorem test_wf_i_guard : Instr.wf (.addi { ti 1 2 0 0 with grd := { inv := true, p := 0 } }) = false := by decide
theorem test_wf_i_imm : Instr.wf (.boostReq (ti 1 2 0 1500)) = false := by decide
theorem test_wf_m_guard : Instr.wf (.ld { tm 1 2 3 0 .none with grd := { inv := true, p := 0 } }) = false := by decide
theorem test_wf_m_dst : Instr.wf (.fence { tm 1 0 0 0 .none with scope := 3, ord := 3 }) = false := by decide
theorem test_wf_m_base : Instr.wf (.fence { tm 0 1 0 0 .none with scope := 3, ord := 3 }) = false := by decide
theorem test_wf_m_idx : Instr.wf (.fence { tm 0 0 1 0 .none with scope := 3, ord := 3 }) = false := by decide
theorem test_wf_m_luA : Instr.wf (.ld { tm 1 2 3 0 .none with luA := true }) = false := by decide
theorem test_wf_m_luB : Instr.wf (.vld { tm 1 2 3 0 .f32 with luB := true }) = false := by decide
theorem test_wf_m_scope : Instr.wf (.ld { tm 1 2 3 0 .none with scope := 5 }) = false := by decide
theorem test_wf_m_order : Instr.wf (.ld { tm 1 2 3 0 .none with ord := 2 }) = false := by decide
theorem test_wf_m_cache : Instr.wf (.ld { tm 1 2 3 0 .none with cache := 3 }) = false := by decide
theorem test_wf_m_type : Instr.wf (.ld (tm 1 2 3 0 .f32)) = false := by decide
theorem test_wf_a_guard : Instr.wf (.aadd { ta 1 2 3 0 0 .i32 3 0 with grd := { inv := true, p := 0 } }) = false := by decide
theorem test_wf_a_sc : Instr.wf (.aadd (ta 1 2 3 4 0 .i32 3 0)) = false := by decide
theorem test_wf_a_addr2 : Instr.wf (.aadd (ta 1 2 3 0 4 .i32 3 0)) = false := by decide
theorem test_wf_a_scope : Instr.wf (.waita (ta 1 2 3 4 0 .n32 0 1)) = false := by decide
theorem test_wf_b_sub : Instr.wf (.br { tb 1 with sub := 1 }) = false := by decide
theorem test_wf_b_guard : Instr.wf (.br { tb 1 with grd := { inv := true, p := 0 } }) = false := by decide
theorem test_wf_e_guard : Instr.wf (.sbnd { te 1 2 0 0 0 0 .none with grd := { inv := true, p := 0 } }) = false := by decide
theorem test_wf_e_token : Instr.wf (.sbnd (te 0 2 0 0 0 0 .none)) = false := by decide
theorem test_wf_e_sb : Instr.wf (.sbnd (te 1 2 3 0 0 0 .none)) = false := by decide
theorem test_wf_e_sc : Instr.wf (.sbnd (te 1 2 0 3 0 0 .none)) = false := by decide
theorem test_wf_e_sd : Instr.wf (.sbnd (te 1 2 0 0 3 0 .none)) = false := by decide
theorem test_wf_e_sa : Instr.wf (.pmark (te 1 2 0 0 0 0 .none)) = false := by decide
theorem test_wf_e_cmd : Instr.wf (.sbnd (te 1 2 0 0 0 1 .none)) = false := by decide
theorem test_wf_e_type : Instr.wf (.sbnd (te 1 2 0 0 0 0 .f32)) = false := by decide
theorem test_wf_s_guard : Instr.wf (.trap { ts 0 1 0 0 with grd := { inv := true, p := 0 } }) = false := by decide
theorem test_wf_s_dst : Instr.wf (.trap (ts 1 1 0 0)) = false := by decide
theorem test_wf_s_sa : Instr.wf (.csrr (ts 1 1 0 0)) = false := by decide
theorem test_wf_s_csr : Instr.wf (.csrr (ts 1 0 0xFFF 0)) = false := by decide
theorem test_wf_s_sub : Instr.wf (.eret (ts 1 1 0 2)) = false := by decide
theorem test_wf_opcode : Instr.wf (.unassignedOpcode 0x0100_0000_0000_0000) = false := by decide

/-! ## Results: the manual's worked examples, each one step -/

def after (i : Instr) (s : State) : State :=
  match exec i s with
  | .next t => t
  | _ => s
/-- A scalar register after one instruction. -/
def out (i : Instr) (regs : SMap SReg) (n : Nat) : SReg := ((after i (base regs)).me).getS n

/-- The table under R196. -/
def exAdd : SMap SReg := [reg 2 0x17F, reg 3 1]
theorem test_add_i8 : out (.add (tr 1 2 3 0 0 .i8)) exAdd 1 = SReg.clean 0xFFFF_FFFF_FFFF_FF80 := by decide +kernel
theorem test_add_sat : out (.add { tr 1 2 3 0 0 .i8 with sat := true }) exAdd 1 = SReg.clean 0x7F := by decide +kernel
/-- The examples under R199. -/
def exDiv : SMap SReg := [reg 2 0xFFFF_FFF9, reg 3 2]
theorem test_div_i32 : out (.div (tr 1 2 3 0 0 .i32)) exDiv 1 = SReg.clean 0xFFFF_FFFF_FFFF_FFFD := by decide +kernel
theorem test_rem_i32 : out (.rem (tr 1 2 3 0 0 .i32)) exDiv 1 = SReg.clean 0xFFFF_FFFF_FFFF_FFFF := by decide +kernel
theorem test_div_overflow : out (.div { tr 1 2 3 0 0 .i32 with sat := true }) [reg 2 0x8000_0000, reg 3 0xFFFF_FFFF] 1 =
    SReg.clean 0x7FFF_FFFF := by decide +kernel
/-- The example under R200: pos 60, a length of 12 cut to 4. -/
theorem test_bfx : out (.bfx (tr 1 2 3 0 0 .n64)) [reg 2 0xA000_0000_0000_0001, reg 3 0xC3C] 1 = SReg.clean 0xA := by decide +kernel
/-- The examples under R201. -/
theorem test_ext_natural : out (.ext { tr 1 2 0 0 0 .n8 with sat := true }) [reg 2 0xFFFF_FFFF_FFFF_FF00] 1 = SReg.clean 0xFF := by decide +kernel
theorem test_ext_signed : out (.ext { tr 1 2 0 0 0 .i8 with sat := true }) [reg 2 0xFFFF_FFFF_FFFF_FF00] 1 =
    SReg.clean 0xFFFF_FFFF_FFFF_FF80 := by decide +kernel
/-- R43: s0 takes nothing. -/
theorem test_s0 : out (.add (tr 0 2 3 0 0 .none)) exAdd 0 = SReg.clean 0 := by decide +kernel
/-- R210 and the listing under it: LOOP with index 4 of bound 5 falls through, with index 3 goes back by 8. -/
theorem test_loop_last : ((after (.loop (ti 4 5 0 0xFFFF_FFFF)) (base [reg 4 4, reg 5 5])).me).pc = 8 := by decide +kernel
theorem test_loop_back : ((after (.loop (ti 4 5 0 0xFFFF_FFFF)) (base [reg 4 3, reg 5 5])).me).pc = 0xFFFF_FFFF_FFFF_FFF8 := by
  decide +kernel

/-- Lanes of one vector register. -/
def vec (w : Nat) (l : List Nat) : VReg := { val := BitVec.ofNat 2048 (natOfLanes w l), psn := 0 }
/-- The strand with vector registers and masks given. -/
def vbase (vs : SMap VReg) (ms : SMap SReg) : State := (base []).modMe fun t => { t with v := vs, m := ms }
def lane (s : State) (n w j : Nat) : Nat := laneOf ((s.me).getV n).val w j

/-- The example under R271: v8 and m5 after VACS.i16.maxlo.sat. -/
def exAcs : State := vbase [(2, vec 16 [10, 3, 32760, 5]), (3, vec 16 [7, 9, 0, 7]), (4, vec 16 [2, 1, 100, 1]), (8, vec 16 [1, 2, 3, 4])]
  [(1, SReg.clean 0xFFFF_FFFF_FFFF_FFFE), (5, SReg.clean 0xFFFF_FFFF_FFFF_FFFF)]
def afterAcs : State := after (.vacs { tr 8 2 3 4 0x35 .i16 with sat := true }) exAcs
theorem test_vacs_lanes : [lane afterAcs 8 16 0, lane afterAcs 8 16 1, lane afterAcs 8 16 2, lane afterAcs 8 16 3, lane afterAcs 8 16 4] =
    [1, 2, 0x7FFF, 6, 0] := by decide +kernel
theorem test_vacs_bits : (afterAcs.me).getM 5 = SReg.clean 3 := by decide +kernel

/-- The example under R269: VROUND of −2.5 and −0.3 to nearest, and of −2.5 away from zero. -/
theorem test_vround : let s := after (.vround (tr 1 2 0 0 0 .f32)) (vbase [(2, vec 32 [0xC020_0000, 0xBE99_999A])] [])
    lane s 1 32 0 = 0xC000_0000 ∧ lane s 1 32 1 = 0x8000_0000 := by decide +kernel
theorem test_vround_away : lane (after (.vround { tr 1 2 0 0 0 .f32 with rnd := .rna }) (vbase [(2, vec 32 [0xC020_0000])] [])) 1 32 0 =
    0xC040_0000 := by decide +kernel

/-- The example under R279: VCOMP under 0xA5 of lanes 100 + i; MPOPC and MFIRST of the mask. -/
def exComp : State := vbase [(2, vec 32 ((upto 64).map fun i => 100 + i)), (3, vec 32 [1, 1, 1, 1, 1])] [(1, SReg.clean 0xA5)]
theorem test_vcomp : let s := after (.vcomp (tr 3 2 0 0 0x20 .n32)) exComp
    [lane s 3 32 0, lane s 3 32 1, lane s 3 32 2, lane s 3 32 3, lane s 3 32 4] = [100, 102, 105, 107, 0] := by decide +kernel
theorem test_mpopc : ((after (.mpopc (tr 6 1 0 0 0 .none)) exComp).me).getS 6 = SReg.clean 4 := by decide +kernel
theorem test_mfirst_hi : ((after (.mfirst (tr 6 1 0 0 1 .none)) exComp).me).getS 6 = SReg.clean 7 := by decide +kernel

/-- The example under R282's group: lane 64 of v3 goes to lane 0 of v17, and v3 is dead afterwards (0x38 is 1.0 in e4m3). -/
def afterCvt : State := after (.vcvt { tr 16 3 0 0 0x0C .f32 with luA := true }) (vbase [(3, { val := 0x38#2048 <<< 512, psn := 0 })] [])
theorem test_vcvt_group : lane afterCvt 17 32 0 = 0x3F80_0000 ∧ (afterCvt.me).isLive 3 = false := by decide +kernel

/-- The example under R326: keys 5, 5, 0x307 and 0x80000000 with their values, added to an empty tile under .sat. -/
def afterKey : State := after (.atadd { tr 0 2 3 0 0x21 .i32 with sat := true })
  (vbase [(2, vec 32 [5, 5, 0x307, 0x8000_0000]), (3, vec 32 [2147483000, 1000, 10, 99])] [(1, SReg.clean 0xF)])
theorem test_atadd_key : laneOf ((afterKey.reel 0).row 5).val 32 0 = 2147483647 ∧ laneOf ((afterKey.reel 0).row 7).val 32 3 = 10 := by
  decide +kernel
theorem test_atadd_busy : (afterKey.reel 0).tileBusy = (afterKey.reel 0).cycle + 3 := by decide +kernel

/-- R395 and R266: a poisoned source poisons the result with its code. -/
theorem test_poison : out (.add (tr 1 2 3 0 0 .none)) [reg 2 1, bad 3] 1 = SReg.poison 0x5A := by decide +kernel
/-- R50: DEADREG names the lowest-numbered dead source. -/
theorem test_deadreg : ((after (.vadd (tr 1 2 3 0 0 .f32)) ((base []).modMe fun t => { t with live := 4 })).me).phase = .faulted := by
  decide +kernel

/-- A step fetches the word that is placed, decodes it and runs it. -/
def afterStep : State :=
  match step (State.reset.withFetchWord 64 0x2500_2800_0000_0005) with
  | .next t => t
  | _ => State.reset
theorem test_step : (afterStep.me).getS 5 = SReg.clean 5 ∧ (afterStep.me).pc = 8 := by decide +kernel

/-! ## Witnesses: for each statement with hypotheses, states and operands that meet them, clause by clause -/

def all (l : List Instr) (s : State) : Bool := l.all fun i => issues i s
def lf : Word := 0x0C00_0000_0000_001F

theorem wit_canonical : Memory.wf w0.mem = true := by decide +kernel
theorem wit_wellFormed : isWord (.add (tr 1 2 3 0 0 .none)) = true ∧ Instr.wf (.add (tr 1 2 3 0 0 .none)) = true := by decide
theorem wit_decodes : (decode 0).toOption = some (.nop g0) := rfl

/-- StepRunsDecoded: the turn of the agenda, the look of the strand, and a word at hand in the instruction L1. -/
def sTurn : State := { (State.reset.placeWord 0x2500_2800_0000_0005) with agenda := [] }
def sLook : State := State.startCycle (State.advance sTurn 0) 0
theorem wit_turn : (State.reset.placeWord 0x2500_2800_0000_0005).agenda = [.cycle 0 0] ∧ (State.advance sTurn 0).power.railOff = false ∧
    ((State.advance sTurn 0).field 0).gated = false ∧
    (State.lookAll 0 ((sLook.reel 0).order) sLook).1 = [(0, .instr (.movi (ti 5 0 0 5)))] := by decide +kernel
def sHit : State := { sTurn.modReel 0 fun x => { x with icache := [(0, 0x2500_2800_0000_0005)] } with cur := { reel := 0, slot := 0 } }
theorem wit_look : ((sHit.me).phase = .live ∧ (sHit.me).wait = .none ∧ (sHit.me).stopped (sHit.reel 0).cycle = false) ∧
    sHit.fetch sHit.cur = .word 0x2500_2800_0000_0005 ∧ (sHit.me).regsHold (sHit.reel 0).cycle (.movi (ti 5 0 0 5)) = false ∧
    (after (.movi (ti 5 0 0 5)) sHit).held = false ∧ sHit.bankHold (.movi (ti 5 0 0 5)) = none := by decide +kernel
theorem wit_fetch : (sHit.me).fetchFail = none ∧ sHit.translate 0 0 0 .fetch .device = .ok 0 lf ∧
    (sHit.reel 0).icache.any (·.1 == 0 / 8) = true := by decide +kernel

def user : State := w0.modMe fun t => { t with mode := .user }
theorem wit_illegal : isWord (.add (tr 1 2 3 0 1 .none)) = true ∧ Instr.wf (.add (tr 1 2 3 0 1 .none)) = false := by decide
theorem wit_priv : Instr.wf (.eret (ts 1 2 0 0)) = true ∧ (user.me).mode.rank < rankOf (.eret (ts 1 2 0 0)) := by decide +kernel
theorem wit_ownFault : all [.bkpt (ti 0 0 0 0xFFFF), .trap (ts 0 4 0 31)] w0 = true := by decide +kernel
/-- A false guard (p1 is false) and an inverted guard that holds. -/
theorem wit_guardFalse : (w0.me).guardHolds g1 = false ∧ (w0.me).guardHolds n1 = true ∧ w0.gcode g1 = none ∧
    Instr.wf (.add { tr 1 2 3 0 0 .none with grd := g1 }) = true := by decide +kernel
def dead : State := w0.modMe fun t => { t with live := 1 <<< 63 }
theorem wit_dead : Instr.wf (.vadd (tr 1 63 3 0 0 .f32)) = true ∧ (dead.me).firstDead (usesOf (.vadd (tr 1 63 3 0 0 .f32))).reads = some 3 ∧
    (dead.me).guardHolds g0 = true := by decide +kernel
theorem wit_kills : 63 ∈ (usesOf (.vadd { tr 1 63 3 0 0 .f32 with luA := true })).kills := by decide

theorem wit_integer : Ty.isInt .i8 = true ∧ tmin (Ty.bits .i8) true ≤ -128 ∧ (-129 : Int) < tmin (Ty.bits .i8) true ∧
    tmax (Ty.bits .i8) true < 128 := by decide
/-- The scalar instructions: sources clean; the same with a poisoned one; a shift by 64 and a divisor of 0. -/
theorem wit_scalar : let f := tr 1 4 5 0 0 .none
    all [.add f, .sub f, .mul f, .mulh f, .div f, .rem f, .absd f, .min f, .max f, .and_ f, .or_ f, .xor_ f, .andn f, .shl f, .shr f,
      .sar f, .rol f, .bfx f, .lea { f with sub := 3 }, .div (tr 1 4 0 0 0 .i8), .shl (tr 1 5 4 0 0 .n32)] w0 = true := by decide +kernel
theorem wit_scalarOneThree : let f := tr 1 4 0 0 0 .none
    all [.madd (tr 1 4 5 6 0 .i16), .bfi (tr 1 4 5 6 0 .none), .clz f, .popc f, .brev f, .ext f, .mov f, .sel (tr 1 4 5 1 0 .none)] w0 = true := by
  decide +kernel
theorem wit_predicate : all [.cmp (tr 1 4 5 0 7 .none), .plog (tr 1 2 3 0 15 .none), .pmov (tr 1 0 0 0 0 .none), .pmov (tr 0 4 0 0 1 .none),
      .pmov (tr 1 4 0 0 2 .none), .pmov (tr 4 1 0 0 3 .none), .cmpi (ti 1 4 13 64)] w0 = true ∧ w0.gcode g0 = none ∧
    (w0.rs 4).psn = false := by decide +kernel
theorem wit_immediate : all [.nop g0, .addi (ti 1 4 0 0xFFFF_FFFF), .muli (ti 1 4 0 3), .logi (ti 1 4 3 7), .shi (ti 1 4 3 63),
    .movhi (ti 1 4 0 7), .movi (ti 1 0 0 7)] w0 = true := by decide +kernel
/-- ScalarFrame, and with it every frame: a next state is answered by every instruction (`exec_next`). -/
theorem wit_scalarFrame (f : RF) (s : State) : ∃ t, exec (.add f) s = .next t := ⟨_, rfl⟩

theorem wit_transfers : all [.br (tb 5), .call (tb 0xFFFF_FFFF), .brr (tr 0 4 0 0 0 .none), .callr (tr 0 4 0 0 0 .none),
      .ret (tr 0 0 0 0 0 .none), .loop (ti 4 5 0 2), .dbnz (ti 4 0 0 2)] w0 = true ∧
    (w0.rs 4).psn = false ∧ (w0.rs 4).val &&& 7 = 0 ∧ (w0.rs 63).val &&& 7 = 0 := by decide +kernel
def poisoned : State := (base [reg 4 64, reg 5 7, reg 6 0x1000, bad 7]).modMe fun t => { t with p := [(1, { val := true, code := some 0x5A })] }
theorem wit_transferTraps : poisoned.gcode g1 = some 0x5A ∧ guardConsumed (.br { tb 5 with grd := g1 }) = true ∧
    all [.brr (tr 0 7 0 0 0 .none), .brr (tr 0 5 0 0 0 .none), .loop (ti 7 5 0 2), .loop (ti 5 7 0 2), .dbnz (ti 7 0 0 2)] poisoned = true ∧
    (poisoned.rs 7).code = some 0x5A ∧ (poisoned.rs 5).val &&& 7 ≠ 0 := by decide +kernel
theorem wit_retTraps : issues (.ret (tr 0 0 0 0 0 .none)) (base [bad 63]) = true ∧ ((base [bad 63]).rs 63).code = some 0x5A ∧
    ((base [reg 63 4]).rs 63).val &&& 7 ≠ 0 := by decide +kernel

theorem wit_strand : all [.exit (tr 0 0 0 0 0 .none), .yield (tr 0 0 0 0 0 .none), .waitt (tr 0 4 0 0 0 .none), .prio (ti 0 0 0 31),
      .prio (ti 0 4 1 0), .time (tr 1 0 0 0 0 .none), .strid (tr 1 0 0 0 0 .none), .strid (tr 1 0 0 0 1 .none), .strid (tr 1 0 0 0 2 .none)] w0 =
      true ∧ (w0.me).owed = 0 ∧ (w0.me).spawns = 0 ∧ w0.partOfReel? 0 = some onePart := by decide +kernel
theorem wit_exitOwed : ((w0.modMe fun t => { t with owed := 1 }).me).owed ≠ 0 := by decide +kernel
/-- WAITQ: the counter 0 differs from 7; equals s0 with a timeout of 7; timeout 0. IDLE: EVSUM 0 against 64 and 0. -/
theorem wit_eventWaits : all [.waitq (tr 1 4 5 6 0 .none), .waitq (tr 1 4 0 5 0 .none), .waitq (tr 1 4 0 0 0 .none), .idle (ts 1 4 0 0),
      .idle (ts 1 0 0 0)] w0 = true ∧ w0.ev 0 0 = 0 ∧ w0.evSum 0 = 0 := by decide +kernel
/-- SPAWN to block (0, 0) and (10, 10); a poisoned descriptor; an unaligned entry; block x = 11, the first outside. -/
theorem wit_spawn : let s := base [reg 4 0x000A_000A, reg 5 7, reg 6 0x1000, bad 7, reg 8 11]
    all [.spawn (tr 1 4 6 5 0 .none), .spawn (tr 1 7 6 5 0 .none), .spawn (tr 1 4 7 5 0 .none), .spawn (tr 1 4 5 5 0 .none),
      .spawn (tr 1 8 6 5 0 .none)] s = true ∧ s.myPart? = some onePart ∧ bitsOf (s.rs 4).val 0 16 < 11 ∧ bitsOf (s.rs 4).val 16 16 < 11 ∧
      (s.rs 7).code = some 0x5A ∧ 11 * onePart.w ≤ bitsOf (s.rs 8).val 0 16 := by decide +kernel

/-- LD, LDACQ, ST and STREL of 8 bytes at 0x1000, on the mapped page. -/
def ld8 : MF := tm 1 6 0 0 .n64
theorem wit_reaches : (w0.rs ld8.base).psn = false ∧ (w0.rs ld8.idx).psn = false ∧ (w0.me).acqs = [] ∧
    w0.xlParts .read .device (pageParts (eaOf w0 ld8) 8) = .ok [(0x1000, 8, lf)] ∧
    w0.xlParts .write .device (pageParts (eaOf w0 ld8) 8) = .ok [(0x1000, 8, lf)] ∧ pteKv lf = false := by decide +kernel
theorem wit_loads : all [.ld ld8, .ld { ld8 with ord := 1, scope := 3 }, .ldacq { ld8 with scope := 3 }, .st ld8, .st { ld8 with ord := 2, scope := 4 },
    .strel { ld8 with scope := 3 }] w0 = true ∧ (w0.rs 1).psn = false ∧ (eaOf w0 ld8).toNat % 8 = 0 := by decide +kernel
/-- An access that runs over the end of its 64 KiB page lies in two parts. -/
theorem wit_twoPages : (pageParts 0xFFFC 8) = [(0xFFFC, 4), (0x10000, 4)] := by decide

/-- The page of the strand is a KV page; one request to judge, not answered, allowed, or refused. -/
def kvLeaf : Word := lf ||| 0x20
def kv (h : Option KvHold) (l : List Req) : State :=
  { (w0.modReel 0 fun x => { x with tlb := [{ probeLeaf with entry := kvLeaf }] }).modMe fun t => { t with kvHold := h } with reqs := l }
def u8 : Unit' := { pa := 0x1000, w := 8, pos := 0 }
def rq : Req :=
  { id := 5, reel := 0, slot := 0, handle := 1, ctx := 0, task := none, pc := 0, op := .write true, ty := .none, units := [u8], left := [u8]
    data := 0x1122_3344_5566_7788, dpsn := 0, data2 := 0, scope := 3, acq := false, rel := false, sync := false, dst := .none
    after := [], stage := .sent, reply := 0, rpsn := 0, fixed := false, refused := false, dup := 0, lines := [] }
def kvq (st : Stage) (refused : Bool) : Req := { rq with units := [{ u8 with kv := true }], refused := refused, stage := st }
def hold1 : KvHold := { pc := 0, word := wordOf (.st ld8), ids := [5], rest := [], vas := [(0, 0x1000)] }
theorem wit_kv : (kv none []).xlParts .write .device (pageParts (eaOf w0 ld8) 8) = .ok [(0x1000, 8, kvLeaf)] ∧ pteKv kvLeaf = true ∧
    issues (.st ld8) (kv none []) = true ∧ ((kv none []).me).kvHold = none := by decide +kernel
/-- The request not yet judged, accepted, and refused. -/
theorem wit_kvHeld : let s (st : Stage) (b : Bool) := kv (some hold1) [kvq st b]
    ((s .sent false).me).kvHold = some hold1 ∧ ((s .sent false).me).phase = .live ∧ ((s .sent false).me).wait = .none ∧
      decode hold1.word = .ok (.st ld8) ∧ ((s .sent false).reqs.filter fun q => hold1.ids.contains q.id) = [kvq .sent false] ∧
      ((s .applied false).reqs.filter fun q => hold1.ids.contains q.id) = [kvq .applied false] ∧ (kvq .applied false).stage ≠ .sent ∧
      (kvq .applied false).refused = false ∧ (kvq .applied true).refused = true := ⟨by decide +kernel, by decide +kernel, by decide +kernel, rfl,
        by decide +kernel, by decide +kernel, by decide +kernel, by decide +kernel, by decide +kernel⟩

/-- L1 of reel 0 holds the sector of 0x1000 (sector 32), with dirty bytes or without. -/
def sec (d : BitVec 128) : Sector := { data := 0x0807_0605_0403_0201, valid := BitVec.allOnes 128, dirty := d, psn := 0 }
def cached (d : BitVec 128) : State := w0.modReel 0 fun x => { x with l1 := [(32, sec d)] }
def rd : Acc := { op := .read true, ty := .n64, units := [u8], dst := .s 1 }
def wr : Acc := { op := .write true, units := [u8], data := 0x1122_3344_5566_7788 }
theorem wit_loadHit : (cached 0).hitsL1 rd = true ∧ (cached 0).orderOf rd = [] ∧
    (replyOf (0, 0) rd.units ((cached 0).reel 0).l1Byte).2 = 0 := by decide +kernel
/-- A read that misses, one at device scope, one behind a request of its reel; and an acquire that is still out. -/
theorem wit_sends : w0.hitsL1 rd = false ∧ (cached 0).hitsL1 { rd with scope := 3 } = false ∧
    ({ cached 0 with reqs := [rq] } : State).orderOf rd = [5] ∧ rd.rel = false ∧
    (let s := w0.modMe fun t => { t with acqs := [5] }
     accepted (.ldl (tm 1 6 0 0 .n64)) s = true ∧ memOp (.ldl (tm 1 6 0 0 .n64)) = true ∧ (s.me).acqs ≠ []) := by decide +kernel
theorem wit_storeHit : w0.hitsL1 wr = true ∧ w0.orderOf wr = [] ∧ wr.dpsn = 0 ∧ w0.l1Room 0 32 = w0 ∧
    ((upto 8).all fun k => decide ((w0.lowerByte 0 (w0.farHolds 0 false 0x1000) (4 * ((0x1000 + k) / 4))).2 = none) &&
      !((w0.reel 0).sector ((0x1000 + k) / 128)).psn.getLsbD ((0x1000 + k) % 128 / 4)) = true := by decide +kernel

/-- The local store: slab 0 is live in `ls`, dead in `w0`; the last word of the store, and one beyond. -/
def ls : State := (base [reg 4 64, reg 5 7, reg 6 0x7FFF8, reg 7 0x80000, reg 8 1024]).modReel 0 fun x => { x with lsLive := BitVec.allOnes 512 }
theorem wit_local : all [.ldl (tm 1 6 0 0 .n64), .stl (tm 5 6 0 0 .n64), .spkill (tm 8 8 0 0 .none)] ls = true ∧
    (eaOf ls (tm 1 6 0 0 .n64)).toNat + 8 = 0x80000 ∧ (ls.rs 8).val.toNat % 1024 = 0 ∧ (ls.rs 8).psn = false ∧ (ls.reel 0).lsPsn = [] ∧
    ((upto 8).all fun k => (ls.reel 0).slabLive ((0x7FFF8 + k) / 1024)) = true := by decide +kernel
theorem wit_memTraps : all [.ld (tm 1 7 0 0 .n64), .st (tm 1 7 0 0 .n64), .ldacq (tm 1 7 0 0 .n64), .strel (tm 1 7 0 0 .n64), .ldl (tm 1 7 0 0 .n64),
      .stl (tm 1 7 0 0 .n64), .cline (tm 0 7 0 0 .none), .spkill (tm 4 7 0 0 .none), .ldacq (tm 1 5 0 0 .n64), .strel (tm 1 5 0 0 .n64),
      .ldl (tm 1 5 0 0 .n64), .stl (tm 1 5 0 0 .n64)] poisoned = true ∧ (poisoned.rs 7).code = some 0x5A ∧ (poisoned.rs 5).val.toNat % 8 ≠ 0 := by
  decide +kernel
/-- The first offset beyond the store; a dead slab; poisoned data. -/
theorem wit_localTraps : all [.ldl (tm 1 7 0 0 .n64), .stl (tm 1 7 0 0 .n64)] ls = true ∧ 0x80000 < (eaOf ls (tm 1 7 0 0 .n64)).toNat + 8 ∧
    issues (.ldl (tm 1 4 0 0 .n64)) w0 = true ∧ (w0.reel 0).slabLive (64 / 1024) = false ∧
    issues (.stl (tm 7 4 0 0 .n64)) poisoned = true ∧ (eaOf poisoned (tm 7 4 0 0 .n64)).toNat = 64 := by decide +kernel
theorem wit_cache : all [.pref (tm 0 6 0 0 .none), .fence { tm 0 0 0 0 .none with scope := 4, ord := 3 }, .cline (tm 0 6 0 0 .none), .cline (tm 1 6 0 0 .none),
      .cline (tm 2 6 0 0 .none), .cline (tm 3 6 0 0 .none)] w0 = true ∧ w0.translate 0 0 0x1000 .read .supervisor = .ok 0x1000 lf ∧ w0.mine = [] := by
  decide +kernel
/-- A FENCE.rel that is not performed holds a write to the local store. -/
theorem wit_fenceHolds : let s := ls.modMe fun t => { t with fences := [5] }
    accepted (.stl (tm 5 6 0 0 .n64)) s = true ∧ writesHere (.stl (tm 5 6 0 0 .n64)) = true ∧ (s.me).fences ≠ [] := by decide +kernel

/-- Atomics at 0x1000, and the two-address forms at 0x1000 and 0x1008. -/
def at1 : AF := ta 1 6 5 0 0 .n64 3 3
def at2 (c : BitVec 6) : AF := ta 1 6 5 c 9 .n64 3 0
def at3 (c : BitVec 6) : AF := ta 1 6 5 c 9 .n32 3 3
def wa : State := base [reg 4 64, reg 5 7, reg 6 0x1000, reg 7 2, reg 8 3, reg 9 0x1008]
theorem wit_atomics : all [.aadd at1, .afadd { at1 with ty := .f32 }, .amin at1, .amax at1, .aand at1, .aor at1, .axor at1, .axchg at1,
      .acas { at1 with sc := 7 }, .adcas (at3 7), .amove (at2 0), .aadd2 (at2 7)] wa = true ∧
    wa.xlParts .write .device [(0x1000, 8)] = .ok [(0x1000, 8, lf)] ∧
    wa.xlParts .write .device [(0x1000, 8), (0x1008, 8)] = .ok [(0x1000, 8, lf), (0x1008, 8, lf)] ∧ wa.memKind? 0x1000 = some .dram ∧
    pteKv lf = false := by decide +kernel
/-- A write and an atomic sent to the home of 0x1000, and one that is performed already. -/
def home (q : Req) : State := { w0 with reqs := [q] }
def rqAdd : Req := { rq with op := .atomic 0x50, ty := .n64 }
theorem wit_home : (home rq).req? 5 = some rq ∧ (home rq).reqHeld rq = false ∧ (home rqAdd).req? 5 = some rqAdd ∧
    (home rqAdd).reqHeld rqAdd = false ∧ atomBytes .n64 = 8 ∧ (home rq).mpsn = [] ∧ rq.kv = false := by decide +kernel
def rqDone : Req := { rq with op := .read true, dst := .s 1, stage := .performed, left := [] }
def sArr : State := (home rqDone).modMe fun t => { t with pend := [(.s 1, 5)] }
theorem wit_arrives : sArr.req? 5 = some rqDone ∧ sArr.slotOf? 0 0 1 = some { reel := 0, slot := 0 } ∧ (.s 1, 5) ∈ (sArr.me).pend ∧
    (sArr.me).kvHold = none := by decide +kernel

/-- WAITA on a word of 0: seen 7 differs; seen 0 is equal, with a timeout of 7 and of 0. BARA and BARW of barrier 0. -/
def wt (b c : BitVec 6) : AF := ta 1 6 b c 0 .n64 3 1
theorem wit_waits : all [.waita (wt 5 4), .waita (wt 0 5), .waita (wt 0 0), .bara (ta 1 0 7 0 0 .none 3 0), .barw (ta 1 0 0 0 0 .none 3 0),
      .barw (ta 1 0 5 0 0 .none 3 0)] w0 = true ∧
    w0.xlParts .read .device [(0x1000, 8)] = .ok [(0x1000, 8, lf)] ∧ ((w0.reel 0).sector 32).dirty = 0 ∧ w0.overlaps 0 [32] = [] ∧
    w0.farHolds 0 (pteFc lf) 0x1000 = false ∧ w0.readHeld 0 0x1000 = false ∧ w0.hostDown 0x1000 = false ∧ pteKv lf = false ∧
    firstCode (w0.memBytes 0x1000 8) = none ∧ w0.partByHandle? 9 = some onePart := by decide +kernel
/-- The same word at strand scope, in a sector that L1 holds. -/
theorem wit_waitL1 : issues (.waita (ta 1 6 5 4 0 .n64 1 1)) (cached 0) = true ∧ ((upto 8).all fun i => ((cached 0).reel 0).l1Valid (0x1000 + i)) = true ∧
    firstCode ((upto 8).map fun i => ((cached 0).reel 0).l1Byte (0x1000 + i)) = none := by decide +kernel

/-- COLL with extents 1 by 1 and operation max; poisoned; OP 3; no partition; extents 0, and 12 of 11. -/
def wc : State := base [reg 4 0x0001_0001_0020, reg 5 7, reg 6 0x0001_0001_0030, bad 7, reg 8 0x0001_0000_0020, reg 9 0x000C_0001_0020]
def cl (a : BitVec 6) : Instr := .coll (ta 1 a 5 0 0 .i64 3 0)
theorem wit_coll : all [cl 4, cl 6, cl 7, cl 8, cl 9] wc = true ∧ (wc.rs 7).code = some 0x5A ∧ bitsOf (wc.rs 6).val 4 2 = 3 ∧
    bitsOf (wc.rs 4).val 16 16 = 1 ∧ bitsOf (wc.rs 4).val 32 16 = 1 ∧ bitsOf (wc.rs 8).val 16 16 = 0 ∧ 11 * onePart.h < bitsOf (wc.rs 9).val 32 16 ∧
    wc.myPart? = some onePart ∧ wc.partByHandle? onePart.handle = some onePart ∧ onePart.bx 0 = 0 ∧ onePart.by_ 0 = 0 := by decide +kernel
theorem wit_collNone : ({ wc with parts := [] } : State).myPart? = none := by decide +kernel

theorem wit_vecClean : w0.gcode g0 = none ∧ ((w0.me).getM 0).psn = false ∧ ((w0.me).getM 3).psn = false ∧ ((w0.me).getV 1).psn = 0 ∧
    ((w0.me).getV 63).psn = 0 ∧ (w0.rs 4).psn = false := by decide +kernel
def vf (sub : BitVec 8) (ty : Ty) : RF := tr 1 2 3 0 sub ty
def v1f (sub : BitVec 8) (ty : Ty) : RF := tr 1 2 0 0 sub ty
theorem wit_lanes : all [.vadd (vf 0x60 .f32), .vsub (vf 0 .i8), .vmul (vf 0 .bf16), .vfma (tr 1 2 3 4 0 .f16), .vmin (vf 0 .n32), .vmax (vf 0 .i16),
      .vclamp (tr 1 2 3 4 0 .i32), .vabs (v1f 0 .f32), .vneg (v1f 0 .i8), .vdiv (vf 0 .f32), .vsqrt (v1f 0 .f32), .vrcp (v1f 0 .f32),
      .vrsq (v1f 0 .f32), .vexp2 (v1f 0 .f32), .vlog2 (v1f 0 .f32), .vround (v1f 0 .f32), .vand (vf 0 .none), .vor (vf 0 .n8), .vxor (vf 0 .i32),
      .vnot (v1f 0 .none), .vshl (vf 0 .i32), .vshr (vf 0 .n32), .vsar (vf 0 .i32), .vmulh (vf 0 .i32), .vclz (v1f 0 .n8), .vpopc (v1f 0 .n16),
      .vmov (v1f 0 .none), .vadd { vf 0 .f32 with rnd := .rs }] w0 = true := by decide +kernel
theorem wit_moves : all [.vacs (tr 1 2 3 4 0x15 .i16), .vcmp (vf 8 .f32), .vsel (vf 1 .none), .vbcast (tr 1 4 0 0 0 .i8), .viota (tr 1 4 5 0 0 .n16),
      .vperm (vf 0 .i8), .vperm (tr 1 2 3 4 1 .n32), .vshuf (vf 0 .n16), .vshuf (vf 3 .n16), .vshuf (v1f 4 .n16), .vshuf (v1f 5 .n32),
      .vscan (v1f 0 .f32), .vscan (v1f 2 .i8), .vexpd (v1f 0x20 .n32), .vcvt (v1f 0x0B .i32)] w0 = true ∧
    RF.low (vf 8 .f32) / 8 = 1 ∧ RF.src (v1f 0x0B .i32) = some .f32 ∧ Ty.lane .f32 = Ty.lane .i32 := by decide +kernel
theorem wit_masks : all [.vext (tr 1 2 4 0 0 .i8), .vred (tr 1 2 0 0 0 .i32), .vred (tr 1 2 0 0 1 .f32), .mpopc (tr 1 2 0 0 0 .none), .mfirst (tr 1 2 0 0 0 .none),
      .mfirst (tr 1 2 0 0 1 .none), .mmov (tr 1 2 0 0 2 .none), .mlog (tr 1 2 3 0 6 .none), .mmov (tr 1 2 0 0 0 .none), .mmov (tr 1 4 0 0 1 .none),
      .mmov (tr 1 2 0 0 0x1B .i8), .vcmp (tr 1 2 3 0 0 .i16), .vacs (tr 1 2 3 4 0x1D .i16)] w0 = true ∧
    RF.low (tr 1 2 0 0 0x1B .i8) % 8 = 3 ∧ RF.low (tr 1 2 3 4 0x1D .i16) % 8 = 5 := by decide +kernel
theorem wit_groups : all [.vins (tr 1 4 5 0 0 .i16), .vcomp (v1f 0x20 .n32), .vcvt (tr 16 3 0 0 0x0C .f32), .vcvt (tr 16 4 0 0 0x0B .i8), .vqnt (tr 1 4 0 0 0x0B .mx4),
      .vdqnt (tr 4 1 0 0 0x0E .f32), .mmov (tr 1 2 0 0 0x1C .i8)] w0 = true ∧
    (sourceGroup w0.me 4 4).all (fun v => v.psn == 0) = true ∧ RF.src (tr 16 3 0 0 0x0C .f32) = some .e4m3 ∧ Ty.lane .e4m3 ≠ Ty.lane .f32 := by decide +kernel
/-- Vector memory on the mapped page: addresses of VLD, VLDS and VGATH; a poisoned base; an address that is no multiple of 4. -/
def vm : MF := tm 2 6 0 0 .f32
theorem wit_vmem : all [.vld vm, .vst vm, .vlds { vm with idx := 7, scl := 1 }, .vsts { vm with idx := 7, scl := 1 }, .vgath { vm with idx := 3, scope := 3 },
      .vscat { vm with idx := 3, scope := 3 }] w0 = true ∧
    (vecAddrCodes w0 vm .unit (enabledElems w0.me vm)).findSome? id = none ∧
    ((enabledElems w0.me vm).map (elemAddr w0 vm .unit)).all (fun v => v.toNat % 4 == 0) = true ∧
    (∃ l, w0.xlParts .write .device (((enabledElems w0.me vm).map (elemAddr w0 vm .unit)).map fun v => (v, 4)) = .ok l) := by
  refine ⟨by decide +kernel, by decide +kernel, by decide +kernel, (upto 64).map (fun k => (0x1000 + 4 * k, 4, lf)), by decide +kernel⟩
theorem wit_vmemTraps : (vecAddrCodes poisoned { vm with base := 7 } .unit (enabledElems poisoned.me vm)).findSome? id = some 0x5A ∧
    (((enabledElems w0.me { vm with base := 5 }).map (elemAddr w0 { vm with base := 5 } .unit)).find? fun v => v.toNat % 4 != 0) = some 7 := by decide +kernel

/-- Engine commands on clean operands: the queues have room; a full feed queue; a poisoned operand; an unaligned one. -/
def we : State := base [reg 4 0x10000, reg 5 7, reg 6 0x1000, reg 7 2, reg 8 3]
theorem wit_engines : all [.sfeed (te 1 4 6 6 7 0 .none), .sdrain (te 1 4 6 6 0 1 .none), .sdrain (te 1 4 6 6 7 2 .none), .sdrain (te 1 0 6 0 8 0x44 .none),
      .pmark (te 1 0 0 0 0 3 .none), .copy (te 1 4 6 6 0 1 .none), .copy2d (te 1 4 6 6 7 0 .none), .fill (te 1 4 6 6 0 1 .none),
      .gathr (te 1 4 6 6 7 1 .i32), .scatr (te 1 4 6 6 7 1 .i64), .kvld (te 1 4 6 7 8 4 .f32), .kvld (te 1 4 6 7 6 1 .bf16), .kvld (te 1 4 6 7 0 0x22 .e4m3),
      .kvappRows (te 1 4 6 6 7 0 .e4m3), .kvappInit (te 1 4 6 6 0 1 .none), .kvseal (te 1 4 0 0 0 1 .none), .sbnd (te 1 6 0 0 0 0 .none)] we = true ∧
    queueFull (we.reel 0) .feed = false ∧ queueFull (we.reel 0) .drain = false ∧ queueFull (we.reel 0) .copy = false ∧ queueFull (we.reel 0) .kv = false ∧
    (we.reel 0).boundQ.length < 16 ∧ (we.rs 4).val.toNat % 65536 = 0 ∧ (we.rs 6).val.toNat % 16 = 0 := by decide +kernel
def cmd0 : Cmd := we.newCmd 7 0xA3 (te 1 0 0 0 0 3 .none) .feed 9
def weFull : State := we.modReel 0 fun x => { x with feedQ := List.replicate 8 cmd0 }
theorem wit_engineStops : queueFull (weFull.reel 0) .feed = true ∧ accepted (.pmark (te 1 0 0 0 0 3 .none)) weFull = true ∧
    issues (.copy (te 1 7 6 6 0 1 .none)) poisoned = true ∧ (poisoned.rs 7).code = some 0x5A ∧ (we.rs 5).val.toNat % 16 ≠ 0 ∧
    issues (.sfeed (te 1 5 6 6 7 0 .none)) we = true := by decide +kernel
/-- RETRY and its like in the own form (token of s12) and the engine form; a block of the partition and the first outside. -/
theorem wit_control : all [.retry (te 1 0 0 0 0 12 .none), .retry (te 1 0 0 0 0 0 .none), .ecancel (te 1 8 0 0 0 0 .none), .estat (te 1 0 0 0 3 0x40 .none)] we = true ∧
    (we.me).mode ≠ .user ∧ we.myPart? = some onePart ∧ bitsOf (we.rs 0).val 0 16 < 11 * onePart.w ∧ 11 * onePart.w ≤ bitsOf (wc.rs 8).val 16 16 + 11 ∧
    (user.me).mode = .user := by decide +kernel
theorem wit_config : all [.kfuse (te 1 4 6 0 7 1 .e4m3), .kfree (te 1 4 0 0 0 0 .none), .kctx (te 1 4 6 6 7 0 .none), .kldw (te 1 4 6 6 0 3 .none),
      .kswap (te 1 4 0 0 0 0 .none), .kmma (te 1 4 6 0 0 1 .none), .kroute (te 1 4 6 6 7 0 .none), .kunroute (te 1 4 0 0 0 0 .none),
      .kqry (te 1 4 0 0 7 5 .none), .kqry (te 1 4 6 0 7 2 .none), .kclk (te 1 4 6 0 0 0 .none), .kldw (te 1 4 5 6 0 3 .none)] we = true ∧
    we.partOfReel? 0 = some onePart ∧ we.partByHandle? onePart.handle = some onePart ∧ (we.rs 6).val.toNat % 256 = 0 ∧ (we.rs 5).val.toNat % 256 ≠ 0 ∧
    ({ we with parts := [] } : State).partOfReel? 0 = none := by decide +kernel

/-- The tile: free, and occupied; rows and keys. -/
theorem wit_tile : all [.atld (tr 1 4 0 0 0x20 .f32), .atst (tr 0 4 3 0 0x20 .i32), .atadd (tr 0 4 3 0 0 .f32), .atadd (tr 0 2 3 0 1 .i32), .atmax (tr 0 4 3 0 0 .i32),
      .atmax (tr 0 2 3 0 1 .f32), .atclr (tr 0 4 5 0 0 .none)] w0 = true ∧ (w0.reel 0).tileBusy ≤ w0.now ∧ (w0.reel 0).tile = [] ∧ ((w0.reel 0).row 255).psn = 0 := by
  decide +kernel
def occupied : State := w0.modReel 0 fun x => { x with tileBusy := 100 }
theorem wit_tileStops : accepted (.atclr (tr 0 4 5 0 0 .none)) occupied = true ∧ occupied.now < (occupied.reel 0).tileBusy ∧
    all [.atld (tr 1 7 0 0 0 .f32), .atst (tr 0 7 3 0 0 .f32), .atclr (tr 0 7 4 0 0 .none)] poisoned = true ∧ (poisoned.rs 7).code = some 0x5A := by decide +kernel
theorem wit_banks : all [.vdrop (tr 0 0 63 0 0 .none), .bkq (tr 1 0 0 0 0 .none), .bkq (tr 1 4 0 0 1 .none), .bkq (tr 1 0 0 0 2 .none), .boostReq (ti 1 4 0 1750),
      .boostReq (ti 1 0 0 1525), .boostRel (ti 1 0 1 0), .boostQry (ti 1 0 2 0), .pwrhintIdle (ti 0 0 0 7), .pwrhintRamp (ti 0 0 1 7)] w0 = true ∧
    w0.fw.handover = none ∧ w0.fw.held = [] ∧ (w0.rs 4).psn = false ∧ w0.gcode g0 = none ∧ w0.power.boost = true := by decide +kernel
/-- BOOST.req for 64 µs: with a cool partition, with one that is evicted, and with a duration of 0. -/
theorem wit_boost : w0.fw.devMode = .full ∧ w0.power.maxUs ≠ 0 ∧ (w0.rs 4).val.toNat = 64 ∧ (w0.rs 0).val.toNat = 0 ∧
    onePart.fields.all (fun y => !(w0.field y).hot && decide ((w0.field y).temp ≤ w0.power.tcritNow)) = true ∧
    w0.power.bears 23519 = true ∧ w0.power.bears 23520 = false ∧
    issues (.boostReq (ti 1 4 0 1750)) { w0 with parts := [{ onePart with evicted := true }] } = true := by decide +kernel

/-- The system instructions. Slot 1 of the reel holds a strand of the context that is FAULTED (handle 77) or LIVE. -/
def target (ph : Phase) : Slot := { Slot.reset with phase := ph, handle := 77, pc := 0x40, mode := .supervisor, prio := 3 }
def ws (ph : Phase) : State :=
  (base [reg 4 77, reg 5 7, reg 6 0x1000, reg 7 2, bad 9]).modReel 0 fun x => x.setSlot 1 (target ph)
def r1 : StrandRef := { reel := 0, slot := 1 }
theorem wit_csr : all [.csrr (ts 1 0 1 0), .csrr (ts 1 0 0x122 0), .csrw (ts 0 4 0 0), .csrx (ts 1 4 1 0), .csrx (ts 1 4 1 1), .csrx (ts 1 4 1 2)] w0 = true ∧
    (w0.me).vbtUntil ≤ w0.now ∧ (w0.rs 4).psn = false := by decide +kernel
theorem wit_eret : issues (.eret (ts 1 4 0 1)) (ws .faulted) = true ∧ (ws .faulted).strand? 0 77 = some r1 ∧ r1 ≠ (ws .faulted).cur ∧
    ((ws .faulted).slot r1).phase = .faulted ∧ ((ws .faulted).slot r1).resume = none ∧ ((ws .faulted).releaseDeps 3).1 = [] ∧
    ((ws .live).slot r1).phase ≠ .faulted ∧ (ws .faulted).strand? 0 7 = none := by decide +kernel
theorem wit_tlbinv : all [.tlbinv (ts 1 4 0 0), .tlbinv (ts 1 4 0 1), .tlbinv (ts 1 4 0 2)] w0 = true ∧ w0.invs.length < 16 ∧ (w0.releaseDeps 3).1 = [] := by
  decide +kernel
theorem wit_ctxsv : issues (.ctxsv (ts 4 6 0 0)) (ws .faulted) = true ∧ (ws .faulted).landing ((ws .faulted).slot r1) = false ∧
    ((ws .faulted).rs 6).val.toNat % 256 = 0 ∧ ((ws .faulted).slot r1).image 0 0 ≠ [] ∧
    (ws .faulted).xlParts .write .device (pageParts 0x1000 0x300) = .ok [(0x1000, 0x300, lf)] ∧
    (ws .faulted).overlaps 0 (sectorsOf 0x1000 0x300) = [] ∧ (ws .faulted).strand? 0 7 = none ∧ issues (.ctxsv (ts 5 6 0 0)) (ws .faulted) = true := by decide +kernel
/-- The image that CTXSV of the strand writes at 0x1000, there for CTXLD to read; an image of zeros is bad. -/
def wl : State := (after (.ctxsv (ts 4 6 0 0)) (ws .faulted)).modMe fun t => { t with s := [reg 4 77, reg 6 0x1000] }
theorem wit_ctxld : issues (.ctxld (ts 4 6 0 0)) wl = true ∧ wl.landing (wl.slot r1) = false ∧
    wl.xlParts .read .device (pageParts 0x1000 0x300) = .ok [(0x1000, 0x300, lf)] ∧
    strandImageSize (imgWord (wl.imageBytes [(0x1000, 0x300, lf)]) 0) = 0x300 ∧ strandImageBad (wl.imageBytes [(0x1000, 0x300, lf)]) = false ∧
    (imgMode (wl.imageBytes [(0x1000, 0x300, lf)])).rank = 1 ∧ strandImageBad ((ws .faulted).imageBytes [(0x1000, 0x300, lf)]) = true := by decide +kernel
theorem wit_evpost : let s : State := w0.setCtx 0 { Context.reset with live := true }
    all [.evpost (ts 1 0 0 0), .evpost (ts 1 7 0 0), .evpost (ts 1 7 0 1)] s = true ∧ bitsOf (s.rs 7).val 0 5 = 2 ∧ bitsOf (s.rs 7).val 8 6 = 0 ∧
      (s.ctx 0).live = true ∧ (s.releaseDeps 3).1 = [] := by decide +kernel
theorem wit_allocq : all [.allocqGrant (ts 1 4 0 0), .allocqFree (ts 1 4 0 1)] w0 = true := by decide +kernel

/-! ### Steps of the other agents -/

/-- A SPAWN of the strand of slot 0, its answer awaited by s5; a target reel with every slot taken. -/
def sp : Spawn :=
  { id := 50, reel := 0, slot := 0, handle := 1, dst := 5, target := 3, entry := 0x200, prio := 4, arg := SReg.clean 8, ctx := 0, mode := .user, task := none
    part := 9, after := [] }
def sSpawn : State := { w0.modMe fun t => { t with pend := [(.s 5, 50)], spawns := 1 } with spawns := [sp] }
def sBusy : State := sSpawn.setReel 3 { Reel.reset with slots := (upto 8).map fun k => (k, target .live) }
theorem wit_spawnAnswer : (sSpawn.spawns.find? fun x => x.id == 50) = some sp ∧ sSpawn.allDone sp.after 3 = true ∧
    (sSpawn.me).pend.any (·.2 == 50) = true ∧ (sSpawn.me).handle = sp.handle ∧ (sSpawn.part? sp.ctx sp.part).any (·.suspended) = false ∧
    sSpawn.reelFree sp.target = true ∧ sSpawn.slotOf? sp.reel sp.slot sp.handle = some { reel := 0, slot := 0 } ∧ (sSpawn.me).phase = .live ∧
    (sSpawn.reel sp.target).freeSlot? = some 0 ∧ (sBusy.reel sp.target).freeSlot? = none := by decide +kernel
/-- Waits of slot 0: on counter 2 for a change from 7 or from 0, with and without a deadline passed; IDLE; WAITA; BARW. -/
def waiting (w : Wait) : State := w0.modMe fun t => { t with wait := w }
theorem wit_waitq : ((waiting (.waitq 2 7 none 5)).me).wait = .waitq 2 7 none 5 ∧ (waiting (.waitq 2 7 none 5)).ev 0 2 ≠ 7 ∧
    (waiting (.waitq 2 0 none 5)).ev 0 2 = 0 ∧ duePassed 0 none = false ∧ duePassed 0 (some 0) = true ∧ duePassed 0 (some 1) = false ∧
    (waiting (.idle 0 5)).evSum 0 = 0 ∧ (waiting (.idle 7 5)).evSum 0 ≠ 7 := by decide +kernel
def ww (seen : Word) : WaitWord :=
  { va := 0x1000, pa := 0x1000, w := 8, seen := seen, deadline := none, once := false, scope := 3, acq := true, ty := .n64, dst := 5
    kv := false, fc := false, after := [] }
theorem wit_waita : let s := waiting (.waita (ww 7))
    (s.me).phase = .live ∧ (s.me).wait = .waita (ww 7) ∧ (ww 7).w ∈ [2, 4, 8] ∧ (ww 7).pa % (ww 7).w = 0 ∧ s.farHolds 0 false 0x1000 = false ∧
      ((s.reel 0).sector 32).dirty = 0 ∧ s.overlaps 0 [32] = [] ∧ s.readHeld 0 0x1000 = false ∧ s.hostDown 0x1000 = false ∧
      firstCode (s.memBytes 0x1000 8) = none ∧ natOfBytes (plainBytes (s.memBytes 0x1000 8)) = 0 ∧ (7 : Word).toNat % 2 ^ (8 * 8) ≠ 0 := by
  decide +kernel
def closed : Partition := { onePart with barriers := [(3, { phase := 1, arrivals := 0, expected := 4 })] }
theorem wit_barw : let s : State := { waiting (.barw 9 3 0 3 true 5) with parts := [closed] }
    s.partByHandle? 9 = some closed ∧ (closed.barrier 3).phase ≠ 0 ∧ (s.me).wait = .barw 9 3 0 3 true 5 := by decide +kernel
def ctb : Contrib :=
  { id := 0, round := 0, reel := 0, slot := 0, handle := 1, task := none, dst := 5, bx := 0, by_ := 0, wx := 1, wy := 1, op := 0, ty := .i64, val := 7, psn := none
    acq := false, scope := 3, pendId := 60 }
def collPart : Partition := { onePart with colls := [ctb] }
def sColl : State := { w0.modMe fun t => { t with pend := [(.s 5, 60)] } with parts := [collPart] }
theorem wit_collResult : sColl.partByHandle? 9 = some collPart ∧ roundComplete (collPart.openRound 0) = true ∧
    (collPart.collBlocks ((collPart.openRound 0).take 1)).all sColl.blockFree = true ∧ roundResult (collPart.openRound 0) = some (7, none) ∧
    collPart.openRound 0 = [ctb] ∧ (sColl.me).pend.any (·.2 == ctb.pendId) = true ∧ (sColl.me).phase ≠ .free ∧ (sColl.me).handle = ctb.handle := by
  decide +kernel
def sDog : State := { user.setCtx 0 { Context.reset with live := true, wdog := 1000 } with tick := 1001 }
/-- The same with its word in the instruction L1; without it the word is what holds the strand. -/
def sDogHit : State := sDog.modReel 0 fun x => { x with icache := [(0, 0x2500_2800_0000_0005)] }
theorem wit_watchdog : let w := sDog.modMe fun t => { t with wait := .waitq 2 0 none 5 }
    (w.me).wait ≠ .none ∧ (w.me).mode = .user ∧ (sDogHit.stateOf sDogHit.cur).1 ≠ 2 ∧ (sDog.stateOf sDog.cur).1 = 2 ∧ (sDog.me).phase = .live ∧ (sDog.me).mode = .user ∧ (sDog.ctx 0).wdog ≠ 0 ∧ (sDog.ctx 0).wdog.toNat < sDog.tick - (sDog.me).readyTick := by
  decide +kernel
def noFetch (poison : Bool) : State := w0.modMe fun t => { t with fetchFail := some { poison := poison, sub := 1, level := 4, code := 7 } }
theorem wit_fetchFault : (∃ f, (noFetch true).fetch w0.cur = .fail f ∧ f.poison = true) ∧ (∃ f, (noFetch false).fetch w0.cur = .fail f ∧ f.poison = false) :=
  ⟨⟨{ poison := true, sub := 1, level := 4, code := 7 }, by decide +kernel⟩, { poison := false, sub := 1, level := 4, code := 7 }, by decide +kernel⟩
/-- A page table of one path for the address 0, its tables at 0x10000 and on, and a walk for slot 0. -/
def word8 (a : Nat) (w : Word) : List (Nat × Byte) := (upto 8).filterMap fun k => if byteOf w k == 0 then none else some (a + k, byteOf w k)
def sWalk : State :=
  let t := probeLeaf.entry
  { (w0.setCtx 0 { Context.reset with live := true, root := 0x10000 }).modMe fun x => { x with walk := some 70 } with
      mem := word8 0x10000 0x20001 ++ word8 0x20000 0x30001 ++ word8 0x30000 0x40001 ++ word8 0x40000 t
      walks := [{ id := 70, who := .strand { reel := 0, slot := 0 }, field := 0, reel := 0, ctx := 0, va := 0, acc := .read, mode := .device, stale := false }] }
theorem wit_walk : (sWalk.walks.find? fun x => x.id == 70).any (fun w => sWalk.walkServed w && w.who == .strand sWalk.cur && !w.stale) = true ∧
    (sWalk.me).walk = some 70 ∧
    (match sWalk.walk 0 0 0 .read with | .leaf l _ => l.covers 0 0 | _ => false) = true := by decide +kernel
/-- Banks: a wake that is due; a FULL bank with live contents long untouched; one with only dead contents. -/
def bk (x : Bank) (live : BitVec 64) : State := ({ w0 with tick := 0 }.modReel 0 fun r => { r with cycle := 1000 }).modMe fun t => { t with banks := [(1, x)], live := live }
theorem wit_bankWake : let s := bk { supply := .off, touch := 0, dead := none, wake := some 1000 } 0
    ((s.me).bank 1).wake = some 1000 ∧ 1000 ≤ (s.reel 0).cycle ∧ (s.me).dly.new = false := by decide +kernel
theorem wit_bankRetain : let s := bk { supply := .full, touch := 487, dead := none, wake := none } 0x10
    ((s.me).bank 1).wake = none ∧ (s.me).bankLive 1 = true ∧ (s.me).dly.ret ≠ 0 ∧
      ((s.me).bank 1).touch + (s.me).dly.ret.toNat + 1 = (s.reel 0).cycle := by decide +kernel
theorem wit_bankOff : let s := bk { supply := .retain, touch := 0, dead := some 935, wake := none } 0
    ((s.me).bank 1).supply ≠ .off ∧ (s.me).bankLive 1 = false ∧ ((s.me).bank 1).dead = some 935 ∧
      935 + delayOff (s.me).dly.off + 1 = (s.reel 0).cycle := by decide +kernel

theorem wit_l1 : ((cached 0).reel 0).sector 32 = sec 0 ∧ ((cached 1).reel 0).sector 32 = sec 1 ∧ (sec 1).dirty ≠ 0 := by decide +kernel
def shared : State := { w0 with dirs := [(16, { sharers := 6, host := false, out := [(0, 2)], snoop := false })] }
theorem wit_ack : (shared.dir 16).pending.getLsbD 1 = true ∧ (upto 4).all (fun p => (shared.hostPort p).writes.isEmpty) = true := by decide +kernel
theorem wit_resend : (home rq).req? 5 = some rq := by decide +kernel
def rec0 : Record := { w0 := 6, handle := 1, pc := 0x40, addr := 0, word := 0, info := 0, tick := 9, recordOnly := false }
def faulty : State := w0.setCtx 0 { Context.reset with live := true, fqBase := 0x2000, fqN := 16, records := [rec0] }
theorem wit_record : (faulty.ctx 0).records = [rec0] ∧ (faulty.ctx 0).fqOpen = false ∧ faulty.faultBlocked 0 = false ∧ faulty.faultSlot 0 = 0x2000 ∧
    faulty.dir (0x2000 / 256) = Dir.none ∧ faulty.mpsn = [] := by decide +kernel
def tinv (removed : BitVec 42) : TlbInv :=
  { id := 80, kind := 0, ctx := 0, va := 0, reel := 0, slot := 0, handle := 1, dst := 5, waiting := BitVec.allOnes 42, removed := removed, after := [], reqs := [], lines := [] }
theorem wit_tlbinvAck : (({ w0 with invs := [tinv 0] } : State).invs.find? fun x => x.id == 80) = some (tinv 0) ∧ (tinv 0).waiting.getLsbD 41 = true ∧
    (tinv 0).removed.getLsbD 41 = false ∧ (tinv 1).removed.getLsbD 0 = true ∧ (tinv 1).reqs = [] ∧ (tinv 1).lines = [] ∧ w0.allDone (tinv 0).after 3 = true := by
  decide +kernel
/-- Page 2 (e4m3, 2 tokens of dimension 32, CAP 2046) is SEALED since tick 0, and registered at its stack by context 0 whose
threshold is 1000. -/
def page (st : Byte) : List (Nat × Byte) := word8 0x20000 (0x0002_0000_0001_4B56 + Sys2Proof.word (st.toNat * 2 ^ 24)) ++ word8 0x20008 (32 + 2046 * 2 ^ 32)
def kvw (st : Byte) (c : Option ConvStep) : State :=
  { w0.setCtx 0 { Context.reset with live := true, age := 1000 } with
      tick := 2000, mem := page st
      ageing := [(3, { Ageing.reset with registry := [(2, 0)], conv := c.map fun x => { page := 2, ctx := 0, step := x } })] }
theorem wit_conversion : ((kvw 1 none).ageing? 3).conv = none ∧ (((kvw 1 none).ageing? 3).registry.find? fun e => e.1 == 2) = some (2, 0) ∧
    (kvw 1 none).kvDue 2 0 = true ∧ firstCode ((kvw 1 none).memBytes 0x20000 32) = none ∧ (kvw 1 (some .staging)).kvState 2 = some 1 ∧
    ((kvw 1 (some .closing)).ageing? 3).conv = some { page := 2, ctx := 0, step := .closing } ∧ (kvw 1 none).mpsn = [] := by decide +kernel
theorem wit_flip : ((kvw 2 (some .converting)).ageing? 3).conv = some { page := 2, ctx := 0, step := .converting } ∧
    ((kvw 2 (some .converting)).convertedBody (65536 * 2)).length = 65472 := by decide +kernel
theorem wit_hostMem : (w0.hostPort 3).serves = true ∧
    w0.hostJudge 0x1000 ([1, 2, 3, 4].map fun b => (b, some (originCode 11 63 w0.quedon.rasNext))) = .allow ∧ inHdm (0x13800000000 - 4) 4 = true ∧ inHdm (0x13800000000 - 3) 4 = false ∧
    ((w0.hostPort 3).order.filter fun l => (w0.dir l).pending != 0) = [] ∧ w0.hostJudge 0x1000 (cleanBytes [1, 2, 3, 4]) = .allow ∧ w0.lineDone 16 = true ∧
    w0.kvClosed 0 = false ∧ hostBase ≤ 0xFFFFFFFFFFFFE ∧ 0xFFFFFFFFFFFFE + 2 ≤ hostTop := by decide +kernel
def px : PeerTransfer :=
  { sender := 4, port := 1, tag := 6, window := 255, offset := 16, bytes := [1, 2, 3, 4], reduction := false, poisoned := false }
def seen1 : PeerSeen := { sender := 4, tag := 6, accepted := true, n := 4 }
def sPeer : State := { sWalk with peerPorts := [(1, { PeerPort.reset with up := true })], peerId := 3, peerWins := [(255, { base := 0, size := 4096, ctx := 0, flags := 2, sender := 0 })] }
theorem wit_peer : ({ sPeer with peerWins := [] } : State).peerAccepts px = false ∧ sPeer.peerAccepts px = true ∧ sPeer.peerXlate 0 16 = .at_ 16 false ∧
    (sPeer.peerPort 1).up = true ∧ (sPeer.peerSeen.find? fun y => y.sender == px.sender && y.tag == px.tag) = none ∧
    (({ sPeer with peerSeen := [seen1] } : State).peerSeen.find? fun y => y.sender == px.sender && y.tag == px.tag) = some seen1 ∧ sPeer.pendSent = [] := by
  decide +kernel

/-- Commands of reel 0 and of the partition's configuration unit. -/
def cmdOf (opc : Nat) (f : EF) (eng : Eng) : Cmd := we.newCmd 90 opc f eng 9
def withCmd (c : Cmd) : State := { we.modReel 0 (fun x => if c.eng == .copy then { x with copyQ := [c] } else { x with feedQ := [c] }) with tick := 5000 }
def fillCmd : Cmd := cmdOf 0xA6 (te 1 4 6 6 0 1 .none) .copy
theorem wit_start : startable ((withCmd cmd0).reel 0) .feed = some cmd0 ∧ (withCmd cmd0).partRuns 9 = true ∧ (withCmd cmd0).cmdReady cmd0 = true ∧
    (withCmd cmd0).startCheck { cmd0 with started := true } = some 8 ∧ startable ((withCmd fillCmd).reel 0) .copy = some fillCmd ∧
    (withCmd fillCmd).startCheck fillCmd = none := by decide +kernel
theorem wit_ending : (withCmd { fillCmd with ending := some 0 }).cmd? 90 = some { fillCmd with ending := some 0 } ∧ fillCmd.lines = [] := by decide +kernel
def fill1 : Cmd := { fillCmd with started := true, a := 0x10, b := 0x0807_0605_0403_0201 }
theorem wit_fill : (withCmd fill1).cmd? 90 = some fill1 ∧ fill1.opc = 0xA6 ∧ fill1.bits 0 2 = 1 ∧ fill1.prog < fill1.c.toNat ∧
    (lsBanksOf 0x10 64).all (fun b => (((withCmd fill1).reel 0).lsBank b).supply == .full) = true ∧ ((withCmd fill1).reel 0).lsPsn = [] ∧
    fill1.held = none ∧ fill1.walk = none ∧ (withCmd fill1).partRuns 9 = true ∧ wholeGranules 0x10 5 1008 = 8 ∧ 0x10 + 8 ≤ 0x80000 := by decide +kernel
/-- A kite of one block at block (0, 0), not halted, with an input and an output line. -/
def kite0 : Kite :=
  { handle := 30, ctx := 0, part := 9, task := none, index := 0, bx := 0, by_ := 0, bw := 1, bh := 1, mode := 0, prec := .e4m3, tags := 1, words := []
    active := [], shadow := [], shadowBad := [], swap := none, pass := false, acc := false, srows := 0, scols := 0, accs := [], accPsn := []
    inRate := none, outRate := none, clkReq := none, halted := false, sending := [] }
def mark1 : Flit := markFlit 0 2 7
def line (id : Nat) (src snk : Port) (buf arrived : List Flit) : Line :=
  { id := id, part := 9, task := none, src := src, snk := snk, vc := 0, elastic := true, filter := 0, depth := 8, burst := 1, rate := 1, hops := 1, path := []
    round := 0, gather := [], buf := buf, arrived := arrived, stopped := false }
def inLine (buf arrived : List Flit) : Line := line 40 { kind := 0, a := 0, b := 0, kite := 0 } { kind := 3, a := 0, b := 0, kite := 30 } buf arrived
def outLine : Line := line 41 { kind := 5, a := 0, b := 0, kite := 30 } { kind := 1, a := 0, b := 0, kite := 0 } [] []
def sKite (q : List Cmd) (buf arrived : List Flit) : State :=
  { we with kites := [kite0], lines := [inLine buf arrived, outLine], parts := [{ onePart with cfgQ := q }] }
def kclk : Cmd := { cmdOf 0xB9 (te 1 4 6 0 0 0 .none) .config with a := 30, b := 8 }
theorem wit_configUnit : let s := sKite [kclk] [] []
    (s.partByHandle? 9).map (·.cfgQ) = some [kclk] ∧ (s.partByHandle? 9).bind s.configTurn? = some kclk ∧
      kclk.held = none ∧ kclk.walk = none ∧ s.cmdReady kclk = true ∧ kclk.ending = none ∧ kclk.b ≠ 0 ∧ kclk.b.toNat ≤ 8 ∧
      (s.kites.find? fun k => Sys2Proof.word k.handle == kclk.a && k.handle != 0 && k.ctx == kclk.ctx && k.part == kclk.part) = some kite0 := by decide +kernel
/-- KFUSE of blocks (0, 0) to (10, 10), the whole field, under tag 1. -/
def kfuse : Cmd := { cmdOf 0xB0 (te 1 4 6 0 7 1 .e4m3) .config with a := 0x000B_000B_0000_0000, b := 1 }
theorem wit_kfuse : let s : State := { we with parts := [{ onePart with cfgQ := [kfuse] }] }
    onePart.bx 0 = bitsOf kfuse.a 0 16 ∧ onePart.by_ 0 = bitsOf kfuse.a 16 16 ∧ bitsOf kfuse.a 32 16 = 11 ∧ bitsOf kfuse.a 48 16 = 11 ∧
      bitsOf kfuse.b 0 8 ≠ 0 ∧ s.modeOk 1 .e4m3 = true ∧ s.kites = [] ∧
      ((upto 11).all fun i => (upto 11).all fun j => s.blockFree (onePart.reel i j)) = true := by decide +kernel
theorem wit_flit : ((sKite [] [mark1] []).lines.find? fun x => x.id == 40) = some (inLine [mark1] []) ∧ (sKite [] [mark1] []).partRuns 9 = true := by decide +kernel
theorem wit_mark : let s := sKite [] [] [mark1]
    s.kite? 30 = some kite0 ∧ ((s.kiteInputs kite0).filterMap fun x => x.arrived.head?.map fun f => (x.snk, f)) = [((inLine [] [mark1]).snk, mark1)] ∧
      (s.kiteInputs kite0).length = 1 ∧ headsPair [((inLine [] [mark1]).snk, mark1)] = true ∧ s.kiteOutputs kite0 = [outLine] ∧ outLine.space = true ∧
      outLine.op = 0 ∧ (s.lines.find? fun x => x.id == 41) = some outLine ∧ (s.kiteRows kite0).all (fun rd => !(s.field (rd / 11)).gated) = true := by decide +kernel
/-- The same kite meets a data token; its planes are swapped at a mark where a KSWAP awaits one. -/
def data1 : Flit := dataFlit 0 1 [0x38] none (BitVec.allOnes 32)
theorem wit_token : let s := sKite [] [] [data1]
    ((s.kiteInputs kite0).filterMap fun x => x.arrived.head?.map fun f => (x.snk, f)) = [((inLine [] []).snk, data1)] ∧
      (s.kiteInputs kite0).any (fun x => x.snk.kind == 3) = true ∧ headsPair [((inLine [] []).snk, data1)] = true ∧ data1.mark = false ∧
      kite0.sending = [] ∧ kite0.mode = 0 ∧ 0 < kite0.bh ∧ outLine.gather = [] ∧ s.partRuns 9 = true ∧ outLine.id ≠ (inLine [] []).id := by decide +kernel
def peerCmd (red : BitVec 11) : Cmd := { cmdOf 0xA4 (te 1 4 6 6 0 (2 + red) .none) .copy with started := true, sent := some 1, i0 := 0x1000, c := 0x1000 }
theorem wit_peerCmd : (withCmd (peerCmd 0)).cmd? 90 = some (peerCmd 0) ∧ (peerCmd 0).red = 0 ∧ (peerCmd 0x10).red ≠ 0 ∧ (peerCmd 0x10).i0 = (peerCmd 0x10).total ∧
    1 + ({ withCmd (peerCmd 0x10) with peertmo := 1000 } : State).peertmo.toNat < 5000 := by decide +kernel
def pout : PeerOut := { cmd := 90, tag := 6, port := 1, dest := 4, window := 255, offset := 0, bytes := [(1, none)], units := 1, red := 0 }
theorem wit_peerOut : let s : State := { withCmd (peerCmd 0) with peerPorts := [(1, { PeerPort.reset with up := true })], peerOut := [pout] }
    (s.peerOut.find? fun x => x.tag == 6) = some pout ∧ s.cmd? pout.cmd = some (peerCmd 0) ∧ (peerCmd 0).ending = none ∧ pout.red = 0 ∧
      (s.peerPort 1).up = true ∧ (peerCmd 0x10).sent.isSome = true ∧ (peerCmd 0x10).ending = none := by decide +kernel

/-- A queue of context 0 and partition 9 with ring at 0x2000 of 16 packets; its head and the packet in memory. -/
def pk (w : List Word) : Packet := { index := 0, words := w, started := false, met := 0, signalled := none }
def launch : List Word := [0x0000_0001, 0x40, 8, 0, 0, 0] ++ List.replicate 10 0
def signal : List Word := [0x0000_0003, 0x1000, 77, 0] ++ List.replicate 12 0
def depend (c : Word) : List Word := [0x0000_0002, 0x1000, 0, c] ++ List.replicate 12 0
def qq (h w : Option Packet) : Queue := { Queue.reset with ring := 0x2000, logn := 4, part := 9, wridx := 1, state := .active, head := h, watch := w }
def sq (x : Queue) (mem : List (Nat × Byte)) : State :=
  { (w0.setCtx 0 { Context.reset with live := true, ceil := 12 }).modField 0 (fun f => { f with tlb := [probeLeaf] }) with queues := [(7, x)], mem := mem }
theorem wit_doorbell : ((sq (qq none none) []).queue 7).state = .active ∧ ((sq (qq none none) []).queue 7).wridx < 16 ∧
    16 ≤ ((sq (qq none none) []).queue 7).rdidx + 2 ^ 4 ∧ ((sq (qq none none) []).queue 7).rdidx + 2 ^ 4 < 17 := by decide +kernel
theorem wit_packetFetch : let s := sq (qq none none) (word8 0x2000 0x4 ++ word8 0x2008 0)
    s.ownXlate true 0 0 (0x2000 + Sys2Proof.word 0) .read = .at_ 0x2000 false ∧ s.ownReadHeld 0 0x2000 false = false ∧ firstCode (s.memBytes 0x2000 128) = none ∧
      (pk ((upto 16).map fun i => Sys2Proof.word (natOfBytes (plainBytes (((s.memBytes 0x2000 128).drop (8 * i)).take 8))))).seq = 0 ∧
      (pk ((upto 16).map fun i => Sys2Proof.word (natOfBytes (plainBytes (((s.memBytes 0x2000 128).drop (8 * i)).take 8))))).ok = true := by decide +kernel
/-- A packet with a poisoned granule, one of host memory that comes with a completion error, and a disabled queue's port
command. -/
theorem wit_unreadable : let s : State := { sq (qq none none) [] with mpsn := [(0x2000 / 4, true)] }
    (s.queue 7).state = .active ∧ (s.queue 7).rdidx < (s.queue 7).wridx ∧ (s.queue 7).head = none ∧ (s.queue 7).mismatch = none ∧
      (firstCode (s.memBytes 0x2000 128)).isSome = true ∧
      (let h : State := { s with hostWins := [(0, { base := 0, size := 0x10000, ports := 1 })] }
       h.modField 0 (fun f => { f with tlb := [{ probeLeaf with entry := Sys2Proof.word hostBase ||| 0x2C00_0000_0000_001F }] })).ownXlate true 0 0 0x2000 .read =
        .at_ (hostBase + 0x2000) false := by decide +kernel
theorem wit_recheck : (({ qq none none with mismatch := some 0 } : Queue).mismatch).isSome = true := by decide
theorem wit_packets : ((sq (qq (some (pk launch)) none) []).takeHead 7 1).isSome = true ∧ ((sq (qq (some (pk [4])) none) []).takeHead 7 4).isSome = true ∧
    ((sq (qq (some (pk signal)) none) []).takeHead 7 3).isSome = true ∧ ((sq (qq (some (pk (depend 0))) none) []).takeHead 7 2).isSome = true := by decide +kernel
theorem wit_signal : (pk signal).irq = false ∧ (pk signal).sigAddr = 0x1000 ∧ (pk signal).sigKind = 0 ∧ ((pk signal).sigVal) = 77 ∧
    (sq (qq (some (pk signal)) none) []).ownXlate true 0 0 0x1000 .write = .at_ 0x1000 false ∧
    (let s := sq (qq (some (pk signal)) none) []
     s.replayFull (s.anchorOf (s.queue 7)) (s.homeField 0x1000) = false ∧ s.dir (0x1000 / 256) = Dir.none ∧ s.mpsn = []) ∧ (pk (depend 0)).sigAddr = 0 ∧ (pk (depend 0)).depCond 0 = 0 := by decide +kernel
theorem wit_depend : let s := sq (qq none (some (pk (depend 1)))) []
    (s.queue 7).watch = some (pk (depend 1)) ∧ (pk (depend 1)).type = 2 ∧ (pk (depend 1)).depCond 0 = 1 ∧ s.ownXlate true 0 0 0x1000 .read = .at_ 0x1000 false ∧
      s.ownReadHeld 0 0x1000 false = false ∧ firstCode (s.memBytes 0x1000 8) = none ∧ depHolds 1 0 ((pk (depend 1)).depVal 0) = true ∧ setBit (0 : BitVec 4) 0 true ≠ 15 := by
  decide +kernel
def task0 : Task :=
  { id := 20, ctx := 0, part := 9, queue := 7, index := 0, seq := 0, sigAddr := 0, sigVal := 0, sigKind := 0, barrier := false, kitesFused := 0, killed := false, signalled := none }
def sTask : State := { State.reset with tasks := [task0], parts := [onePart], queues := [(7, { qq none none with inflt := 1 })] }
theorem wit_task : sTask.task? 20 = some task0 ∧ sTask.taskBusy 20 = false ∧ sTask.releaseFabric 20 = sTask ∧ sTask.partByHandle? 9 = some onePart ∧
    sTask.flushTask onePart = sTask ∧ sTask.taskWritten onePart 20 = true := by decide +kernel
/-- Commands of the host at port 1: CCTL names context 5, QCTL queue 7. -/
def port (c q d : Word) (isQ : Bool) : State :=
  let s := sq (qq none none) []
  { s with hostPorts := [(1, { HostPort.reset with cctl := c, qctl := q, cdata := d })], fw := { s.fw with ctl := [(1, isQ)] } }
def desc5 : SMap Word := [(40, 0x10000), (41, 0x20000), (42, 16)]
theorem wit_cctl : (port 0x5_0000_0001 0 0 false).cctlDue 1 1 = true ∧ (port 0x5_0000_0001 0 0 false).namesCtx 1 5 = true ∧
    ({ port 0x5_0000_0001 0 0 false with ctxDesc := desc5 } : State).ctxDescOk 5 = true ∧ ((port 0x5_0000_0001 0 0 false).ctx 5).live = false := by decide +kernel
/-- Every field healthy and offered. -/
def offering (s : State) : State := (upto 42).foldl (fun (s : State) f => s.modField f fun x => { x with offered := true }) s
theorem wit_cctlMore : let s := (port 0x5_0000_0003 0 0x12 false).setCtx 5 { Context.reset with live := true }
    s.cctlDue 1 3 = true ∧ s.namesCtx 1 5 = true ∧ (s.ctx 5).live = true ∧ ((offering s).place 5 2 2).isSome = true ∧
      (port 0x5_0000_0002 0 0 false).cctlDue 1 2 = true ∧ s.parts.all (fun p => p.ctx != 5) = true ∧ s.queues.all (fun y => y.2.ctx != 5) = true := by decide +kernel
theorem wit_free : let s : State := { port 0x0_0000_0004 0 9 false with queues := [], reels := [] }
    s.cctlDue 1 4 = true ∧ s.part? 0 9 = some onePart ∧ s.partBusy onePart = false := by decide +kernel
theorem wit_qctl : (upto 5).all (fun k => (port 0 (0x7_0000_0001 + Sys2Proof.word k) 0 true).qctlDue 1 7 (k + 1)) = true ∧
    ({ port 0 0x7_0000_0001 0 true with queues := [(7, { qq none none with state := .disabled, wridx := 0 })] } : State).queueDescOk { qq none none with state := .disabled } = true ∧
    (qq none none).state = .active ∧ (port 0 0x7_0000_0001 0 true).tasks = [] := by decide +kernel

/-- FWREQ: a request in progress of operation `op` with two arguments. -/
def fw (op : Nat) (a0 a1 : Word) : State := { w0 with fw := { w0.fw with reqStatus := 1, reqOp := op, args := [(0, a0), (1, a1)] } }
theorem wit_fwreq : (upto 6).all (fun k => (fw (k + 1) 0 0).fwDue (k + 1)) = true ∧ (fw 1 0 0).pmt.busy = false := by decide +kernel
def pmt (j : Word) : State := { ws .live with pmt := { Pmt.reset with busy := true, op := 1, jPart := j } }
def pmtOk : State := (pmt 9).setCtx 0 { Context.reset with live := true }
theorem wit_pmt : (pmt 8).pmtRefusal ≠ 0 ∧ pmtOk.pmtRefusal = 0 ∧ pmtOk.part? 0 9 = some onePart ∧ (r1, pmtOk.slot r1) ∈ pmtOk.victims onePart ∧
    (pmtOk.slot r1).phase ≠ .suspended ∧ (pmtOk.slot r1).kvHold = none ∧ pmtOk.fw.held = [] := by decide +kernel
/-- A suspended partition, and the claimant granted over it with work for the reel and for the block. -/
def suspended : Partition := { onePart with suspended := true, claimant := some 10 }
def claimant : Partition := { onePart with handle := 10, ctx := 1, cfgQ := [kfuse] }
def sClaim : State := { ws .suspended with parts := [suspended, claimant], spawns := [{ sp with target := 0, part := 10 }] }
theorem wit_scanOut : sClaim.suspendedOver 0 = some suspended ∧ suspended.claimed.contains (.reel 0) = false ∧ sClaim.wanted suspended (.reel 0) = true ∧
    sClaim.wanted suspended (.block 0) = true ∧ sClaim.owedTo 0 = false := by decide +kernel
theorem wit_resets : ((fw 6 1 1).strands.find? fun x => x.2.handle == (1 : Word).toNat && (1 : Word).toNat != 0).isSome = true ∧
    (fw 6 2 0).fwArg 0 = Sys2Proof.word 2 ∧ bitsOf (0 : Word) 32 4 = 0 ∧ deviceReel? 76 65 = some (reelOf 41 120) ∧ deviceReel? 77 0 = none ∧
    (({ fw 6 4 30 with kites := [kite0] } : State).kites.find? fun k => k.handle == (30 : Word).toNat && (30 : Word) != 0) = some kite0 ∧
    (fw 6 5 41).parts.all (fun p => !p.hasField 41 || p.evicted) = true ∧ (fw 6 6 9).partByHandle? (9 : Word).toNat = some onePart ∧
    w0.fwDue 6 = false := by decide +kernel

/-- Firmware: an update of the control firmware in progress, its image staged, verified, activating, handed over. -/
def img0 : Image := { component := .control, version := 2, svn := 1, lengthOk := true, signatureOk := true, healthy := true }
def fwu (f : Firmware → Firmware) : State := { w0 with fw := f w0.fw, quedon := { w0.quedon with session := true } }
theorem wit_update : (fwu id).quedonUpdates = true ∧ (fwu id).quedon.session = true ∧ (fwu id).fw.update = none ∧ (fwu id).fw.handover = none ∧
    ((fwu fun f => { f with controlBanks := [(0, FwBank.factory), (1, FwBank.factory)] }).fw.inactive .control).state = 1 ∧ (fwu id).fw.minSvn < 1 := by decide +kernel
theorem wit_activate : let s := fwu fun f => { f with activating := some .control, controlBanks := [(0, FwBank.factory), (1, FwBank.factory)] }
    (s.fw.inactive .control).state = 1 ∧ s.fw.activating.isSome = true ∧ s.serving = true ∧ s.pmt.busy = false ∧ s.fw.reqStatus ≠ 1 ∧ s.fw.devMode ≠ .booting := by decide +kernel
theorem wit_handover : let s := fwu fun f => { f with handover := some 0, controlBanks := [(0, FwBank.factory), (1, FwBank.factory)] }
    s.fw.held = [] ∧ (s.fw.inactive .control).healthy = true ∧ s.tick ≤ 0 + 500000000 := by decide +kernel
def map0 : MapImage :=
  { kind := 0, magic := 0x4D464544, version := 1, serial := 0, seq := 0, reservedZero := true, keyOk := true, signatureOk := true, entries := [] }
theorem wit_map : (fwu id).mapOk map0 = true ∧ (fwu id).quedon.session = true := by decide +kernel
def bringup : State :=
  { (w0.modField 3 fun f => { f with offered := true }).modField 4 (fun f => { f with testing := true }) with parts := [], fw := { w0.fw with devMode := .bringup } }
theorem wit_selfTest : bringup.nextTest = some 3 ∧ ((upto 42).filter fun f => (bringup.field f).testing).length = 1 ∧ (bringup.field 4).testing = true := by decide +kernel
theorem wit_detection : (w0.memKind? 0x1000).isSome = true ∧ ({ kind := 1, field := 0, severity := 1, units := [.mem 0x1000], pa := 0x1000, loc := 0 } : Detection).severity = 1 := by
  decide +kernel
theorem wit_hardFault : (fwu fun f => { f with hardFaults := [3 <<< 50] }).fw.hardFaults.contains (3 <<< 50) = true ∧ entryField (3 <<< 50) = 3 := by decide +kernel
theorem wit_registers : (w0.hostPort 3).up = true ∧ w0.fw.devMode ≠ .booting ∧ (w0.queue 1023).state = .disabled := by decide +kernel
theorem wit_quedon : w0.quedonUp = true ∧ w0.quedonReg 2 = some 0x000F_4240_0020_0A07 ∧ w0.quedonReg 255 = none ∧ w0.quedon.session = false ∧
    (w0.quedon.ras.find? fun e => e.serial == 1) = none ∧ instances 0x12 = 0 ∧ instances 0x31 = 42 := by decide +kernel
def logged : RasEntry := { serial := 1, tick := 0, kind := 1, field := 0, severity := 1, code := 0, pa := 0, loc := 0, merged := 0, read := false }
theorem wit_records : let s : State := { w0 with quedon := { w0.quedon with ras := [logged], rasNext := 2, records := [(recordKey 0x11 0, [1, 2])] } }
    (s.quedon.ras.find? fun e => e.serial == 1) = some logged ∧ (s.quedon.records.find? fun x => x.1 == recordKey 0x11 0) = some (recordKey 0x11 0, [1, 2]) := by decide +kernel

/-- The power manager: a field cool since tick 0, at tick 1,000,000 and one before; stretch steps, held dividers, gating,
leases. -/
def pw (t : Nat) (g : Field → Field) : State := { State.reset.modField 3 g with tick := t }
theorem wit_power : (pw 0 id).power.railOff = false ∧ (pw 0 id).fw.handover = none ∧ (pw 0 id).power.rampAt = none ∧
    (upto 42).all (fun k => decide (([] : List Int).getD k ((pw 0 id).field k).temp ≤ 115)) = true ∧ (pw 0 id).power.count = 0 := by decide +kernel
theorem wit_hot : ((pw 1000000 fun f => { f with hot := true, coolSince := some 0 }).field 3).coolSince = some 0 ∧
    0 + 1000000 ≤ (pw 1000000 fun f => { f with hot := true, coolSince := some 0 }).tick ∧ (pw 999999 id).tick < 0 + 1000000 := by decide +kernel
theorem wit_stretch : (pw 1000 fun f => { f with stretch := [(2, 3)] }).groupStretch 35 = 3 ∧ (pw 1000 id).groupStretch 35 = 0 ∧
    ((pw 1000 id).field (35 / 11)).lastWarn.get 0 (35 % 11) + 1000 ≤ 1000 := by decide +kernel
theorem wit_divider : ((pw 1000 fun f => { f with divHold := [(2, 4)], divHoldAt := [(2, 1000)] }).field 3).divHold.get 1 2 ≠ 1 ∧
    ((pw 1000 fun f => { f with divHold := [(2, 4)], divHoldAt := [(2, 1000)] }).field 3).divHoldAt.get 0 2 ≤ 1000 := by decide +kernel
theorem wit_gate : (pw 0 fun f => { f with idleHint := true }).fieldIdle 3 = true ∧ ((pw 0 fun f => { f with idleHint := true }).field 3).gated = false := by decide +kernel
theorem wit_ungate : let s := sHit.modField 0 fun f => { f with gated := true }
    s.fieldIdle 0 = false ∧ (s.field 0).gated = true ∧ s.power.ungateAt = none := by decide +kernel
theorem wit_lease : ((w0.setCtx 0 { Context.reset with lease := some { mhz := 1600, expiry := 1000, kept := none } }).ctx 0).lease =
    some { mhz := 1600, expiry := 1000, kept := none } := by decide +kernel

/-! ### Completions, clause by clause: a poisoned row of the tile, poisoned data and a poisoned mask shut nothing out -/

def tilePoison : State := (w0.modReel 0 fun x => { x with tile := [(64, { val := 0, psn := 1 })] }).modMe fun t =>
  { t with m := [(1, SReg.poison 0x5A)], v := [(3, { val := 0, psn := 3 })] }
theorem wit_complTile : ([.atld (tr 1 4 0 0 0x20 .f32), .atst (tr 0 4 3 0 0x20 .i32), .atadd (tr 0 4 3 0 0 .f32), .atadd (tr 0 2 3 0 1 .i32),
      .atmax (tr 0 2 3 0 1 .f32), .atmax (tr 0 4 3 0 0 .i32), .atclr (tr 0 4 5 0 0 .none)] : List Instr).all (fun i => accepted i tilePoison) = true ∧
    (tilePoison.reel 0).tileBusy ≤ tilePoison.now ∧ (tilePoison.me).acqs = [] ∧ (tilePoison.me).fences = [] ∧ (tilePoison.rs 4).psn = false ∧
    (tilePoison.rs 5).psn = false ∧ ((upto 64).all fun k => (((tilePoison.me).getV 2).code k).isNone) = true ∧ 0 < (tilePoison.rs 5).val.toNat := by
  decide +kernel
theorem wit_complBoost : let s : State := { w0 with parts := [] }
    accepted (.boostReq (ti 1 4 0 1750)) s = true ∧ (s.rs 4).psn = false ∧ s.fw.handover = none ∧ s.fw.held = [] ∧ s.fw.devMode = .full ∧
      s.power.boost = true ∧ s.power.maxUs ≠ 0 ∧ (s.rs 4).val.toNat = 64 := by decide +kernel
theorem wit_complStart : startable ((withCmd fillCmd).reel 0) .copy = some fillCmd ∧ (withCmd fillCmd).partRuns 9 = true ∧ (withCmd fillCmd).cmdReady fillCmd = true ∧
    ((withCmd fillCmd).setCmd { fillCmd with started := true }).startCheck fillCmd = none := by decide +kernel
theorem wit_complEnd : (withCmd { fillCmd with ending := some 0 }).cmd? 90 = some { fillCmd with ending := some 0 } := by decide +kernel
theorem wit_complClock : let s := sKite [kclk] [] []
    (s.partByHandle? 9).bind s.configTurn? = some kclk ∧ s.cmdReady kclk = true ∧ kclk.opc = 0xB9 ∧ kclk.eng = .config ∧ kclk.held = none ∧
      kclk.walk = none ∧ kite0.halted = false := by decide +kernel
theorem wit_complFlit : ((sKite [] [mark1] []).lines.find? fun x => x.id == 40).map (·.buf) = some [mark1] ∧ (inLine [mark1] []).stopped = false := by
  decide +kernel
theorem wit_complMark : let s := sKite [] [] [mark1]
    s.kiteInputs kite0 = [inLine [] [mark1]] ∧ (inLine [] [mark1]).snk.kind = 3 ∧ mark1.mark = true ∧ s.kiteOutputs kite0 = [outLine] ∧
      outLine.space = true ∧ outLine.op = 0 ∧ outLine.gather = [] ∧ (s.lines.find? fun x => x.id == 41) = some outLine ∧
      (s.lines.find? fun x => x.id == 40) = some (inLine [] [mark1]) := by decide +kernel
theorem wit_complPeer : let s : State := { withCmd (peerCmd 0x10) with peerPorts := [(1, { PeerPort.reset with up := true })] }
    s.cmd? 90 = some (peerCmd 0x10) ∧ (peerCmd 0x10).red ≠ 0 ∧ (peerCmd 0x10).i0 = (peerCmd 0x10).total ∧ (s.peerPort 1).up = true ∧
      (peerCmd 0x10).sent = some 1 ∧ 1 + ({ s with peertmo := 1000 } : State).peertmo.toNat < s.tick := by decide +kernel

/-! ### Further clauses, each at a state of its own -/

/-- A store sent to the sealed page 2: its home refuses it and names the page; what it then does to the strand that awaits it.
-/
def rqSealed : Req := { rq with units := [{ pa := 0x20040, w := 8, pos := 0, kv := true }], left := [{ pa := 0x20040, w := 8, pos := 0, kv := true }] }
def sSealed : State := { kvw 1 none with reqs := [rqSealed] }
theorem wit_kvRefusal : sSealed.req? 5 = some rqSealed ∧ sSealed.reqHeld rqSealed = false ∧ sSealed.mustFlush rqSealed = false ∧
    sSealed.kvRefusal? rqSealed = some 2 ∧ (kvq .applied true).refused = true ∧
    ([kvq .applied true].find? fun q => q.refused) = some (kvq .applied true) := by decide +kernel
/-- A misaligned load of two units, both in L1; a request at device scope over a dirty sector of its reel. -/
def rd2 : Acc := { rd with units := [{ pa := 0x1001, w := 4, pos := 0 }, { pa := 0x1005, w := 4, pos := 4 }] }
theorem wit_loadUnits : (cached 0).hitsL1 rd2 = true ∧ (cached 0).orderOf rd2 = [] ∧ rd2.units.length = 2 := by decide +kernel
def sFlush : State := { cached 1 with reqs := [rqAdd] }
theorem wit_flush : sFlush.req? 5 = some rqAdd ∧ sFlush.reqHeld rqAdd = false ∧ sFlush.mustFlush rqAdd = true ∧ rqAdd.stage = .sent := by
  decide +kernel
/-- A release that has a dirty sector to wait for: BARA, COLL, ERET and EVPOST go out as requests. -/
theorem wit_releaseWaits : ((cached 1).releaseDeps 3).1 ≠ [] ∧ issues (.bara (ta 1 0 7 0 0 .none 3 2)) (cached 1) = true ∧ (cached 1).myPart? = some onePart ∧
    (cached 1).replayFull 0 (unitHome 9) = false ∧ issues (.eret (ts 1 4 0 0)) (cached 1) = true ∧
    (let s := (cached 1).setCtx 0 { Context.reset with live := true }
     issues (.evpost (ts 1 7 0 0)) s = true ∧ (s.releaseDeps 3).1 ≠ [] ∧ (s.ctx 0).live = true ∧ bitsOf (s.rs 7).val 0 5 = 2) ∧
    (let s := wc.modReel 0 fun x => { x with l1 := [(32, sec 1)] }
     issues (.coll (ta 1 4 5 0 0 .i64 3 2)) s = true ∧ (s.releaseDeps 3).1 ≠ []) := by decide +kernel
/-- Sixteen invalidations are open at a field, so that TLBINV is held; EVPOST of device mode to a context that does not exist.
-/
theorem wit_tlbinvHeld : accepted (.tlbinv (ts 1 4 0 0)) { w0 with invs := List.replicate 16 (tinv 0) } = true ∧
    ((List.replicate 16 (tinv 0)).filter fun v => v.waiting.getLsbD 41).length = 16 ∧ (w0.me).mode = .device ∧ (w0.ctx 0).live = false := by
  decide +kernel
/-- Sources with a poisoned granule, under a poisoned mask or a clean one: no vector instruction is kept from issuing. -/
def vpoison : State := (base [bad 4, reg 5 0]).modMe fun t =>
  { t with m := [(1, SReg.poison 0x5A), (2, SReg.clean 5)], v := [(2, { val := 0x5A, psn := 1 }), (3, { val := 0, psn := 3 })] }
theorem wit_vecPoison : all [.vabs (v1f 0x20 .f32), .vadd (vf 0x40 .f32), .vfma (tr 1 2 3 4 0 .f16), .vacs (tr 1 2 3 4 0x15 .i16), .vcmp (vf 8 .f32), .vcmp (vf 0 .f32),
      .vsel (vf 1 .none), .vcvt (v1f 0x0B .i32), .vbcast (tr 1 4 0 0 0 .i8), .viota (tr 1 4 5 0 0 .n16), .vperm (tr 1 2 3 4 1 .n32), .vshuf (vf 0 .n16),
      .vscan (v1f 0x20 .f32), .vexpd (v1f 0x40 .n32), .vcomp (v1f 0x40 .n32), .vcvt (tr 16 3 0 0 0x0C .f32), .vqnt (tr 1 2 0 0 0x0B .mx4),
      .vdqnt (tr 4 2 0 0 0x0E .f32), .vins (tr 2 4 5 0 0 .i16), .vext (tr 1 2 5 0 0 .i8), .vred (v1f 0x20 .i32), .mlog (tr 1 1 2 0 6 .none),
      .mpopc (tr 1 1 0 0 0 .none), .mfirst (tr 1 1 0 0 0 .none)] vpoison = true ∧ ((vpoison.me).getV 2).code 0 = some 0x5A ∧
    ((vpoison.me).getM 1).code = some 0x5A ∧ RF.low (vf 8 .f32) / 8 = 1 ∧ Ty.lane .f32 = Ty.lane .i32 := by decide +kernel
/-- A page whose header is poisoned while it is staged, and while it is closed. -/
theorem wit_headerPoison : let s (c : ConvStep) : State := { kvw 1 (some c) with mpsn := [(0x20000 / 4, true)] }
    (s .staging).kvHeaderPoisoned 2 = true ∧ ((s .staging).ageing? 3).conv = some { page := 2, ctx := 0, step := .staging } ∧
      (s .closing).kvHeaderPoisoned 2 = true ∧ (kvw 1 (some .staging)).kvHeaderPoisoned 2 = false := by decide +kernel
/-- DESTROY with KILL of a queue that has a task in flight. -/
theorem wit_kill : let s : State := { port 0 0x7_0000_0003 0 true with tasks := [task0] }
    s.qctlDue 1 7 3 = true ∧ (s.queue 7).state = .active ∧ task0.queue = 7 ∧ task0.killed = false ∧ task0.signalled = none := by decide +kernel
/-- A command that runs needs no gated field; fields become suspect outside Safe Service. -/
theorem wit_ungated : (sKite [kclk] [] []).configFields onePart kclk = [0, 0] ∧ ((sKite [kclk] [] []).field 0).gated = false ∧ w0.fw.devMode ≠ .safe := by
  decide +kernel
/-- A suspension that has begun is not judged again. -/
theorem wit_pmtBegun : onePart.stopped = false ∧ ({ onePart with stopped := true } : Partition).suspended = false := by decide
theorem wit_rail : State.reset.power.railOff = false ∧ ({ State.reset with power := { Power.reset with railOff := true } } : State).power.railOff = true := by
  decide
theorem wit_noRecords : w0.quedon.records = [] ∧ instances 0x71 = 20 ∧ w0.quedonUp = true := by decide +kernel
/-- CAP is raised from 16,000 W, lowered to it while 19,600 W are drawn (the example under R447), and kept. -/
theorem wit_cap : capOf 480 = 24000 ∧ capOf 320 = 16000 ∧ ({ Power.reset with capNow := 320 } : Power).capW < capOf 480 ∧
    capOf 320 < Power.reset.capW ∧ capOf 320 < 19600 := by decide
theorem wit_window : let s : State := { State.reset with tick := 3000000, power := { Power.reset with windowNo := 2, above := 24000 } }
    s.power.windowNo < s.tick / 1000000 ∧ 2 < s.tick / 1000000 ∧ s.power.above / 1000 = 24 := by decide
theorem wit_relax : ((pw 1000 fun f => { f with stretch := [(2, 3)] }).clockGroup 35).all
    (fun d => decide (((pw 1000 id).field (d / 11)).lastWarn.get 0 (d % 11) + 1000 ≤ 1000)) = true := by decide +kernel

/-! ### Traps, vector memory and units of engines, form by form -/

/-- A word with a reserved bit set at the reset vector: the strand that meets it is READY, and its step takes ILLEGAL with that
word. -/
def sBadWord : State := { (State.reset.placeWord 0x0100_30C2_0000_0001) with agenda := [] }
theorem wit_illegalWord : (State.advance sBadWord 0).power.railOff = false ∧ ((State.advance sBadWord 0).field 0).gated = false ∧
    (let v := ((State.advance sBadWord 0).startCycle 0).settleFaulted 0
     (State.lookAll 0 (v.reel 0).order v).1 = [(0, .illegal 0x0100_30C2_0000_0001)]) := by decide +kernel
def sIllHit : State := { sBadWord.modReel 0 fun x => { x with icache := [(0, 0x0100_30C2_0000_0001)] } with cur := { reel := 0, slot := 0 } }
theorem wit_illegalLook : (sIllHit.me).phase = .live ∧ (sIllHit.me).wait = .none ∧ (sIllHit.me).stopped (sIllHit.reel 0).cycle = false ∧
    sIllHit.fetch sIllHit.cur = .word 0x0100_30C2_0000_0001 ∧ decode 0x0100_30C2_0000_0001 = .error .reserved :=
  ⟨by decide +kernel, by decide +kernel, by decide +kernel, by decide +kernel, rfl⟩
theorem test_illegal_step : (match step (State.reset.withFetchWord 64 0x0100_30C2_0000_0001) with
    | .next t => (t.me).phase
    | _ => .free) = .faulted := by decide +kernel

/-- Vector memory under mask m1, of lane 0 alone or of lanes 0 and 1: the elements lie in L1, or not; poisoned data; a KV page; a
page that is not translated, and one that has no entry. -/
def vmk (m : Word) (s : State) : State := s.modMe fun t => { t with m := [(1, SReg.clean m)], v := [(2, vec 32 [5, 6]), (3, { val := 0, psn := 1 })] }
def vm1 : MF := { vm with scope := 1 }
def vu (s : State) : List Unit' := (enabledElems s.me vm1).map fun k => { pa := 0x1000 + 4 * k, w := 4, pos := 4 * k }
theorem wit_vmemHits : let s := vmk 3 (cached 0)
    enabledElems s.me vm1 = [0, 1] ∧ (vecAddrCodes s vm1 .unit [0, 1]).findSome? id = none ∧ all [.vld vm1, .vst vm1] s = true ∧
    s.xlParts .read .device [(0x1000, 4), (0x1004, 4)] = .ok [(0x1000, 4, lf), (0x1004, 4, lf)] ∧
    s.hitsL1 { op := .read true, units := vu s, dst := .v 2 } = true ∧ s.hitsL1 { op := .write true, units := vu s } = true ∧
    s.orderOf { op := .read true, units := vu s, dst := .v 2 } = [] ∧ s.orderOf { op := .write true, units := vu s } = [] ∧
    ((vu s).all fun u => (upto 4).all fun i => ((s.reel 0).l1Byte (u.pa + i)).2.isNone) = true ∧
    (vmk 1 w0).hitsL1 { op := .read true, units := vu (vmk 1 w0), dst := .v 2 } = false ∧ enabledElems (vmk 1 w0).me vm1 = [0] := by decide +kernel
theorem wit_vmemStops : let s := vmk 3 w0
    (((s.me).getV 3).code 0).isSome = true ∧ issues (.vst { vm1 with dst := 3 }) s = true ∧ issues (.vst vm1) (vmk 3 (kv none [])) = true ∧
    (vmk 3 (kv none [])).xlParts .write .device [(0x1000, 4), (0x1004, 4)] = .ok [(0x1000, 4, kvLeaf), (0x1004, 4, kvLeaf)] ∧
    (let u := s.modReel 0 fun x => { x with tlb := [] }
     u.xlParts .read .device [(0x1000, 4), (0x1004, 4)] = .miss 0x1000 ∧ u.xlParts .write .device [(0x1000, 4), (0x1004, 4)] = .miss 0x1000) ∧
    (match s.xlParts .read .device [(0x0100_0000_0000_0000, 4)] with | .fault y => y.cls == 6 | _ => false) = true := by decide +kernel

/-- Traps: a poisoned IDX; a misaligned acquire and release; data that is poisoned; of SPKILL a poisoned length, a misaligned one
and a range beyond the store; an address beyond the 56 bits that translate. -/
def wt0 : State := base [reg 4 64, reg 5 7, reg 6 0x1000, bad 7, reg 8 1024, reg 9 0x7FC00, reg 10 2048, reg 11 0x0100_0000_0000_0000, reg 12 0x1008, reg 13 0x11000]
def xlFaults (x : XlAll) : Bool := match x with
  | .fault y => y.cls == 6
  | _ => false
theorem wit_memTrapForms : all [.ld (tm 1 6 7 0 .n64), .spkill (tm 4 6 7 0 .none), .ld { tm 1 5 0 0 .n64 with ord := 1, scope := 3 },
      .st { tm 1 5 0 0 .n64 with ord := 2, scope := 3 }, .st (tm 7 6 0 0 .n64), .strel { tm 7 6 0 0 .n64 with scope := 3 }, .spkill (tm 7 9 0 0 .none),
      .spkill (tm 4 9 0 0 .none), .spkill (tm 8 5 0 0 .none), .spkill (tm 10 9 0 0 .none), .ld (tm 1 11 0 0 .n64), .st (tm 1 11 0 0 .n64),
      .ldacq { tm 1 11 0 0 .n64 with scope := 3 }, .strel { tm 1 11 0 0 .n64 with scope := 3 }, .cline (tm 0 11 0 0 .none)] wt0 = true ∧
    (wt0.rs 7).code = some 0x5A ∧ (eaOf wt0 (tm 1 5 0 0 .n64)).toNat % 8 ≠ 0 ∧ (wt0.rs 9).val.toNat + (wt0.rs 10).val.toNat = 0x80400 ∧
    wt0.xlParts .write .device (pageParts (eaOf wt0 (tm 7 6 0 0 .n64)) 8) = .ok [(0x1000, 8, lf)] ∧
    xlFaults (wt0.xlParts .read .device (pageParts (eaOf wt0 (tm 1 11 0 0 .n64)) 8)) = true ∧
    xlFaults (wt0.xlParts .write .device (pageParts (eaOf wt0 (tm 1 11 0 0 .n64)) 8)) = true ∧
    (match wt0.translate 0 0 (eaOf wt0 (tm 0 11 0 0 .none)) .read .supervisor with | .fault y => y.cls == 6 | _ => false) = true := by decide +kernel
/-- Atomics: poisoned and misaligned addresses, locations that overlap, poisoned data, KV pages, pages of host memory, and two
virtual pages of one physical page. -/
def xchg : AF := ta 1 6 7 0 0 .n64 3 0
def wtHost : State :=
  { wt0.modReel 0 fun x => { x with tlb := [{ probeLeaf with entry := Sys2Proof.word hostBase ||| 0x2C00_0000_0000_001F }] } with
      hostWins := [(0, { base := 0, size := 0x10000, ports := 1 })] }
def wtTwice : State := wt0.modReel 0 fun x => { x with tlb := [probeLeaf, { probeLeaf with base := 0x10000 }] }
theorem wit_atomicTraps : all [.aadd (ta 1 7 5 0 0 .n64 3 0), .amove (ta 1 6 5 0 7 .n64 3 0), .aadd (ta 1 5 4 0 0 .n64 3 0), .amove (ta 1 6 5 0 6 .n64 3 0),
      .amove (ta 1 6 5 0 5 .n64 3 0), .aadd (ta 1 11 5 0 0 .n64 3 0), .axchg xchg, .acas (ta 1 6 5 7 0 .n64 3 0)] wt0 = true ∧
    rangesMeet 0x1000 0x1000 8 = true ∧ xlFaults (wt0.xlParts .write .device [(0x0100_0000_0000_0000, 8)]) = true ∧
    issues (.aadd at1) (kv none []) = true ∧ (kv none []).xlParts .write .device [(0x1000, 8)] = .ok [(0x1000, 8, kvLeaf)] ∧ pteKv kvLeaf = true ∧
    issues (.amove (ta 1 6 5 0 12 .n64 3 0)) wtHost = true ∧ wtHost.memKind? (hostBase + 0x1000) = some .host ∧
    wtHost.xlParts .write .device [(0x1000, 8)] = .ok [(hostBase + 0x1000, 8, Sys2Proof.word hostBase ||| 0x2C00_0000_0000_001F)] ∧
    issues (.amove (ta 1 6 5 0 13 .n32 3 0)) wtTwice = true ∧ wtTwice.xlParts .write .device [(0x1000, 4), (0x11000, 4)] = .ok [(0x1000, 4, lf), (0x1000, 4, lf)] := by
  decide +kernel
/-- WAITA, BARA and BARW with each operand poisoned in turn, misaligned, untranslated, and on a reel of no partition. -/
theorem wit_waitTraps : all [.waita (ta 1 7 5 4 0 .n64 3 1), .waita (ta 1 6 7 4 0 .n64 3 1), .waita (ta 1 6 5 7 0 .n64 3 1), .waita (ta 1 5 5 4 0 .n64 3 1),
      .waita (ta 1 11 5 4 0 .n64 3 1), .bara (ta 1 7 5 0 0 .none 3 0), .bara (ta 1 0 7 0 0 .none 3 0), .barw (ta 1 7 0 0 0 .none 3 0), .barw (ta 1 0 7 0 0 .none 3 0)] wt0 =
      true ∧ xlFaults (wt0.xlParts .read .device [(0x0100_0000_0000_0000, 8)]) = true ∧
    all [.bara (ta 1 0 5 0 0 .none 3 0), .barw (ta 1 0 5 0 0 .none 3 0)] { wt0 with parts := [] } = true ∧ ({ wt0 with parts := [] } : State).myPart? = none := by
  decide +kernel

/-- Units of engines, on a local store that is live and FULL: COPY between ranges of it, to memory, to a peer; an element of GATHR
and SCATR, with an index at 0x1000 that is 0, or poisoned. -/
def ew (c : Cmd) : State := (withCmd c).modReel 0 fun x => { x with lsLive := BitVec.allOnes 512 }
def mv (opc : Nat) (cmd : BitVec 11) (a b c : Word) : Cmd :=
  { cmdOf opc (te 1 0 0 0 0 cmd .i32) .copy with started := true, a := a, b := b, c := c, d := 2 }
def cpLs : Cmd := mv 0xA4 5 0x100 0x200 16
def cpMem : Cmd := mv 0xA4 4 0x1000 0x200 16
def cpPeer : Cmd := mv 0xA4 6 0x0007_0300_0000_0040 0x200 16
def cp2d : Cmd := { mv 0xA5 5 0x100 0x200 0x2_0000_0008 with d := 0x10_0000_0010 }
def gth : Cmd := mv 0xA7 0x12 0x100 0x1000 0x1000
def sct : Cmd := mv 0xA8 0x12 0x1000 0x100 0x1000
theorem wit_moveUnits : [cpLs, cpMem, cpPeer, cp2d, gth, sct].all (fun c => (ew c).cmd? 90 == some c && !(ew c).cmdBlocked c && decide (c.pos < c.total)) = true ∧
    cpLs.dk = 1 ∧ cpLs.sk = 1 ∧ cpMem.dk = 0 ∧ cpPeer.dk = 2 ∧ gth.dk = 1 ∧ gth.sk = 0 ∧ sct.dk = 0 ∧ sct.sk = 1 ∧ gth.idxBytes = 4 ∧ gth.elem = 4 ∧
    wholeGranules 0x100 16 16 = 16 ∧ ((ew cpLs).reel 0).lsReadable 0x200 16 = true ∧ ((ew cpLs).reel 0).lsPsn = [] ∧
    (lsBanksOf 0x100 16 ++ lsBanksOf 0x200 16).all (fun b => (((ew cpLs).reel 0).lsBank b).supply == .full) = true ∧
    (ew cpMem).cmdParts cpMem .write (pageParts 0x1000 16) = .ok [(0x1000, 16, lf)] ∧ (ew cpMem).partWaits cpMem false (0x1000, 16, lf) = false ∧
    (ew gth).cmdParts gth .read (pageParts 0x1000 4) = .ok [(0x1000, 4, lf)] ∧ (ew gth).partWaits gth true (0x1000, 4, lf) = false ∧
    (ew gth).mpsn = [] ∧ ({ ew cpPeer with peerPorts := [(1, { PeerPort.reset with up := true })] } : State).peersOn = [1] ∧
    (firstCode ((upto 4).map fun i => ({ ew sct with mpsn := [(0x400, true)] } : State).engineByte 0 (0x1000 + i))).isSome = true := by decide +kernel

/-- The feed line and the drain line of reel 0; a mark to send, a token, an open token that is full, a mark that ends a drain, and a
token for the tile, the ring, memory and a register. -/
def fline : Line := line 42 (feedPort 0 0) (drainPort 1 0) [] []
def dline (f : Flit) : Line := line 43 (feedPort 1 0) (drainPort 0 0) [] [f]
def data2 : Flit := dataFlit 0 1 (List.replicate 128 0x38) none (BitVec.allOnes 32)
def lw (c : Cmd) (f : Flit) : State :=
  { ew c with lines := [fline, dline f] }
def feed (cmd : BitVec 11) : Cmd := { cmdOf 0xA0 (te 1 0 0 0 0 cmd .none) .feed with started := true, a := 0x200, b0 := some 5, b1 := some 3, b2 := some 3, b3 := some 3 }
def drain (cmd : BitVec 11) : Cmd := { cmdOf 0xA1 (te 1 0 0 0 8 cmd .f32) .feed with started := true, a := 0x1000, c := 0x100, d := 0x400, sd := 8 }
theorem wit_streamUnits : [feed 0x10, { feed 0x10 with stage := 1 }, { feed 0x400 with open_ := List.replicate 32 1 },
      { cmdOf 0xA3 (te 1 0 0 0 0 3 .none) .feed with started := true }].all (fun c => (lw c data2).cmd? 90 == some c && !(lw c data2).cmdBlocked c &&
        (lw c data2).feedLine? c == some fline) = true ∧
    (lw (feed 0x10) data2).tagOk fline 0 = true ∧ fline.stopped = false ∧ fline.space = true ∧ fline.op = 0 ∧ fline.gather = [] ∧ (feed 0x10).toBegin = none ∧
    (feed 0x10).feedAddr = 0x200 ∧ ((lw (feed 0x10) data2).reel 0).lsReadable 0x200 128 = true ∧ (lw (feed 0x10) data2).tokenBytes fline 0 false = 128 ∧
    [drain 0, drain 1, drain 2, drain 3, drain 4, drain 8].all (fun c => (lw c data2).cmd? 90 == some c && !(lw c data2).cmdBlocked c &&
      (lw c data2).drainLine? c == some (dline data2)) = true ∧ data2.mark = false ∧ data2.psn = none ∧ mark1.mark = true ∧ (drain 2).ringBad = false ∧
    (lw (drain 3) data2).cmdParts (drain 3) .write (pageParts 0x1000 256) = .ok [(0x1000, 256, lf)] ∧
    ((lw (drain 4) data2).slotOf? 0 0 1).isSome = true ∧ ((we.me).bank 2).supply = .full := by decide +kernel

/-- KV commands on page 2, the KV page of `page`: rows to registers, to the local store, as tokens; a start row beyond NTOK; two rows
to append; a fresh header; a seal. -/
def kvc (opc : Nat) (cmd : BitVec 11) (b : Word) (stage : Nat) : Cmd :=
  { cmdOf opc (te 1 0 0 7 8 cmd .f32) .copy with started := true, a := 0x20000, b := b, c := 2, d := 0x400, stage := stage, i0 := 32 }
def kvs (c : Cmd) : State :=
  { (ew c).modReel 0 (fun x => { x with tlb := [{ probeLeaf with base := 0x20000, entry := kvLeaf ||| 0x20000 }] }) with mem := page 0, lines := [fline] }
theorem wit_kvUnits : [kvc 0xA9 0 0x1_0000 0, kvc 0xA9 1 0x1_0000 0, kvc 0xA9 2 0x1_0000 0, kvc 0xA9 0 0x3_0000 0, kvc 0xAA 0 0x200 1, kvc 0xAA 1 0x40 0,
      kvc 0xAB 0 0 0].all (fun c => (kvs c).cmd? 90 == some c && !(kvs c).cmdBlocked c && !(kvs c).kvBehind c &&
        (kvs c).cmdParts c .read [(0x20000, 1)] == .ok [(0x20000, 1, kvLeaf ||| 0x20000)] &&
        (kvs c).cmdParts c .write [(0x20000, 1)] == .ok [(0x20000, 1, kvLeaf ||| 0x20000)]) = true ∧
    (let s := kvs (kvc 0xA9 0 0x1_0000 0)
     s.kvClosed 2 = false ∧ s.replayFull 0 (s.homeField 0x20000) = false ∧ s.kvHeaderOk 0x20000 = true ∧ s.kvNtok 0x20000 = 2 ∧ s.kvField 0x20000 3 1 = 0 ∧
      s.kvHdim 0x20000 = 32 ∧ s.kvCap 0x20000 = 2046 ∧ (kvc 0xA9 0 0x1_0000 0).kvBytes s 0x20000 1 = 128 ∧ s.feedLine? (kvc 0xA9 2 0x1_0000 0) = some fline ∧
      s.kvState 2 = some 0 ∧ kvHdimOk 0x40 = true ∧ s.mpsn = [] ∧ (s.slotOf? 0 0 1).isSome = true ∧ (s.reel 0).lsReadable 0x200 256 = true ∧
      firstCode (s.kvRows 0x20000 .f32 0 1 4) = none) := by decide +kernel

/-- Commands of the configuration unit on the kite of `sKite`, whose lines are quiet or not, and a route between two reels. -/
def kcfg (opc : Nat) (cmd : BitVec 11) (a b c d : Word) : Cmd := { cmdOf opc (te 1 0 0 0 8 cmd .none) .config with a := a, b := b, c := c, d := d }
def kroute : Cmd := kcfg 0xB6 0 0x2000_4000_1000_0002 0 0x0008_0008 40
theorem wit_kiteUnits : [kcfg 0xB1 0 30 0 0 0, kcfg 0xB2 0 30 1 0 0, kcfg 0xB3 1 30 0x100 0 0, kcfg 0xB4 0 30 0 0 0, kcfg 0xB5 1 30 0x0101 0 0, kcfg 0xB8 0 30 0 0 0,
      kcfg 0xB8 3 30 0 0 0, kcfg 0xB8 3 30 0xFF 0 0, kroute, kcfg 0xB7 0 0x1000_0002 0 0 0].all (fun c => let s := sKite [c] [] []
        s.partByHandle? 9 == some { onePart with cfgQ := [c] } && s.configTurn? { onePart with cfgQ := [c] } == some c && s.cmd? 90 == some c && s.cmdReady c &&
        (s.configFields { onePart with cfgQ := [c] } c).all (fun f => !(s.field f).gated) && c.ending == none && c.held == none && c.walk == none) = true ∧
    (let c := kcfg 0xB1 0 30 0 0 0
     let s := sKite [c] [] []
     (s.kites.find? fun k => Sys2Proof.word k.handle == c.a && k.handle != 0 && k.ctx == c.ctx && k.part == c.part) = some kite0 ∧ s.kite? 30 = some kite0 ∧
      kite0.swap = none ∧ (s.kiteInputs kite0 ++ s.kiteOutputs kite0).all s.lineQuiet = true ∧
      ((sKite [c] [mark1] []).kiteInputs kite0 ++ (sKite [c] [mark1] []).kiteOutputs kite0).all (sKite [c] [mark1] []).lineQuiet = false) ∧
    (kite0.rect 0).isSome = true ∧ ctxBad 0 0 = false ∧ 1 ≤ kite0.rows ∧ kite0.rows ≤ 0xFF ∧ kite0.shadowBad = [] ∧
    (let s := sKite [kroute] [] []
     let p : Partition := { onePart with cfgQ := [kroute] }
     (match s.portOf p kroute 0x1000_0002 true, s.portOf p kroute 0x2000_4000 false with
      | .ok (a, sx, sy), .ok (b, tx, ty) => s.portFree 9 a && s.portFree 9 b && (match routeOf p 0 sx sy tx ty with
          | .ok (_, hops) => s.fixedOk a b 8 8 40 hops false
          | _ => false)
      | _, _ => false) = true ∧ filterBad 0 false 8 false = false ∧ s.lines.length < 16) := by decide +kernel

/-- The field of a reply's strand and of a launch's reel is not gated. -/
theorem wit_reelRuns : sArr.reelRuns 0 = true ∧ (sq (qq (some (pk launch)) none) []).reelRuns (onePart.reel 0 0) = true := by decide +kernel

/-! ### Binding (R424, R425, R428, R432): the manual's examples -/

/-- R432: connections 10 and 25 of group 0 are faulty. -/
theorem test_repair : repairWord [10, 25] false false = some 0x998A := by decide
theorem test_carrier : [carrier 0x998A 9, carrier 0x998A 10, carrier 0x998A 23, carrier 0x998A 24, carrier 0x998A 63] =
    [some 9, some 11, some 24, some 26, some 65] := by decide +kernel
theorem test_threeFaults : repairWord [1, 2, 3] false false = none := by decide

/-- R424: rows 5 and 70 of field 17 are removed, and column 40. -/
theorem test_rows : [4, 5, 68, 69, 87].map (nthGood 96 [5, 70]) = [some 4, some 6, some 69, some 71, some 89] := by decide +kernel
theorem test_columns : [39, 40, 87].map (nthGood 96 [40]) = [some 39, some 41, some 88] := by decide +kernel

end Sys2Proof.Machine.Tests
end

section
/-! SUPPORT. Integer values modulo 2^w: how an operand is read and a result is written (R69, R196). -/

namespace Sys2Proof

/-! ## Equality modulo 2^w -/

/-- Two integers are equal mod 2^w. -/
def EqMod (w : Nat) (a b : Int) : Prop := ∃ k : Int, a = b + k * ((2 ^ w : Nat) : Int)

theorem EqMod.refl (w : Nat) (a : Int) : EqMod w a a := ⟨0, by rw [Int.zero_mul, Int.add_zero]⟩

theorem EqMod.trans {w : Nat} {a b c : Int} (h₁ : EqMod w a b) (h₂ : EqMod w b c) : EqMod w a c := by
  obtain ⟨k, hk⟩ := h₁
  obtain ⟨l, hl⟩ := h₂
  exact ⟨l + k, by rw [hk, hl, Int.add_mul, Int.add_assoc]⟩

/-- Integers equal mod 2^w are equal modulo any smaller power of two. -/
theorem EqMod.of_le {w n : Nat} (hw : w ≤ n) {a b : Int} (h : EqMod n a b) : EqMod w a b := by
  obtain ⟨k, hk⟩ := h
  have hpow : ((2 ^ n : Nat) : Int) = ((2 ^ (n - w) : Nat) : Int) * ((2 ^ w : Nat) : Int) := by
    rw [← Int.natCast_mul, ← Nat.pow_add, Nat.sub_add_cancel hw]
  exact ⟨k * ((2 ^ (n - w) : Nat) : Int), by rw [hk, hpow, Int.mul_assoc]⟩

theorem emod_eqMod (w : Nat) (v : Int) : EqMod w (v % ((2 ^ w : Nat) : Int)) v :=
  ⟨-(v / ((2 ^ w : Nat) : Int)), by rw [Int.emod_def, Int.neg_mul, Int.mul_comm (v / _)]; rfl⟩

theorem mod_eqMod (w n : Nat) : EqMod w ((n % 2 ^ w : Nat) : Int) n := by
  rw [Int.natCast_emod]; exact emod_eqMod w n

theorem emod_toNat_eqMod (w : Nat) (v : Int) : EqMod w ((v % ((2 ^ w : Nat) : Int)).toNat : Int) v := by
  rw [Int.toNat_of_nonneg (Int.emod_nonneg _ (Int.natCast_ne_zero.2 (Nat.ne_of_gt (Nat.two_pow_pos w))))]
  exact emod_eqMod w v

/-- Of integers equal mod 2^w, an interval of 2^w holds no two. -/
theorem EqMod.eq_of_mem_range {w : Nat} {a b lo : Int} (h : EqMod w a b) (ha : lo ≤ a) (ha' : a < lo + (2 ^ w : Nat))
    (hb : lo ≤ b) (hb' : b < lo + (2 ^ w : Nat)) : a = b := by
  obtain ⟨k, hk⟩ := h
  have hmod : (a - lo) % ((2 ^ w : Nat) : Int) = (b - lo) % ((2 ^ w : Nat) : Int) := by
    rw [show a - lo = b - lo + k * ((2 ^ w : Nat) : Int) by omega, Int.add_mul_emod_self_right]
  rw [Int.emod_eq_of_lt (by omega) (by omega), Int.emod_eq_of_lt (by omega) (by omega)] at hmod
  omega

theorem signed_eqMod (w n : Nat) : EqMod w (signed w n) n := by
  refine EqMod.trans ?_ (mod_eqMod w n)
  unfold signed
  dsimp only
  split
  · exact ⟨-1, by omega⟩
  · exact EqMod.refl _ _

theorem intVal_eqMod (w : Nat) (sgn : Bool) (x : Nat) : EqMod w (intVal w sgn x) x := by
  cases sgn
  · exact mod_eqMod w x
  · exact signed_eqMod w x

theorem wrapNat_eqMod (w : Nat) (v : Int) : EqMod w (wrapNat w v) v := emod_toNat_eqMod w v

theorem wordOfInt_eqMod (v : Int) : EqMod 64 (wordOfInt v).toNat v := by
  rw [wordOfInt, BitVec.toNat_ofInt]
  exact emod_toNat_eqMod 64 v

theorem word_eqMod (n : Nat) : EqMod 64 (word n).toNat n := by
  rw [word, BitVec.toNat_ofNat]
  exact mod_eqMod 64 n

/-! ## Range -/

/-- The range of a type is an interval of 2^w. -/
theorem tmin_add_two_pow {w : Nat} (hw : 0 < w) (sgn : Bool) : tmin w sgn + (2 ^ w : Nat) = tmax w sgn + 1 := by
  have hhalf := Nat.two_pow_pred_mul_two hw
  cases sgn
  · simp only [tmin, tmax, Bool.false_eq_true, if_false]; omega
  · simp only [tmin, tmax, if_true]; omega

theorem tmin_le_tmax {w : Nat} (hw : 0 < w) (sgn : Bool) : tmin w sgn ≤ tmax w sgn := by
  have hspan := tmin_add_two_pow hw sgn
  have hpos := Nat.two_pow_pos w
  omega

theorem intVal_mem_range {w : Nat} (hw : 0 < w) (sgn : Bool) (x : Nat) :
    tmin w sgn ≤ intVal w sgn x ∧ intVal w sgn x ≤ tmax w sgn := by
  have hlt : x % 2 ^ w < 2 ^ w := Nat.mod_lt _ (Nat.two_pow_pos w)
  have hhalf := Nat.two_pow_pred_mul_two hw
  cases sgn
  · simp only [tmin, tmax, intVal, Bool.false_eq_true, if_false]; omega
  · simp only [tmin, tmax, intVal, signed, if_true]
    split <;> omega

/-! ## Scalar types (R103) -/

theorem Ty.bits_pos (t : Ty) : 0 < t.bits := by cases t <;> decide

theorem Ty.bits_le (t : Ty) : t.bits ≤ 64 := by cases t <;> decide

/-- The exact value that a result stands for: clamped under SAT (R69). -/
def satVal (t : Ty) (sat : Bool) (v : Int) : Int :=
  if sat then min (max v (tmin t.bits t.sgn64)) (tmax t.bits t.sgn64) else v

theorem satVal_of_mem {t : Ty} {v : Int} (sat : Bool) (hlo : tmin t.bits t.sgn64 ≤ v) (hhi : v ≤ tmax t.bits t.sgn64) :
    satVal t sat v = v := by
  cases sat
  · rfl
  · rw [satVal, if_pos rfl, Int.max_eq_left hlo, Int.min_eq_left hhi]

theorem satVal_of_lt {t : Ty} {v : Int} (h : v < tmin t.bits t.sgn64) : satVal t true v = tmin t.bits t.sgn64 := by
  rw [satVal, if_pos rfl, Int.max_eq_right (Int.le_of_lt h), Int.min_eq_left (tmin_le_tmax t.bits_pos _)]

theorem satVal_of_gt {t : Ty} {v : Int} (h : tmax t.bits t.sgn64 < v) : satVal t true v = tmax t.bits t.sgn64 := by
  have hle := tmin_le_tmax t.bits_pos t.sgn64
  rw [satVal, if_pos rfl, Int.max_eq_left (by omega), Int.min_eq_right (by omega)]

/-- A result, widened to 64 bits, keeps its value mod 2^w. -/
theorem result_eqMod (t : Ty) (sat : Bool) (v : Int) : EqMod t.bits (result t sat v).toNat (satVal t sat v) := by
  have hb : EqMod t.bits (intResult t.bits t.sgn64 sat v) (satVal t sat v) := wrapNat_eqMod _ _
  unfold result
  dsimp only
  split
  · exact (((wordOfInt_eqMod _).of_le t.bits_le).trans (signed_eqMod _ _)).trans hb
  · exact ((word_eqMod _).of_le t.bits_le).trans hb

theorem opnd_eqMod (t : Ty) (x : Word) : EqMod t.bits (opnd t x) x.toNat := intVal_eqMod _ _ _

theorem opnd_mem_range (t : Ty) (x : Word) : tmin t.bits t.sgn64 ≤ opnd t x ∧ opnd t x ≤ tmax t.bits t.sgn64 :=
  intVal_mem_range t.bits_pos _ _

theorem opnd_result_eqMod (t : Ty) (sat : Bool) (v : Int) : EqMod t.bits (opnd t (result t sat v)) (satVal t sat v) :=
  (opnd_eqMod t _).trans (result_eqMod t sat v)

/-- A result whose exact value the type holds, after SAT, reads back as that value. -/
theorem opnd_result {t : Ty} {sat : Bool} {v u : Int} (hu : satVal t sat v = u) (hlo : tmin t.bits t.sgn64 ≤ u)
    (hhi : u ≤ tmax t.bits t.sgn64) : opnd t (result t sat v) = u := by
  obtain ⟨hxlo, hxhi⟩ := opnd_mem_range t (result t sat v)
  have hspan := tmin_add_two_pow t.bits_pos t.sgn64
  have heq : EqMod t.bits (opnd t (result t sat v)) u := hu ▸ opnd_result_eqMod t sat v
  exact heq.eq_of_mem_range hxlo (by omega) hlo (by omega)

/-- Settles O14: a value of the type is determined by its residue mod 2^w, which reading and writing both keep. -/
theorem integerResults : Obligations.IntegerResults := by
  unfold Obligations.IntegerResults
  intro t _ sat v x
  have hle := tmin_le_tmax t.bits_pos t.sgn64
  obtain ⟨hxlo, hxhi⟩ := opnd_mem_range t x
  refine ⟨fun hlo hhi => ?_, fun hlt => ?_, fun hgt => ?_, opnd_result_eqMod t false v, hxlo, hxhi, opnd_eqMod t x⟩
  · exact opnd_result (satVal_of_mem sat hlo hhi) hlo hhi
  · exact opnd_result (satVal_of_lt hlt) (Int.le_refl _) hle
  · exact opnd_result (satVal_of_gt hgt) hle (Int.le_refl _)

end Sys2Proof
end

section
/-! SUPPORT. Bits of masks and words: joined lanes of one bit, counts and searches over the bits of a word (R5, R283). -/

namespace Sys2Proof

@[simp] theorem testBit_zero_bit (b : Bool) : (bit b).testBit 0 = b := by cases b <;> rfl

/-- Bit `j` of joined one-bit lanes is the lowest bit of element `j`. -/
theorem testBit_natOfLanes_one (l : List Nat) (j : Nat) : (natOfLanes 1 l).testBit j = (l.getD j 0).testBit 0 := by
  induction l generalizing j with
  | nil => simp [natOfLanes]
  | cons x l ih =>
    have hlow : natOfLanes 1 (x :: l) = 2 ^ 1 * natOfLanes 1 l + x % 2 ^ 1 := Nat.add_comm _ _
    rw [hlow, Nat.testBit_two_pow_mul_add _ (Nat.mod_lt _ (by decide))]
    cases j with
    | zero => simp
    | succ j => simpa using ih j

theorem getLsbD_joinBits (g : Nat → Nat) {j : Nat} (hj : j < 64) :
    (BitVec.ofNat 64 (natOfLanes 1 ((upto 64).map g))).getLsbD j = (g j).testBit 0 := by
  rw [BitVec.getLsbD_ofNat, testBit_natOfLanes_one]
  simp [upto, hj]

theorem foldl_bit_eq_length_filter (p : Nat → Bool) (l : List Nat) (n : Nat) :
    l.foldl (fun a i => a + bit (p i)) n = n + (l.filter p).length := by
  induction l generalizing n with
  | nil => rfl
  | cons i l ih =>
    rw [List.foldl_cons, ih]
    cases h : p i
    · rw [List.filter_cons_of_neg (by simp [h])]; rfl
    · rw [List.filter_cons_of_pos h, List.length_cons, bit, if_pos rfl]; omega

theorem popCount_eq_length_filter {w : Nat} (x : BitVec w) :
    popCount x = ((List.range w).filter fun i => x.getLsbD i).length := by
  rw [popCount, foldl_bit_eq_length_filter, Nat.zero_add]; rfl

theorem onesOf_headD {w : Nat} (x : BitVec w) (d : Nat) :
    (onesOf x).headD d = ((List.range w).find? fun i => x.getLsbD i).getD d := by
  rw [List.headD_eq_head?_getD, onesOf, List.head?_filter]; rfl

theorem onesOf_getLastD {w : Nat} (x : BitVec w) (d : Nat) :
    (onesOf x).getLastD d = ((List.range w).reverse.find? fun i => x.getLsbD i).getD d := by
  rw [List.getLastD_eq_getLast?, List.getLast?_eq_head?_reverse, onesOf, ← List.filter_reverse, List.head?_filter]; rfl

end Sys2Proof
end

section
/-! SUPPORT. Poison of sources (R266, R395, R396), writes of vector and mask registers read back, and an entry that issues and is
done (R46). -/

namespace Sys2Proof.Machine

/-! ## Codes -/

@[simp] theorem SReg.code_of_clean {x : SReg} (h : x.psn = false) : x.code = none := by simp [SReg.code, h]

@[simp] theorem VReg.firstCode_of_clean {x : VReg} (h : x.psn = 0) : x.firstCode = none := by
  simp [VReg.firstCode, VReg.code, h]

theorem SReg.of_clean {codes : List (Option Code)} (h : codes.findSome? id = none) (v : Word) : SReg.of codes v = SReg.clean v := by
  rw [SReg.of, h]

/-- On clean sources the guard, MSK and the sources carry no code. -/
theorem vecClean.codes {s : State} {f : RF} {rs : List (BitVec 6)} (h : vecClean s f rs) :
    (headCodes s.me f ++ rs.map fun r => ((s.me).getV r.toNat).firstCode).findSome? id = none := by
  obtain ⟨hg, hm, hv⟩ := h
  rw [List.findSome?_eq_none_iff]
  intro c hc
  rcases List.mem_append.1 hc with hhead | hsrc
  · rcases List.mem_cons.1 hhead with rfl | hmsk
    · exact hg
    · exact (List.mem_singleton.1 hmsk).trans (SReg.code_of_clean hm)
  · obtain ⟨r, hr, rfl⟩ := List.mem_map.1 hsrc
    exact VReg.firstCode_of_clean (hv r hr)

/-! ## Registers -/

@[simp] theorem Slot.setV_getM (c : Nat) (t : Slot) (n k : Nat) (x : VReg) : (t.setV c n x).getM k = t.getM k := rfl
@[simp] theorem Slot.setV_pc (c : Nat) (t : Slot) (n : Nat) (x : VReg) : (t.setV c n x).pc = t.pc := rfl

@[simp] theorem Slot.setM_pc (t : Slot) (n : Nat) (x : SReg) : (t.setM n x).pc = t.pc := by
  obtain ⟨l, h⟩ := Slot.setM_eq t n x
  rw [h]

@[simp] theorem State.me_setMask (s : State) (n : Nat) (x : SReg) : (s.setMask n x).me = s.me.setM n x := by
  simp [State.setMask]

@[simp] theorem State.me_putV (b a : State) (n : Nat) (m : Word) (x : VReg) :
    (b.putV a n m x).me = b.me.setV b.now n (mergeVec ((a.me).getV n) m x) := by
  simp [State.putV]

/-- Some bits of a clean mask written from clean sources: the mask stays clean. -/
theorem writeMaskBits_psn {old : SReg} (hold : old.psn = false) (written bits : Word) {codes : List (Option Code)}
    (hc : codes.findSome? id = none) : (writeMaskBits old written bits codes).psn = false := by
  rw [writeMaskBits, hc, hold]
  split <;> simp [hold, SReg.clean]

theorem getLsbD_writeMaskBits {old : SReg} (hold : old.psn = false) (written bits : Word) {codes : List (Option Code)}
    (hc : codes.findSome? id = none) {j : Nat} (hj : j < 64) : (writeMaskBits old written bits codes).val.getLsbD j =
      if written.getLsbD j then bits.getLsbD j else old.val.getLsbD j := by
  rw [writeMaskBits, hc, hold]
  split
  · next h => simp [eq_of_beq h]
  · simp only [SReg.clean, Bool.false_and, Bool.false_eq_true, if_false, BitVec.getLsbD_or, BitVec.getLsbD_and, BitVec.getLsbD_not, hj]
    cases written.getLsbD j <;> simp

/-! ## Issue -/

/-- An instruction that issues, and whose entry is done, leaves the state its entry names. -/
theorem issue_done {i : Instr} {s t : State} {eff : State → State → Eff} (h : issues i s = true)
    (he : eff s (s.retire i) = .done t) : issue i s eff = .next t := by
  rw [issue_of_issues h, he]

/-- A mask m[d], clean and of bits `v`, beside the pc, which has moved on. -/
def MaskResult (s t : State) (d : Nat) (v : Nat → Bool) : Prop :=
  (t.me).pc = (s.me).pc + 8 ∧ ((t.me).getM d).psn = false ∧ ∀ j, j < 64 → ((t.me).getM d).val.getLsbD j = v j

/-- A write of a mask register that ends an issue. -/
theorem maskResult_setMask {s b : State} {d : Nat} {x : SReg} {v : Nat → Bool} (hpc : (b.me).pc = (s.me).pc + 8) (hd : d ≠ 0)
    (hx : x.psn = false) (hv : ∀ j, j < 64 → x.val.getLsbD j = v j) : MaskResult s (b.setMask d x) d v := by
  rw [MaskResult, State.me_setMask, Slot.setM_pc, Slot.getM_setM_same _ _ _ hd]
  exact ⟨hpc, hx, hv⟩

/-- A whole mask written from sources that carry no code. -/
theorem maskResult_of {s b : State} {d : Nat} {codes : List (Option Code)} {x : Word} {v : Nat → Bool}
    (hpc : (b.me).pc = (s.me).pc + 8) (hd : d ≠ 0) (hc : codes.findSome? id = none) (hv : ∀ j, j < 64 → x.getLsbD j = v j) :
    MaskResult s (b.setMask d (SReg.of codes x)) d v := by
  rw [SReg.of_clean hc]
  exact maskResult_setMask hpc hd rfl hv

/-- The bits `written` of a clean mask, written from clean sources as an issue ends. -/
theorem maskResult_writeMaskBits {s b : State} {d : Nat} {old : SReg} {written bits : Word} {codes : List (Option Code)}
    {v : Nat → Bool} (hpc : (b.me).pc = (s.me).pc + 8) (hd : d ≠ 0) (hold : old.psn = false) (hc : codes.findSome? id = none)
    (hv : ∀ j, j < 64 → (if written.getLsbD j then bits.getLsbD j else old.val.getLsbD j) = v j) :
    MaskResult s (b.setMask d (writeMaskBits old written bits codes)) d v :=
  maskResult_setMask hpc hd (writeMaskBits_psn hold written bits hc) fun j hj => by
    rw [getLsbD_writeMaskBits hold written bits hc hj, hv j hj]

theorem State.retire_pc (s : State) (i : Instr) : ((s.retire i).me).pc = (s.me).pc + 8 := by simp

theorem State.retire_putV_pc (s a : State) (i : Instr) (n : Nat) (m : Word) (x : VReg) :
    (((s.retire i).putV a n m x).me).pc = (s.me).pc + 8 := by simp

/-! ## Scalar results (R274, R277, R283, R284) -/

section
variable (f : RF) (s : State)

theorem exec_vext_done (h : issues (.vext f) s = true) : exec (.vext f) s = scalarDone (.vext f) s f.dst
    [s.gcode f.grd, ((s.me).getV f.sa.toNat).firstCode, (s.rs f.sb).code]
    (if (s.rs f.sb).val.toNat < lanesOf f.ty.lane then
      if f.ty.isSigned then wordOfInt (signed f.ty.lane (laneOf ((s.me).getV f.sa.toNat).val f.ty.lane (s.rs f.sb).val.toNat))
      else Sys2Proof.word (laneOf ((s.me).getV f.sa.toNat).val f.ty.lane (s.rs f.sb).val.toNat)
     else 0) := by
  rw [exec_vext, execVext]
  exact issue_done h rfl

theorem exec_vred_int (h : issues (.vred f) s = true) (hF : f.ty.isF = false) : exec (.vred f) s = scalarDone (.vred f) s f.dst
    [s.gcode f.grd, ((s.me).getM f.msk).code, ((s.me).getV f.sa.toNat).codeUnder (mskOf s.me f)]
    (let v := (redTree (redOp f (drawsOf s.me f f.ty.lane 0)) (lanesOf f.ty.lane).log2
        (enabledLanes f.ty.lane (mskOf s.me f) ((s.me).getV f.sa.toNat))).getD (redEmpty f)
     if f.ty.isSigned then wordOfInt (signed f.ty.lane v) else Sys2Proof.word v) := by
  rw [exec_vred, execVred]
  refine issue_done h ?_
  simp only [hF, Bool.false_eq_true, if_false, Option.map_id', List.map_id']
  rfl

theorem exec_vred_float (h : issues (.vred f) s = true) (hF : f.ty.isF = true) : exec (.vred f) s = scalarDone (.vred f) s f.dst
    [s.gcode f.grd, ((s.me).getM f.msk).code, ((s.me).getV f.sa.toNat).codeUnder (mskOf s.me f)]
    (Sys2Proof.word ((redTree (redOp f (drawsOf s.me f f.ty.lane 0)) (lanesOf f.ty.lane).log2
      ((enabledLanes f.ty.lane (mskOf s.me f) ((s.me).getV f.sa.toNat)).map fun o =>
        o.map fun v => roundTo fmtF32 .rne false 0 (f.ty.dec v))).getD (redEmpty f))) := by
  rw [exec_vred, execVred]
  refine issue_done h ?_
  simp only [hF, if_true]
  rfl

theorem exec_mpopc_done (h : issues (.mpopc f) s = true) : exec (.mpopc f) s = scalarDone (.mpopc f) s f.dst
    [s.gcode f.grd, ((s.me).getM f.sa.toNat).code]
    (Sys2Proof.word ((List.range 64).filter fun j => ((s.me).getM f.sa.toNat).val.getLsbD j).length) := by
  rw [exec_mpopc, execMpopc, ← popCount_eq_length_filter]
  exact issue_done h rfl

theorem exec_mfirst_done (h : issues (.mfirst f) s = true) : exec (.mfirst f) s = scalarDone (.mfirst f) s f.dst
    [s.gcode f.grd, ((s.me).getM f.sa.toNat).code]
    (Sys2Proof.word (if f.sub = 0 then ((List.range 64).find? fun j => ((s.me).getM f.sa.toNat).val.getLsbD j).getD 64
      else (((List.range 64).reverse.find? fun j => ((s.me).getM f.sa.toNat).val.getLsbD j).getD 64))) := by
  rw [exec_mfirst, execMfirst, ← onesOf_headD, ← onesOf_getLastD]
  refine issue_done h ?_
  simp only [beq_iff_eq]
  rfl

theorem exec_mmov_scalar (h : issues (.mmov f) s = true) (hlow : f.low % 8 = 2) : exec (.mmov f) s =
    scalarDone (.mmov f) s f.dst [s.gcode f.grd, ((s.me).getM f.sa.toNat).code] ((s.me).getM f.sa.toNat).val := by
  rw [exec_mmov, execMmov]
  refine issue_done h ?_
  rw [hlow]
  rfl

/-! ## Mask results (R271, R272, R283, R284) -/

variable {f s}

theorem exec_mlog_mask (h : issues (.mlog f) s = true) (hg : s.gcode f.grd = none) (hd : f.dst.toNat ≠ 0)
    (ha : ((s.me).getM f.sa.toNat).psn = false) (hb : ((s.me).getM f.sb.toNat).psn = false) :
    ∃ t, exec (.mlog f) s = .next t ∧ MaskResult s t f.dst.toNat fun j =>
      f.sub.getLsbD (2 * bit (((s.me).getM f.sa.toNat).val.getLsbD j) + bit (((s.me).getM f.sb.toNat).val.getLsbD j)) := by
  have hc : [s.gcode f.grd, ((s.me).getM f.sa.toNat).code, ((s.me).getM f.sb.toNat).code].findSome? id = none := by
    simp [hg, ha, hb]
  rw [exec_mlog, execMlog]
  exact ⟨_, issue_done h rfl, maskResult_of (s.retire_pc _) hd hc fun j hj =>
    (getLsbD_joinBits _ hj).trans (testBit_zero_bit _)⟩

theorem exec_mmov_mask (h : issues (.mmov f) s = true) (hg : s.gcode f.grd = none) (hd : f.dst.toNat ≠ 0)
    (hlow : f.low % 8 = 0) (ha : ((s.me).getM f.sa.toNat).psn = false) :
    ∃ t, exec (.mmov f) s = .next t ∧ MaskResult s t f.dst.toNat fun j => ((s.me).getM f.sa.toNat).val.getLsbD j := by
  have hc : [s.gcode f.grd, ((s.me).getM f.sa.toNat).code].findSome? id = none := by simp [hg, ha]
  rw [exec_mmov, execMmov]
  exact ⟨_, issue_done h (by rw [hlow]; rfl), maskResult_of (s.retire_pc _) hd hc fun _ _ => rfl⟩

theorem exec_mmov_ofScalar (h : issues (.mmov f) s = true) (hg : s.gcode f.grd = none) (hd : f.dst.toNat ≠ 0)
    (hlow : f.low % 8 = 1) (ha : (s.rs f.sa).psn = false) :
    ∃ t, exec (.mmov f) s = .next t ∧ MaskResult s t f.dst.toNat fun j => (s.rs f.sa).val.getLsbD j := by
  have hc : [s.gcode f.grd, (s.rs f.sa).code].findSome? id = none := by simp [hg, ha]
  rw [exec_mmov, execMmov]
  exact ⟨_, issue_done h (by rw [hlow]; rfl), maskResult_of (s.retire_pc _) hd hc fun _ _ => rfl⟩

theorem exec_mmov_ofSigns (h : issues (.mmov f) s = true) (hg : s.gcode f.grd = none) (hd : f.dst.toNat ≠ 0)
    (hlow : f.low % 8 = 3) (ha : ((s.me).getV f.sa.toNat).psn = 0) :
    ∃ t, exec (.mmov f) s = .next t ∧ MaskResult s t f.dst.toNat fun j =>
      (laneOf ((s.me).getV f.sa.toNat).val f.ty.lane (64 * (f.low / 8) + j)).testBit (f.ty.lane - 1) := by
  have hc : [s.gcode f.grd, ((s.me).getV f.sa.toNat).firstCode].findSome? id = none := by simp [hg, ha]
  rw [exec_mmov, execMmov]
  refine ⟨_, issue_done h (by rw [hlow]; rfl), maskResult_of (s.retire_pc _) hd hc fun j hj => ?_⟩
  refine (getLsbD_joinBits _ hj).trans ?_
  rw [Nat.testBit_div_two_pow, Nat.zero_add]

theorem exec_vcmp_mask (h : issues (.vcmp f) s = true) (hv : vecClean s f [f.sa, f.sb]) (hd : f.dst.toNat ≠ 0)
    (hold : ((s.me).getM f.dst.toNat).psn = false) (hlow : f.low / 8 = 0) :
    ∃ t, exec (.vcmp f) s = .next t ∧ MaskResult s t f.dst.toNat fun j =>
      if (mskOf s.me f).getLsbD j then (List.range (32 / f.ty.lane)).all fun q => vcond f.ty (f.low % 8)
        (laneOf ((s.me).getV f.sa.toNat).val f.ty.lane (32 / f.ty.lane * j + q))
        (laneOf ((s.me).getV f.sb.toNat).val f.ty.lane (32 / f.ty.lane * j + q))
      else ((s.me).getM f.dst.toNat).val.getLsbD j := by
  rw [exec_vcmp, execVcmp]
  refine ⟨_, issue_done h (by rw [hlow]; rfl), maskResult_writeMaskBits (s.retire_pc _) hd hold hv.codes fun j hj => ?_⟩
  rw [getLsbD_joinBits _ hj, testBit_zero_bit]
  rfl

theorem exec_vacs_mask (h : issues (.vacs f) s = true) (hv : vecClean s f [f.sa, f.sb, f.sc]) (hd : f.low % 8 ≠ 0)
    (hold : ((s.me).getM (f.low % 8)).psn = false) :
    ∃ t, exec (.vacs f) s = .next t ∧ MaskResult s t (f.low % 8) fun j =>
      if (mskOf s.me f).getLsbD ((64 * (f.low / 8 % 2) + j) / 2) then
        (acsLane f (laneOf ((s.me).getV f.sa.toNat).val 16 (64 * (f.low / 8 % 2) + j))
          (laneOf ((s.me).getV f.sb.toNat).val 16 (64 * (f.low / 8 % 2) + j))
          (laneOf ((s.me).getV f.sc.toNat).val 16 (64 * (f.low / 8 % 2) + j))).2
      else ((s.me).getM (f.low % 8)).val.getLsbD j := by
  rw [exec_vacs, execVacs]
  refine ⟨_, issue_done h rfl, maskResult_writeMaskBits (s.retire_putV_pc _ _ _ _ _) hd hold hv.codes fun j hj => ?_⟩
  rw [getLsbD_joinBits _ hj, getLsbD_joinBits _ hj, testBit_zero_bit, testBit_zero_bit]

end

/-- Settles O42: each scalar clause is its entry's own value, each mask clause a write of joined bits read back. -/
theorem maskResults : Obligations.MaskResults := by
  unfold Obligations.MaskResults
  intro f s
  refine ⟨exec_vext_done f s, exec_vred_int f s, exec_vred_float f s, exec_mpopc_done f s, exec_mfirst_done f s,
    exec_mmov_scalar f s, fun hg hdst => ?_, fun hv hd hold h => exec_vacs_mask h hv hd hold⟩
  have hd : f.dst.toNat ≠ 0 := fun h0 => hdst (BitVec.eq_of_toNat_eq h0)
  refine ⟨fun ha hb h => exec_mlog_mask h hg hd ha hb, fun hlow ha h => exec_mmov_mask h hg hd hlow ha,
    fun hlow ha h => exec_mmov_ofScalar h hg hd hlow ha, fun hlow ha h => exec_mmov_ofSigns h hg hd hlow ha,
    fun hv hold hlow h => exec_vcmp_mask h hv hd hold hlow⟩

end Sys2Proof.Machine
end
